-- ==== Sys2Proof/Syntax.lean ====
section
/-!
DEFINITION. The instruction syntax: one constructor for each row of spec/opcode_table.json. The first 289
constructors are rows with a word (operands are the word's own bit fields, offsets put in order); the other 105 are
the steps of the part's other agents (spec/95_what_each_step_holds.md), which have no word.
-/
namespace Sys2Proof

/-- The three vector queues of a strand (R77). -/
inductive VQueue where
  | vlq | vaq | vsq
  deriving DecidableEq, Repr

/-- One step of the part: an instruction word, or an event of one of its agents. -/
inductive Instr where
  /-- LUI (R54): Writes the sign-extended upper immediate to xd. -/
  | lui (rd : BitVec 5) (imm : BitVec 20)
  /-- AUIPC (R54): Adds the upper immediate to pc and writes the sum to xd. -/
  | auipc (rd : BitVec 5) (imm : BitVec 20)
  /-- JAL (R54): Jumps pc-relative and writes the link address; a target not aligned to 4 traps. -/
  | jal (rd : BitVec 5) (off : BitVec 20)
  /-- JALR (R54): Jumps to X[s1]+imm with bit 0 cleared and writes the link address. -/
  | jalr (rd : BitVec 5) (rs1 : BitVec 5) (imm : BitVec 12)
  /-- BEQ (R54): Branches if the two registers are equal. -/
  | beq (rs1 : BitVec 5) (rs2 : BitVec 5) (off : BitVec 12)
  /-- BNE (R54): Branches if the two registers differ. -/
  | bne (rs1 : BitVec 5) (rs2 : BitVec 5) (off : BitVec 12)
  /-- BLT (R54): Branches if less than, signed. -/
  | blt (rs1 : BitVec 5) (rs2 : BitVec 5) (off : BitVec 12)
  /-- BGE (R54): Branches if greater or equal, signed. -/
  | bge (rs1 : BitVec 5) (rs2 : BitVec 5) (off : BitVec 12)
  /-- BLTU (R54): Branches if less than, unsigned. -/
  | bltu (rs1 : BitVec 5) (rs2 : BitVec 5) (off : BitVec 12)
  /-- BGEU (R54): Branches if greater or equal, unsigned. -/
  | bgeu (rs1 : BitVec 5) (rs2 : BitVec 5) (off : BitVec 12)
  /-- LB (R56): Loads a sign-extended byte. -/
  | lb (rd : BitVec 5) (rs1 : BitVec 5) (imm : BitVec 12)
  /-- LH (R56): Loads a sign-extended halfword. -/
  | lh (rd : BitVec 5) (rs1 : BitVec 5) (imm : BitVec 12)
  /-- LW (R56): Loads a sign-extended word. -/
  | lw (rd : BitVec 5) (rs1 : BitVec 5) (imm : BitVec 12)
  /-- LD (R56): Loads a doubleword. -/
  | ld (rd : BitVec 5) (rs1 : BitVec 5) (imm : BitVec 12)
  /-- LBU (R56): Loads a zero-extended byte. -/
  | lbu (rd : BitVec 5) (rs1 : BitVec 5) (imm : BitVec 12)
  /-- LHU (R56): Loads a zero-extended halfword. -/
  | lhu (rd : BitVec 5) (rs1 : BitVec 5) (imm : BitVec 12)
  /-- LWU (R56): Loads a zero-extended word. -/
  | lwu (rd : BitVec 5) (rs1 : BitVec 5) (imm : BitVec 12)
  /-- SB (R56): Stores a byte. -/
  | sb (rs1 : BitVec 5) (rs2 : BitVec 5) (imm : BitVec 12)
  /-- SH (R56): Stores a halfword. -/
  | sh (rs1 : BitVec 5) (rs2 : BitVec 5) (imm : BitVec 12)
  /-- SW (R56): Stores a word. -/
  | sw (rs1 : BitVec 5) (rs2 : BitVec 5) (imm : BitVec 12)
  /-- SD (R56): Stores a doubleword. -/
  | sd (rs1 : BitVec 5) (rs2 : BitVec 5) (imm : BitVec 12)
  /-- ADDI (R54): Adds a sign-extended immediate. -/
  | addi (rd : BitVec 5) (rs1 : BitVec 5) (imm : BitVec 12)
  /-- SLTI (R54): Sets xd to 1 if X[s1] is less than the immediate, signed. -/
  | slti (rd : BitVec 5) (rs1 : BitVec 5) (imm : BitVec 12)
  /-- SLTIU (R54): Sets xd to 1 if X[s1] is less than the immediate, unsigned. -/
  | sltiu (rd : BitVec 5) (rs1 : BitVec 5) (imm : BitVec 12)
  /-- XORI (R54): XORs an immediate. -/
  | xori (rd : BitVec 5) (rs1 : BitVec 5) (imm : BitVec 12)
  /-- ORI (R54): ORs an immediate. -/
  | ori (rd : BitVec 5) (rs1 : BitVec 5) (imm : BitVec 12)
  /-- ANDI (R54): ANDs an immediate. -/
  | andi (rd : BitVec 5) (rs1 : BitVec 5) (imm : BitVec 12)
  /-- SLLI (R54): Shifts left by a 6-bit immediate. -/
  | slli (rd : BitVec 5) (rs1 : BitVec 5) (shamt : BitVec 6)
  /-- SRLI (R54): Shifts right logically by a 6-bit immediate. -/
  | srli (rd : BitVec 5) (rs1 : BitVec 5) (shamt : BitVec 6)
  /-- SRAI (R54): Shifts right arithmetically by a 6-bit immediate. -/
  | srai (rd : BitVec 5) (rs1 : BitVec 5) (shamt : BitVec 6)
  /-- ADDIW (R54): Adds an immediate on 32 bits and sign-extends. -/
  | addiw (rd : BitVec 5) (rs1 : BitVec 5) (imm : BitVec 12)
  /-- SLLIW (R54): Shifts the low word left and sign-extends. -/
  | slliw (rd : BitVec 5) (rs1 : BitVec 5) (shamt : BitVec 5)
  /-- SRLIW (R54): Shifts the low word right logically and sign-extends. -/
  | srliw (rd : BitVec 5) (rs1 : BitVec 5) (shamt : BitVec 5)
  /-- SRAIW (R54): Shifts the low word right arithmetically and sign-extends. -/
  | sraiw (rd : BitVec 5) (rs1 : BitVec 5) (shamt : BitVec 5)
  /-- ADD (R54): Adds two registers. -/
  | add (rd : BitVec 5) (rs1 : BitVec 5) (rs2 : BitVec 5)
  /-- SUB (R54): Subtracts two registers. -/
  | sub (rd : BitVec 5) (rs1 : BitVec 5) (rs2 : BitVec 5)
  /-- SLL (R54): Shifts left by X[s2][5:0]. -/
  | sll (rd : BitVec 5) (rs1 : BitVec 5) (rs2 : BitVec 5)
  /-- SLT (R54): Sets on less than, signed. -/
  | slt (rd : BitVec 5) (rs1 : BitVec 5) (rs2 : BitVec 5)
  /-- SLTU (R54): Sets on less than, unsigned. -/
  | sltu (rd : BitVec 5) (rs1 : BitVec 5) (rs2 : BitVec 5)
  /-- XOR (R54): XORs two registers. -/
  | xor (rd : BitVec 5) (rs1 : BitVec 5) (rs2 : BitVec 5)
  /-- SRL (R54): Shifts right logically. -/
  | srl (rd : BitVec 5) (rs1 : BitVec 5) (rs2 : BitVec 5)
  /-- SRA (R54): Shifts right arithmetically. -/
  | sra (rd : BitVec 5) (rs1 : BitVec 5) (rs2 : BitVec 5)
  /-- OR (R54): ORs two registers. -/
  | or (rd : BitVec 5) (rs1 : BitVec 5) (rs2 : BitVec 5)
  /-- AND (R54): ANDs two registers. -/
  | and (rd : BitVec 5) (rs1 : BitVec 5) (rs2 : BitVec 5)
  /-- ADDW (R54): Adds on 32 bits and sign-extends. -/
  | addw (rd : BitVec 5) (rs1 : BitVec 5) (rs2 : BitVec 5)
  /-- SUBW (R54): Subtracts on 32 bits and sign-extends. -/
  | subw (rd : BitVec 5) (rs1 : BitVec 5) (rs2 : BitVec 5)
  /-- SLLW (R54): Shifts the low word left by X[s2][4:0]. -/
  | sllw (rd : BitVec 5) (rs1 : BitVec 5) (rs2 : BitVec 5)
  /-- SRLW (R54): Shifts the low word right logically. -/
  | srlw (rd : BitVec 5) (rs1 : BitVec 5) (rs2 : BitVec 5)
  /-- SRAW (R54): Shifts the low word right arithmetically. -/
  | sraw (rd : BitVec 5) (rs1 : BitVec 5) (rs2 : BitVec 5)
  /-- FENCE (R58): Orders the strand's scalar accesses per RVWMO at device scope. -/
  | fence (rd : BitVec 5) (rs1 : BitVec 5) (succ : BitVec 4) (pred : BitVec 4) (fm : BitVec 4)
  /-- FENCE_TSO (R58): Total-store-order fence on scalar accesses. -/
  | fenceTso (rd : BitVec 5) (rs1 : BitVec 5)
  /-- PAUSE (R58): Makes the strand ineligible for issue for 32 cy. -/
  | pause
  /-- FENCE_I (R59): Drains the store buffer and invalidates fetch buffer and covered icache lines. -/
  | fenceI (rd : BitVec 5) (rs1 : BitVec 5) (imm : BitVec 12)
  /-- ECALL (R63): Raises an environment call from the current mode. -/
  | ecall
  /-- EBREAK (R63): Raises a breakpoint exception. -/
  | ebreak
  /-- MUL (R54): Low 64 bits of the product. -/
  | mul (rd : BitVec 5) (rs1 : BitVec 5) (rs2 : BitVec 5)
  /-- MULH (R54): High bits of the signed product. -/
  | mulh (rd : BitVec 5) (rs1 : BitVec 5) (rs2 : BitVec 5)
  /-- MULHSU (R54): High bits of the signed-by-unsigned product. -/
  | mulhsu (rd : BitVec 5) (rs1 : BitVec 5) (rs2 : BitVec 5)
  /-- MULHU (R54): High bits of the unsigned product. -/
  | mulhu (rd : BitVec 5) (rs1 : BitVec 5) (rs2 : BitVec 5)
  /-- DIV (R55): Signed division without trap on zero or overflow. -/
  | div (rd : BitVec 5) (rs1 : BitVec 5) (rs2 : BitVec 5)
  /-- DIVU (R55): Unsigned division. -/
  | divu (rd : BitVec 5) (rs1 : BitVec 5) (rs2 : BitVec 5)
  /-- REM (R55): Signed remainder. -/
  | rem (rd : BitVec 5) (rs1 : BitVec 5) (rs2 : BitVec 5)
  /-- REMU (R55): Unsigned remainder. -/
  | remu (rd : BitVec 5) (rs1 : BitVec 5) (rs2 : BitVec 5)
  /-- MULW (R54): 32-bit product sign-extended. -/
  | mulw (rd : BitVec 5) (rs1 : BitVec 5) (rs2 : BitVec 5)
  /-- DIVW (R55): 32-bit signed division. -/
  | divw (rd : BitVec 5) (rs1 : BitVec 5) (rs2 : BitVec 5)
  /-- DIVUW (R55): 32-bit unsigned division. -/
  | divuw (rd : BitVec 5) (rs1 : BitVec 5) (rs2 : BitVec 5)
  /-- REMW (R55): 32-bit signed remainder. -/
  | remw (rd : BitVec 5) (rs1 : BitVec 5) (rs2 : BitVec 5)
  /-- REMUW (R55): 32-bit unsigned remainder. -/
  | remuw (rd : BitVec 5) (rs1 : BitVec 5) (rs2 : BitVec 5)
  /-- LR_W (R57): Loads a word and takes a reservation on its 32-byte granule. -/
  | lrW (rd : BitVec 5) (rs1 : BitVec 5) (rl : BitVec 1) (aq : BitVec 1)
  /-- LR_D (R57): Loads a doubleword and takes a reservation. -/
  | lrD (rd : BitVec 5) (rs1 : BitVec 5) (rl : BitVec 1) (aq : BitVec 1)
  /-- SC_W (R57): Stores a word if the reservation holds; writes 0 or 1. -/
  | scW (rd : BitVec 5) (rs1 : BitVec 5) (rs2 : BitVec 5) (rl : BitVec 1) (aq : BitVec 1)
  /-- SC_D (R57): Stores a doubleword if the reservation holds. -/
  | scD (rd : BitVec 5) (rs1 : BitVec 5) (rs2 : BitVec 5) (rl : BitVec 1) (aq : BitVec 1)
  /-- AMOSWAP_W (R57): Atomic swap of a word at the home. -/
  | amoswapW (rd : BitVec 5) (rs1 : BitVec 5) (rs2 : BitVec 5) (rl : BitVec 1) (aq : BitVec 1)
  /-- AMOSWAP_D (R57): Atomic swap of a doubleword. -/
  | amoswapD (rd : BitVec 5) (rs1 : BitVec 5) (rs2 : BitVec 5) (rl : BitVec 1) (aq : BitVec 1)
  /-- AMOADD_W (R57): Atomic add of a word. -/
  | amoaddW (rd : BitVec 5) (rs1 : BitVec 5) (rs2 : BitVec 5) (rl : BitVec 1) (aq : BitVec 1)
  /-- AMOADD_D (R57): Atomic add of a doubleword. -/
  | amoaddD (rd : BitVec 5) (rs1 : BitVec 5) (rs2 : BitVec 5) (rl : BitVec 1) (aq : BitVec 1)
  /-- AMOXOR_W (R57): Atomic XOR of a word. -/
  | amoxorW (rd : BitVec 5) (rs1 : BitVec 5) (rs2 : BitVec 5) (rl : BitVec 1) (aq : BitVec 1)
  /-- AMOXOR_D (R57): Atomic XOR of a doubleword. -/
  | amoxorD (rd : BitVec 5) (rs1 : BitVec 5) (rs2 : BitVec 5) (rl : BitVec 1) (aq : BitVec 1)
  /-- AMOAND_W (R57): Atomic AND of a word. -/
  | amoandW (rd : BitVec 5) (rs1 : BitVec 5) (rs2 : BitVec 5) (rl : BitVec 1) (aq : BitVec 1)
  /-- AMOAND_D (R57): Atomic AND of a doubleword. -/
  | amoandD (rd : BitVec 5) (rs1 : BitVec 5) (rs2 : BitVec 5) (rl : BitVec 1) (aq : BitVec 1)
  /-- AMOOR_W (R57): Atomic OR of a word. -/
  | amoorW (rd : BitVec 5) (rs1 : BitVec 5) (rs2 : BitVec 5) (rl : BitVec 1) (aq : BitVec 1)
  /-- AMOOR_D (R57): Atomic OR of a doubleword. -/
  | amoorD (rd : BitVec 5) (rs1 : BitVec 5) (rs2 : BitVec 5) (rl : BitVec 1) (aq : BitVec 1)
  /-- AMOMIN_W (R57): Atomic signed minimum of a word. -/
  | amominW (rd : BitVec 5) (rs1 : BitVec 5) (rs2 : BitVec 5) (rl : BitVec 1) (aq : BitVec 1)
  /-- AMOMIN_D (R57): Atomic signed minimum of a doubleword. -/
  | amominD (rd : BitVec 5) (rs1 : BitVec 5) (rs2 : BitVec 5) (rl : BitVec 1) (aq : BitVec 1)
  /-- AMOMAX_W (R57): Atomic signed maximum of a word. -/
  | amomaxW (rd : BitVec 5) (rs1 : BitVec 5) (rs2 : BitVec 5) (rl : BitVec 1) (aq : BitVec 1)
  /-- AMOMAX_D (R57): Atomic signed maximum of a doubleword. -/
  | amomaxD (rd : BitVec 5) (rs1 : BitVec 5) (rs2 : BitVec 5) (rl : BitVec 1) (aq : BitVec 1)
  /-- AMOMINU_W (R57): Atomic unsigned minimum of a word. -/
  | amominuW (rd : BitVec 5) (rs1 : BitVec 5) (rs2 : BitVec 5) (rl : BitVec 1) (aq : BitVec 1)
  /-- AMOMINU_D (R57): Atomic unsigned minimum of a doubleword. -/
  | amominuD (rd : BitVec 5) (rs1 : BitVec 5) (rs2 : BitVec 5) (rl : BitVec 1) (aq : BitVec 1)
  /-- AMOMAXU_W (R57): Atomic unsigned maximum of a word. -/
  | amomaxuW (rd : BitVec 5) (rs1 : BitVec 5) (rs2 : BitVec 5) (rl : BitVec 1) (aq : BitVec 1)
  /-- AMOMAXU_D (R57): Atomic unsigned maximum of a doubleword. -/
  | amomaxuD (rd : BitVec 5) (rs1 : BitVec 5) (rs2 : BitVec 5) (rl : BitVec 1) (aq : BitVec 1)
  /-- FLW (R60): Loads 32 bits into an f register. -/
  | flw (rd : BitVec 5) (rs1 : BitVec 5) (imm : BitVec 12)
  /-- FSW (R60): Stores 32 bits of an f register. -/
  | fsw (rs1 : BitVec 5) (rs2 : BitVec 5) (imm : BitVec 12)
  /-- FMADD_S (R60): Fused multiply-add in binary32. -/
  | fmaddS (rd : BitVec 5) (rm : BitVec 3) (rs1 : BitVec 5) (rs2 : BitVec 5) (rs3 : BitVec 5)
  /-- FMSUB_S (R60): Fused multiply-subtract. -/
  | fmsubS (rd : BitVec 5) (rm : BitVec 3) (rs1 : BitVec 5) (rs2 : BitVec 5) (rs3 : BitVec 5)
  /-- FNMSUB_S (R60): Negated fused multiply-subtract. -/
  | fnmsubS (rd : BitVec 5) (rm : BitVec 3) (rs1 : BitVec 5) (rs2 : BitVec 5) (rs3 : BitVec 5)
  /-- FNMADD_S (R60): Negated fused multiply-add. -/
  | fnmaddS (rd : BitVec 5) (rm : BitVec 3) (rs1 : BitVec 5) (rs2 : BitVec 5) (rs3 : BitVec 5)
  /-- FADD_S (R60): Binary32 addition rounded by rm. -/
  | faddS (rd : BitVec 5) (rm : BitVec 3) (rs1 : BitVec 5) (rs2 : BitVec 5)
  /-- FSUB_S (R60): Binary32 subtraction. -/
  | fsubS (rd : BitVec 5) (rm : BitVec 3) (rs1 : BitVec 5) (rs2 : BitVec 5)
  /-- FMUL_S (R60): Binary32 multiplication. -/
  | fmulS (rd : BitVec 5) (rm : BitVec 3) (rs1 : BitVec 5) (rs2 : BitVec 5)
  /-- FDIV_S (R60): Binary32 division. -/
  | fdivS (rd : BitVec 5) (rm : BitVec 3) (rs1 : BitVec 5) (rs2 : BitVec 5)
  /-- FSQRT_S (R60): Binary32 square root. -/
  | fsqrtS (rd : BitVec 5) (rm : BitVec 3) (rs1 : BitVec 5)
  /-- FSGNJ_S (R60): Magnitude of fs1 with the sign of fs2. -/
  | fsgnjS (rd : BitVec 5) (rs1 : BitVec 5) (rs2 : BitVec 5)
  /-- FSGNJN_S (R60): Magnitude of fs1 with the inverted sign of fs2. -/
  | fsgnjnS (rd : BitVec 5) (rs1 : BitVec 5) (rs2 : BitVec 5)
  /-- FSGNJX_S (R60): Magnitude of fs1 with the XOR of both signs. -/
  | fsgnjxS (rd : BitVec 5) (rs1 : BitVec 5) (rs2 : BitVec 5)
  /-- FMIN_S (R60): minimumNumber with -0 below +0. -/
  | fminS (rd : BitVec 5) (rs1 : BitVec 5) (rs2 : BitVec 5)
  /-- FMAX_S (R60): maximumNumber with -0 below +0. -/
  | fmaxS (rd : BitVec 5) (rs1 : BitVec 5) (rs2 : BitVec 5)
  /-- FCVT_W_S (R60): Converts to signed 32-bit integer, saturating. -/
  | fcvtWS (rd : BitVec 5) (rm : BitVec 3) (rs1 : BitVec 5)
  /-- FCVT_WU_S (R60): Converts to unsigned 32-bit integer, saturating. -/
  | fcvtWuS (rd : BitVec 5) (rm : BitVec 3) (rs1 : BitVec 5)
  /-- FCVT_L_S (R60): Converts to signed 64-bit integer, saturating. -/
  | fcvtLS (rd : BitVec 5) (rm : BitVec 3) (rs1 : BitVec 5)
  /-- FCVT_LU_S (R60): Converts to unsigned 64-bit integer, saturating. -/
  | fcvtLuS (rd : BitVec 5) (rm : BitVec 3) (rs1 : BitVec 5)
  /-- FCVT_S_W (R60): Converts a signed 32-bit integer to binary32. -/
  | fcvtSW (rd : BitVec 5) (rm : BitVec 3) (rs1 : BitVec 5)
  /-- FCVT_S_WU (R60): Converts an unsigned 32-bit integer to binary32. -/
  | fcvtSWu (rd : BitVec 5) (rm : BitVec 3) (rs1 : BitVec 5)
  /-- FCVT_S_L (R60): Converts a signed 64-bit integer to binary32. -/
  | fcvtSL (rd : BitVec 5) (rm : BitVec 3) (rs1 : BitVec 5)
  /-- FCVT_S_LU (R60): Converts an unsigned 64-bit integer to binary32. -/
  | fcvtSLu (rd : BitVec 5) (rm : BitVec 3) (rs1 : BitVec 5)
  /-- FMV_X_W (R60): Moves f-register bits to xd, sign-extended. -/
  | fmvXW (rd : BitVec 5) (rs1 : BitVec 5)
  /-- FCLASS_S (R60): Writes the one-hot class mask. -/
  | fclassS (rd : BitVec 5) (rs1 : BitVec 5)
  /-- FEQ_S (R60): Writes 1 if equal. -/
  | feqS (rd : BitVec 5) (rs1 : BitVec 5) (rs2 : BitVec 5)
  /-- FLT_S (R60): Writes 1 if less than. -/
  | fltS (rd : BitVec 5) (rs1 : BitVec 5) (rs2 : BitVec 5)
  /-- FLE_S (R60): Writes 1 if less or equal. -/
  | fleS (rd : BitVec 5) (rs1 : BitVec 5) (rs2 : BitVec 5)
  /-- FMV_W_X (R60): Moves X[s1][31:0] into an f register. -/
  | fmvWX (rd : BitVec 5) (rs1 : BitVec 5)
  /-- CSRRW (R63): Reads a CSR and writes X[s1] to it. -/
  | csrrw (rd : BitVec 5) (rs1 : BitVec 5) (csr : BitVec 12)
  /-- CSRRS (R63): Reads a CSR and sets the bits of X[s1]. -/
  | csrrs (rd : BitVec 5) (rs1 : BitVec 5) (csr : BitVec 12)
  /-- CSRRC (R63): Reads a CSR and clears the bits of X[s1]. -/
  | csrrc (rd : BitVec 5) (rs1 : BitVec 5) (csr : BitVec 12)
  /-- CSRRWI (R63): Reads a CSR and writes a zero-extended immediate. -/
  | csrrwi (rd : BitVec 5) (u : BitVec 5) (csr : BitVec 12)
  /-- CSRRSI (R63): Reads a CSR and sets immediate bits. -/
  | csrrsi (rd : BitVec 5) (u : BitVec 5) (csr : BitVec 12)
  /-- CSRRCI (R63): Reads a CSR and clears immediate bits. -/
  | csrrci (rd : BitVec 5) (u : BitVec 5) (csr : BitVec 12)
  /-- SRET (R101): Returns from an S-mode trap, reinstating any held resume state. -/
  | sret
  /-- MRET (R101): Returns from an M-mode trap, reinstating any held resume state. -/
  | mret
  /-- WFI (R63): Stops issue until an interrupt is pending for the strand. -/
  | wfi
  /-- SFENCE_VMA (R63): Invalidates matching translations and walk-cache entries of the issuing core. -/
  | sfenceVma (rs1 : BitVec 5) (rs2 : BitVec 5)
  /-- VLOOP (R74): Counts down a strip-mined loop, advances slot registers and branches. -/
  | vloop (xc : BitVec 5) (slot : BitVec 2) (off : BitVec 12)
  /-- VLOOPCFG (R73): Loads a loop slot's entries and clears its previous and miss counts. -/
  | vloopcfg (slot : BitVec 2) (rs1 : BitVec 5)
  /-- VCFG (R68): Sets vector register count and slip depth and returns the old configuration. -/
  | vcfg (rd : BitVec 5) (rs1 : BitVec 5)
  /-- VSETLEN (R70): Grants a vector length and sets the element type. -/
  | vsetlen (rd : BitVec 5) (rs1 : BitVec 5) (ty : BitVec 4)
  /-- LYCFG (R166): Configures a leeway register's chains and clears its residues. -/
  | lycfg (ly : BitVec 2) (rs1 : BitVec 5)
  /-- LYCLR (R167): Clears every residue of a leeway register. -/
  | lyclr (ly : BitVec 2)
  /-- LYSAVE (R168): Writes the 256 residues into a vector register. -/
  | lysave (d : BitVec 5) (ly : BitVec 2)
  /-- LYLOAD (R169): Loads residues of a leeway register from a vector register. -/
  | lyload (ly : BitVec 2) (v1 : BitVec 5)
  /-- FLSC (R170): Converts a block scale code into binary32 in an f register. -/
  | flsc (rd : BitVec 5) (rs1 : BitVec 5) (sf : BitVec 1)
  /-- LDFE (R200): Waits for a scratch line to be full, reads 8 bytes and empties it. -/
  | ldfe (rd : BitVec 5) (rs1 : BitVec 5)
  /-- STFE (R200): Stores 8 bytes to scratch and sets the line full. -/
  | stfe (rs1 : BitVec 5) (rs2 : BitVec 5)
  /-- RINGSET (R205): Reads a ring descriptor and joins or creates the ring in a role. -/
  | ringset (ring : BitVec 3) (rs1 : BitVec 5)
  /-- RINGSET_WITHDRAW (R205): ringset with xs1 = x0 withdraws the strand from the ring. -/
  | ringsetWithdraw (ring : BitVec 3)
  /-- RINGACQ (R207): Acquires a relative ring stage and writes a result code. -/
  | ringacq (rd : BitVec 5) (rs1 : BitVec 5) (ring : BitVec 3)
  /-- RINGREL (R208): Posts a producer or consumer release of a ring stage. -/
  | ringrel (rd : BitVec 5) (ring : BitVec 3)
  /-- RINGEXP (R209): Adds to the expectation of the lowest incomplete stage. -/
  | ringexp (ring : BitVec 3) (rs1 : BitVec 5)
  /-- RINGTST (R210): Reports a ring stage's state without acquiring. -/
  | ringtst (rd : BitVec 5) (rs1 : BitVec 5) (ring : BitVec 3)
  /-- CPSET (R213): Writes a copy channel shadow register, FLG bit 63 requesting a channel reset. -/
  | cpset (ch : BitVec 2) (rs1 : BitVec 5) (sel : BitVec 5)
  /-- CPLAUNCH (R214): Captures the shadow registers, checks them and launches a transfer. -/
  | cplaunch (rd : BitVec 5) (ch : BitVec 2)
  /-- CPSTAT (R216): Reads a channel's watermark, error flag and transfers in flight, with acquire. -/
  | cpstat (rd : BitVec 5) (ch : BitVec 2)
  /-- WAITC (R218): Holds issue until outstanding loads, stores, copies and array commands fall to the given counts. -/
  | waitc (na : BitVec 3) (nb : BitVec 3) (nc : BitVec 3) (nd : BitVec 3)
  /-- STRMOPEN (R220): Opens a stream endpoint towards a peer hart. -/
  | strmopen (rd : BitVec 5) (rs1 : BitVec 5)
  /-- STRMCLOSE (R220): Closes a stream endpoint after its older vsend and vrecv complete. -/
  | strmclose (rs1 : BitVec 5)
  /-- TACK (R224): Queues a direction split for a die link and writes a result code. -/
  | tack (rd : BitVec 5) (rs1 : BitVec 5) (rs2 : BitVec 5)
  /-- QPUSH (R235): Appends a 64-byte record to a queue, with release. -/
  | qpush (rd : BitVec 5) (rs1 : BitVec 5) (rs2 : BitVec 5)
  /-- QPOP (R235): Removes the lowest-keyed of the 64 oldest records into memory, with acquire. -/
  | qpop (rd : BitVec 5) (rs1 : BitVec 5) (rs2 : BitVec 5)
  /-- EXIT (R237): Checks the successor list and ends the task. -/
  | exit (rs1 : BitVec 5) (cnt : BitVec 5)
  /-- YIELD (R239): Makes the strand not ready until 64 cy or the other ready strands have issued. -/
  | yield
  /-- WDQ (R241): Sends a query to a work distributor counter. -/
  | wdq (rs1 : BitVec 5) (rs2 : BitVec 5)
  /-- TCOMMIT (R252): Posts a fragment packet under a ticket to the tile commit unit. -/
  | tcommit (rs1 : BitVec 5) (rs2 : BitVec 5)
  /-- TSKIP (R252): Releases a run of primitive serials without coverage. -/
  | tskip (rs1 : BitVec 5)
  /-- TCFG (R251): Queues one draw's configuration for a tile. -/
  | tcfg (rs1 : BitVec 5) (rs2 : BitVec 5)
  /-- GANGARM (R242): Arms a gang entry with a start tick, or disarms it. -/
  | gangarm (rs1 : BitVec 5) (rs2 : BitVec 5)
  /-- FENCE_SV (R263): Orders older scalar accesses before later vector, copy and array accesses. -/
  | fenceSv (scope : BitVec 3)
  /-- FENCE_VS (R264): Holds issue until older vector and array accesses have completed. -/
  | fenceVs (scope : BitVec 3)
  /-- FENCE_VV (R265): Orders older vector and array accesses before later ones. -/
  | fenceVv (scope : BitVec 3)
  /-- AMOADDF (R268): Scoped atomic binary32 add. -/
  | amoaddf (rd : BitVec 5) (rs1 : BitVec 5) (rs2 : BitVec 5) (scope : BitVec 3)
  /-- AMOMAXF (R268): Scoped atomic binary32 maximumNumber. -/
  | amomaxf (rd : BitVec 5) (rs1 : BitVec 5) (rs2 : BitVec 5) (scope : BitVec 3)
  /-- BWCFG (R274): Configures or releases the core's state for a barrier wire. -/
  | bwcfg (rs1 : BitVec 5) (wire : BitVec 3)
  /-- BWARR (R275): Arrives on a barrier wire with a vote, as a release at die scope. -/
  | bwarr (rs1 : BitVec 5) (wire : BitVec 3)
  /-- BWTST (R277): Reads a wire's done, vote and phase count. -/
  | bwtst (rd : BitVec 5) (wire : BitVec 3)
  /-- WEV (R278): Holds issue until selected wire done bits are set, then returns evword. -/
  | wev (rd : BitVec 5) (rs1 : BitVec 5)
  /-- UPRET (R144): Returns from an upcall to upepc and reinstates any resume state. -/
  | upret
  /-- FQPOP (R315): Copies the head fault queue entry to memory and advances the head. -/
  | fqpop (rd : BitVec 5) (rs1 : BitVec 5)
  /-- VSTUPD (R138): Writes a VST entry to every replica and drops it from span buffers. -/
  | vstupd (rs1 : BitVec 5) (rs2 : BitVec 5)
  /-- KILL (R322): Starts the kill of a context. -/
  | kill (rs1 : BitVec 5)
  /-- ISLCTL (R324): Reads, reclocks, powers off or on a core or array island. -/
  | islctl (rd : BitVec 5) (rs1 : BitVec 5) (rs2 : BitVec 5)
  /-- VSAVE (R316): Saves the vector state image, and with T = 1 the task's vector-side state. -/
  | vsave (rs1 : BitVec 5)
  /-- VRESTORE (R319): Checks and loads a vector state image. -/
  | vrestore (rs1 : BitVec 5)
  /-- WAYSET (R219): Starts a change of the way roles of one slice. -/
  | wayset (rs1 : BitVec 5) (rs2 : BitVec 5)
  /-- VADD (R86): Vector integer add. -/
  | vadd (d : BitVec 5) (k : BitVec 3) (v1 : BitVec 5) (v2 : BitVec 5) (s : BitVec 1)
  /-- VSUB (R86): Vector integer subtract. -/
  | vsub (d : BitVec 5) (k : BitVec 3) (v1 : BitVec 5) (v2 : BitVec 5) (s : BitVec 1)
  /-- VMUL (R86): Vector integer multiply, low bits. -/
  | vmul (d : BitVec 5) (k : BitVec 3) (v1 : BitVec 5) (v2 : BitVec 5) (s : BitVec 1)
  /-- VMULH (R86): Vector signed multiply, high bits. -/
  | vmulh (d : BitVec 5) (k : BitVec 3) (v1 : BitVec 5) (v2 : BitVec 5) (s : BitVec 1)
  /-- VMULHU (R86): Vector unsigned multiply, high bits. -/
  | vmulhu (d : BitVec 5) (k : BitVec 3) (v1 : BitVec 5) (v2 : BitVec 5) (s : BitVec 1)
  /-- VMACC (R86): Vector integer multiply-accumulate into vd. -/
  | vmacc (d : BitVec 5) (k : BitVec 3) (v1 : BitVec 5) (v2 : BitVec 5) (s : BitVec 1)
  /-- VAND (R86): Vector bitwise AND. -/
  | vand (d : BitVec 5) (k : BitVec 3) (v1 : BitVec 5) (v2 : BitVec 5) (s : BitVec 1)
  /-- VOR (R86): Vector bitwise OR. -/
  | vor (d : BitVec 5) (k : BitVec 3) (v1 : BitVec 5) (v2 : BitVec 5) (s : BitVec 1)
  /-- VXOR (R86): Vector bitwise XOR. -/
  | vxor (d : BitVec 5) (k : BitVec 3) (v1 : BitVec 5) (v2 : BitVec 5) (s : BitVec 1)
  /-- VSLL (R86): Vector shift left. -/
  | vsll (d : BitVec 5) (k : BitVec 3) (v1 : BitVec 5) (v2 : BitVec 5) (s : BitVec 1)
  /-- VSRL (R86): Vector logical shift right. -/
  | vsrl (d : BitVec 5) (k : BitVec 3) (v1 : BitVec 5) (v2 : BitVec 5) (s : BitVec 1)
  /-- VSRA (R86): Vector arithmetic shift right. -/
  | vsra (d : BitVec 5) (k : BitVec 3) (v1 : BitVec 5) (v2 : BitVec 5) (s : BitVec 1)
  /-- VMIN (R86): Vector signed minimum. -/
  | vmin (d : BitVec 5) (k : BitVec 3) (v1 : BitVec 5) (v2 : BitVec 5) (s : BitVec 1)
  /-- VMINU (R86): Vector unsigned minimum. -/
  | vminu (d : BitVec 5) (k : BitVec 3) (v1 : BitVec 5) (v2 : BitVec 5) (s : BitVec 1)
  /-- VMAX (R86): Vector signed maximum. -/
  | vmax (d : BitVec 5) (k : BitVec 3) (v1 : BitVec 5) (v2 : BitVec 5) (s : BitVec 1)
  /-- VMAXU (R86): Vector unsigned maximum. -/
  | vmaxu (d : BitVec 5) (k : BitVec 3) (v1 : BitVec 5) (v2 : BitVec 5) (s : BitVec 1)
  /-- VSEQ (R87): Vector compare equal into a mask register. -/
  | vseq (d : BitVec 3) (k : BitVec 3) (v1 : BitVec 5) (v2 : BitVec 5) (s : BitVec 1)
  /-- VSNE (R87): Vector compare not equal. -/
  | vsne (d : BitVec 3) (k : BitVec 3) (v1 : BitVec 5) (v2 : BitVec 5) (s : BitVec 1)
  /-- VSLT (R87): Vector compare less than, signed. -/
  | vslt (d : BitVec 3) (k : BitVec 3) (v1 : BitVec 5) (v2 : BitVec 5) (s : BitVec 1)
  /-- VSLTU (R87): Vector compare less than, unsigned. -/
  | vsltu (d : BitVec 3) (k : BitVec 3) (v1 : BitVec 5) (v2 : BitVec 5) (s : BitVec 1)
  /-- VSLE (R87): Vector compare less or equal, signed. -/
  | vsle (d : BitVec 3) (k : BitVec 3) (v1 : BitVec 5) (v2 : BitVec 5) (s : BitVec 1)
  /-- VSLEU (R87): Vector compare less or equal, unsigned. -/
  | vsleu (d : BitVec 3) (k : BitVec 3) (v1 : BitVec 5) (v2 : BitVec 5) (s : BitVec 1)
  /-- VFADD (R88): Vector floating-point add. -/
  | vfadd (d : BitVec 5) (k : BitVec 3) (v1 : BitVec 5) (v2 : BitVec 5) (s : BitVec 1)
  /-- VFSUB (R88): Vector floating-point subtract. -/
  | vfsub (d : BitVec 5) (k : BitVec 3) (v1 : BitVec 5) (v2 : BitVec 5) (s : BitVec 1)
  /-- VFMUL (R88): Vector floating-point multiply. -/
  | vfmul (d : BitVec 5) (k : BitVec 3) (v1 : BitVec 5) (v2 : BitVec 5) (s : BitVec 1)
  /-- VFDIV (R88): Vector floating-point divide. -/
  | vfdiv (d : BitVec 5) (k : BitVec 3) (v1 : BitVec 5) (v2 : BitVec 5) (s : BitVec 1)
  /-- VFSQRT (R88): Vector floating-point square root. -/
  | vfsqrt (d : BitVec 5) (k : BitVec 3) (v2 : BitVec 5)
  /-- VFMACC (R88): Vector fused multiply-add into vd. -/
  | vfmacc (d : BitVec 5) (k : BitVec 3) (v1 : BitVec 5) (v2 : BitVec 5) (s : BitVec 1)
  /-- VFNMACC (R88): Vector negated fused multiply-add. -/
  | vfnmacc (d : BitVec 5) (k : BitVec 3) (v1 : BitVec 5) (v2 : BitVec 5) (s : BitVec 1)
  /-- VFMSAC (R88): Vector fused multiply-subtract. -/
  | vfmsac (d : BitVec 5) (k : BitVec 3) (v1 : BitVec 5) (v2 : BitVec 5) (s : BitVec 1)
  /-- VFMIN (R88): Vector minimumNumber. -/
  | vfmin (d : BitVec 5) (k : BitVec 3) (v1 : BitVec 5) (v2 : BitVec 5) (s : BitVec 1)
  /-- VFMAX (R88): Vector maximumNumber. -/
  | vfmax (d : BitVec 5) (k : BitVec 3) (v1 : BitVec 5) (v2 : BitVec 5) (s : BitVec 1)
  /-- VFSGNJ (R88): Vector sign injection. -/
  | vfsgnj (d : BitVec 5) (k : BitVec 3) (v1 : BitVec 5) (v2 : BitVec 5) (s : BitVec 1)
  /-- VFCLASS (R88): Vector class mask. -/
  | vfclass (d : BitVec 5) (k : BitVec 3) (v2 : BitVec 5)
  /-- VFEQ (R89): Vector floating-point compare equal. -/
  | vfeq (d : BitVec 3) (k : BitVec 3) (v1 : BitVec 5) (v2 : BitVec 5) (s : BitVec 1)
  /-- VFLT (R89): Vector floating-point compare less than. -/
  | vflt (d : BitVec 3) (k : BitVec 3) (v1 : BitVec 5) (v2 : BitVec 5) (s : BitVec 1)
  /-- VFLE (R89): Vector floating-point compare less or equal. -/
  | vfle (d : BitVec 3) (k : BitVec 3) (v1 : BitVec 5) (v2 : BitVec 5) (s : BitVec 1)
  /-- VMV (R90): Vector move of a register or scalar. -/
  | vmv (d : BitVec 5) (k : BitVec 3) (v1 : BitVec 5) (s : BitVec 1)
  /-- VMVXS (R91): Moves element 0 of a vector register to xd via the VAQ. -/
  | vmvxs (d : BitVec 5) (v2 : BitVec 5)
  /-- VMERGE (R92): Selects per element between vs2 and the second operand by mask. -/
  | vmerge (d : BitVec 5) (k : BitVec 3) (v1 : BitVec 5) (v2 : BitVec 5) (s : BitVec 1)
  /-- VSLIDEUP (R93): Slides elements up by X[xs1]. -/
  | vslideup (d : BitVec 5) (k : BitVec 3) (v1 : BitVec 5) (v2 : BitVec 5)
  /-- VSLIDEDN (R93): Slides elements down by X[xs1]. -/
  | vslidedn (d : BitVec 5) (k : BitVec 3) (v1 : BitVec 5) (v2 : BitVec 5)
  /-- VPERM (R93): Permutes elements by indices in vs1. -/
  | vperm (d : BitVec 5) (k : BitVec 3) (v1 : BitVec 5) (v2 : BitVec 5)
  /-- VCOMPRESS (R93): Packs mask-selected elements. -/
  | vcompress (d : BitVec 5) (k : BitVec 3) (v2 : BitVec 5)
  /-- VID (R93): Writes element indices. -/
  | vid (d : BitVec 5) (k : BitVec 3)
  /-- VIOTA (R93): Writes prefix counts of a mask. -/
  | viota (d : BitVec 5) (k : BitVec 3)
  /-- VREDSUM (R94): Tree-order integer sum reduction. -/
  | vredsum (d : BitVec 5) (k : BitVec 3) (v1 : BitVec 5) (v2 : BitVec 5)
  /-- VREDOSUM (R94): Ordered integer sum reduction. -/
  | vredosum (d : BitVec 5) (k : BitVec 3) (v1 : BitVec 5) (v2 : BitVec 5)
  /-- VREDMIN (R94): Signed minimum reduction. -/
  | vredmin (d : BitVec 5) (k : BitVec 3) (v1 : BitVec 5) (v2 : BitVec 5)
  /-- VREDMAX (R94): Signed maximum reduction. -/
  | vredmax (d : BitVec 5) (k : BitVec 3) (v1 : BitVec 5) (v2 : BitVec 5)
  /-- VFREDSUM (R95): Tree-order floating-point sum reduction. -/
  | vfredsum (d : BitVec 5) (k : BitVec 3) (v1 : BitVec 5) (v2 : BitVec 5)
  /-- VFREDOSUM (R95): Ordered floating-point sum reduction. -/
  | vfredosum (d : BitVec 5) (k : BitVec 3) (v1 : BitVec 5) (v2 : BitVec 5)
  /-- VFREDMIN (R94): minimumNumber reduction. -/
  | vfredmin (d : BitVec 5) (k : BitVec 3) (v1 : BitVec 5) (v2 : BitVec 5)
  /-- VFREDMAX (R94): maximumNumber reduction. -/
  | vfredmax (d : BitVec 5) (k : BitVec 3) (v1 : BitVec 5) (v2 : BitVec 5)
  /-- KAND (R96): Mask AND. -/
  | kand (d : BitVec 3) (v1 : BitVec 3) (v2 : BitVec 3)
  /-- KOR (R96): Mask OR. -/
  | kor (d : BitVec 3) (v1 : BitVec 3) (v2 : BitVec 3)
  /-- KXOR (R96): Mask XOR. -/
  | kxor (d : BitVec 3) (v1 : BitVec 3) (v2 : BitVec 3)
  /-- KPOPC (R96): Counts set mask bits below VL into xd. -/
  | kpopc (d : BitVec 5) (v2 : BitVec 3)
  /-- KFIRST (R96): Writes the index of the first set mask bit, or -1. -/
  | kfirst (d : BitVec 5) (v2 : BitVec 3)
  /-- KMV (R96): Copies a mask register. -/
  | kmv (d : BitVec 3) (v2 : BitVec 3)
  /-- VBVRD (R171): Reads a 64-bit word of a validity field into xd. -/
  | vbvrd (d : BitVec 5) (w : BitVec 2) (v2 : BitVec 5)
  /-- VBVWR (R171): Writes a 64-bit word of a validity field. -/
  | vbvwr (d : BitVec 5) (rs1 : BitVec 5) (w : BitVec 2)
  /-- VCVT (R97): Converts elements from vetype to a destination type. -/
  | vcvt (d : BitVec 5) (k : BitVec 3) (ty : BitVec 4) (v2 : BitVec 5)
  /-- VLD (R109): Unit-stride vector load. -/
  | vld (d : BitVec 5) (k : BitVec 3) (rs1 : BitVec 5) (nt : BitVec 1)
  /-- VST (R109): Unit-stride vector store. -/
  | vst (d : BitVec 5) (k : BitVec 3) (rs1 : BitVec 5) (nt : BitVec 1)
  /-- VLDS (R110): Strided vector load. -/
  | vlds (d : BitVec 5) (k : BitVec 3) (rs1 : BitVec 5) (rs2 : BitVec 5) (nt : BitVec 1)
  /-- VSTS (R110): Strided vector store. -/
  | vsts (d : BitVec 5) (k : BitVec 3) (rs1 : BitVec 5) (rs2 : BitVec 5) (nt : BitVec 1)
  /-- VLDX (R110): Indexed vector load. -/
  | vldx (d : BitVec 5) (k : BitVec 3) (rs1 : BitVec 5) (v2 : BitVec 5) (nt : BitVec 1)
  /-- VSTX (R110): Indexed vector store. -/
  | vstx (d : BitVec 5) (k : BitVec 3) (rs1 : BitVec 5) (v2 : BitVec 5) (nt : BitVec 1)
  /-- VPREF (R112): Requests lines to be brought nearer without checks or faults. -/
  | vpref (rs1 : BitVec 5) (nt : BitVec 1)
  /-- VLDFE (R202): Vector load that waits for full lines and empties them. -/
  | vldfe (d : BitVec 5) (k : BitVec 3) (rs1 : BitVec 5)
  /-- VSTFE (R202): Vector store that sets the lines full. -/
  | vstfe (d : BitVec 5) (k : BitVec 3) (rs1 : BitVec 5)
  /-- VQLD (R158): Loads scaled narrow blocks into wide elements. -/
  | vqld (d : BitVec 5) (rs1 : BitVec 5) (fmt : BitVec 4)
  /-- VQST (R159): Quantising noise-shaped store of blocks with scales. -/
  | vqst (d : BitVec 5) (rs1 : BitVec 5) (fmt : BitVec 4) (ly : BitVec 2)
  /-- VAMOADD (R111): Per-element atomic add. -/
  | vamoadd (d : BitVec 5) (k : BitVec 3) (rs1 : BitVec 5) (v2 : BitVec 5)
  /-- VAMOMIN (R111): Per-element atomic minimum. -/
  | vamomin (d : BitVec 5) (k : BitVec 3) (rs1 : BitVec 5) (v2 : BitVec 5)
  /-- VAMOMAX (R111): Per-element atomic maximum. -/
  | vamomax (d : BitVec 5) (k : BitVec 3) (rs1 : BitVec 5) (v2 : BitVec 5)
  /-- VSEND (R221): Sends a vector message over a stream endpoint. -/
  | vsend (d : BitVec 5) (rs1 : BitVec 5)
  /-- VRECV (R221): Receives the next stream message into vd. -/
  | vrecv (d : BitVec 5) (rs1 : BitVec 5)
  /-- VMMA_E4E4 (R177): 8x8 FP32 product of e4m3 operands with scales. -/
  | vmmaE4e4 (d : BitVec 5) (v1 : BitVec 5) (v2 : BitVec 5) (fs3 : BitVec 5)
  /-- VMMA_E5E4 (R177): 8x8 product of e5m2 A and e4m3 B. -/
  | vmmaE5e4 (d : BitVec 5) (v1 : BitVec 5) (v2 : BitVec 5) (fs3 : BitVec 5)
  /-- VMMA_BF16 (R177): 8x8 product of bf16 operands. -/
  | vmmaBf16 (d : BitVec 5) (v1 : BitVec 5) (v2 : BitVec 5) (fs3 : BitVec 5)
  /-- VMMA_E4Q (R177): 8x8 product of e4m3 A and l8q B. -/
  | vmmaE4q (d : BitVec 5) (v1 : BitVec 5) (v2 : BitVec 5) (fs3 : BitVec 5)
  /-- MLEASE (R180): Reports the lease, grants it if free or posts a request. -/
  | mlease (d : BitVec 5)
  /-- MREL (R185): Ends the lease or withdraws the request, discarding tiles. -/
  | mrel
  /-- MWLD (R190): Array command copying bytes into the weight buffer. -/
  | mwld (rs1 : BitVec 5) (rs2 : BitVec 5)
  /-- MZERO (R191): Array command zeroing a tile. -/
  | mzero (z : BitVec 2)
  /-- MLD (R191): Array command loading a tile from memory. -/
  | mld (z : BitVec 2) (rs1 : BitVec 5)
  /-- MST (R192): Array command storing a tile through the quantising path. -/
  | mst (z : BitVec 2) (dir : BitVec 1) (rs1 : BitVec 5) (fmt : BitVec 3) (ly : BitVec 2)
  /-- MMAC_E4E4 (R193): Array multiply-accumulate, mx8a by mx8a. -/
  | mmacE4e4 (z : BitVec 2) (rs1 : BitVec 5) (rs2 : BitVec 5) (kf : BitVec 5)
  /-- MMAC_E5E4 (R193): Array multiply-accumulate, mx8b by mx8a. -/
  | mmacE5e4 (z : BitVec 2) (rs1 : BitVec 5) (rs2 : BitVec 5) (kf : BitVec 5)
  /-- MMAC_E4E5 (R193): Array multiply-accumulate, mx8a by mx8b. -/
  | mmacE4e5 (z : BitVec 2) (rs1 : BitVec 5) (rs2 : BitVec 5) (kf : BitVec 5)
  /-- MMAC_E5E5 (R193): Array multiply-accumulate, mx8b by mx8b. -/
  | mmacE5e5 (z : BitVec 2) (rs1 : BitVec 5) (rs2 : BitVec 5) (kf : BitVec 5)
  /-- MMAC_BF16 (R193): Array multiply-accumulate in bf16. -/
  | mmacBf16 (z : BitVec 2) (rs1 : BitVec 5) (rs2 : BitVec 5) (kf : BitVec 5)
  /-- MMAC_E4Q (R193): Array multiply-accumulate, mx8a by l8q. -/
  | mmacE4q (z : BitVec 2) (rs1 : BitVec 5) (rs2 : BitVec 5) (kf : BitVec 5)
  /-- MMAC_F4 (R193): Array multiply-accumulate, mx4 by mx4. -/
  | mmacF4 (z : BitVec 2) (rs1 : BitVec 5) (rs2 : BitVec 5) (kf : BitVec 5)
  /-- MMAC_F4Q (R193): Array multiply-accumulate, mx4 by l8q. -/
  | mmacF4q (z : BitVec 2) (rs1 : BitVec 5) (rs2 : BitVec 5) (kf : BitVec 5)
  /-- RBOX (R290): Tests each slot's ray against four boxes of a node. -/
  | rbox (d : BitVec 5) (v1 : BitVec 5) (rs2 : BitVec 5)
  /-- RTRI (R291): Watertight ray-triangle test per slot. -/
  | rtri (d : BitVec 5) (v1 : BitVec 5) (rs2 : BitVec 5)
  /-- RCAND (R292): Inserts an offered hit into the candidate list. -/
  | rcand (d : BitVec 5) (v1 : BitVec 5) (v2 : BitVec 5)
  /-- RACC (R293): Accepts candidate 0 and shortens tmax. -/
  | racc (d : BitVec 5) (v1 : BitVec 5)
  /-- RREJ (R294): Rejects candidate 0. -/
  | rrej (d : BitVec 5) (v1 : BitVec 5)
  /-- QSPH (R295): Sphere query against four boxes. -/
  | qsph (d : BitVec 5) (v1 : BitVec 5) (rs2 : BitVec 5)
  /-- QKNN (R296): Nearest-neighbour query step, narrowing the bound at leaves. -/
  | qknn (d : BitVec 5) (v1 : BitVec 5) (rs2 : BitVec 5)
  /-- QKEY (R295): Key-interval query against four ranges. -/
  | qkey (d : BitVec 5) (v1 : BitVec 5) (rs2 : BitVec 5)
  /-- VEDGE (R297): Evaluates three edge functions over an 8x8 tile. -/
  | vedge (d : BitVec 5) (v1 : BitVec 5) (rs2 : BitVec 5)
  /-- TSAMP (R302): Filtered texture sampling per element. -/
  | tsamp (d : BitVec 5) (v1 : BitVec 5) (rs2 : BitVec 5)
  /-- TFETCH (R303): Unfiltered texel fetch per element. -/
  | tfetch (d : BitVec 5) (v1 : BitVec 5) (rs2 : BitVec 5)
  /-- TDECODE (R304): Decodes compressed blocks from a register. -/
  | tdecode (d : BitVec 5) (v1 : BitVec 5) (rs2 : BitVec 5)
  /-- STORE_BUFFER_DRAIN (R121): A retired scalar store leaves the store buffer and performs at its home. -/
  | storeBufferDrain (h k : Nat)
  /-- SCALAR_LOAD_RETURN (R126): Data of a scalar load that missed returns to the strand. -/
  | scalarLoadReturn (h k : Nat)
  /-- PAGE_TABLE_WALK (R130): A walk read returns and is tested, descending or ending the walk. -/
  | pageTableWalk (h : Nat) (va : BitVec 64)
  /-- AD_UPDATE (R131): A now non-speculative access sets A or D atomically at the entry's home. -/
  | adUpdate (h : Nat)
  /-- SPAN_ENTRY_FETCH (R137): A span-buffer miss reads the VST entry from the die's replica. -/
  | spanEntryFetch (h g : Nat)
  /-- STREAM_DETECTOR_EXPIRY (R124): A stream detector entry not advanced for 1,024 cy is freed. -/
  | streamDetectorExpiry (h k : Nat)
  /-- VECTOR_GROUP_ISSUE (R107): A queued vector instruction checks and begins its next element group. -/
  | vectorGroupIssue (h : Nat) (q : VQueue)
  /-- VECTOR_ACCESS_COMPLETE (R117): A vector load's data land or a vector store's elements perform at their homes. -/
  | vectorAccessComplete (h k : Nat)
  /-- NOTICE_UPCALL (R145): At a boundary with UE = 1 the strand takes a pending ASYNC_ERROR, COMPLETION or FRAME_STARVED notice. -/
  | noticeUpcall (h : Nat)
  /-- VCFG_RECONFIGURE (R69): After the queues drain, a vcfg changing n resets the vector registers and vl. -/
  | vcfgReconfigure (h : Nat)
  /-- LEEWAY_CONFIG_APPLY (R165): A waiting lycfg or lyclr changes its leeway register once older users complete. -/
  | leewayConfigApply (h : Nat)
  /-- LDFE_WAKE (R200): A waiting ldfe finds its line full, reads and empties it. -/
  | ldfeWake (h : Nat)
  /-- FE_TIMEOUT (R201): A full/empty or stream wait of 2^20 cy raises FE_TIMEOUT. -/
  | feTimeout (h : Nat) (q : Option VQueue)
  /-- RING_ARRIVAL (R209): A producer release takes effect once its stores performed and counts an arrival. -/
  | ringArrival (h k : Nat)
  /-- RING_CONSUMER_RELEASE (R208): A consumer release takes effect once its reads are done. -/
  | ringConsumerRelease (h k : Nat)
  /-- COPY_MOVE (R215): A copy engine moves bytes of a launched transfer, translating and checking as it goes. -/
  | copyMove (h ch k n : Nat)
  /-- COPY_COMPLETE (R216): A transfer completes and the watermark advances past contiguous completions. -/
  | copyComplete (h ch k : Nat)
  /-- CHANNEL_RESET_DONE (R213): A channel reset completes once all transfers ended, resetting watermark and error. -/
  | channelResetDone (h : Nat)
  /-- WAITC_RELEASE (R218): A waiting waitc releases issue when the counts fall to its limits. -/
  | waitcRelease (h : Nat)
  /-- FENCE_VS_RELEASE (R264): A fence.vs releases issue when older vector and array accesses complete. -/
  | fenceVsRelease (h : Nat)
  /-- STREAM_GROUP_ARRIVAL (R221): A vsend element group arrives in the receiver's buffer and uses a credit. -/
  | streamGroupArrival (h ep : Nat)
  /-- STREAM_PROBE_SEND (R222): A vrecv group waiting 4,096 cy sends a deadlock probe. -/
  | streamProbeSend (h : Nat)
  /-- STREAM_PROBE_HOP (R222): A probe reaches a strand and is forwarded, dropped or returns home. -/
  | streamProbeHop (h : Nat)
  /-- LINK_TURN_BEGIN (R225): A head-of-FIFO tack command starts turning groups 2 µs after the last change. -/
  | linkTurnBegin (l : Nat)
  /-- LINK_TURN_DRAINED (R225): Flits on the turning groups have drained and the 40 ns dead time begins. -/
  | linkTurnDrained (l : Nat)
  /-- LINK_TURN_DONE (R225): The dead time ends and the groups carry traffic in their new direction. -/
  | linkTurnDone (l : Nat)
  /-- WAYSET_COMPLETE (R219): After accesses drain and ways are written back, the new roles take effect. -/
  | waysetComplete (c : Nat)
  /-- WDQ_ANSWER (R241): The distributor answers a query into scratch and sets the line full. -/
  | wdqAnswer (k : Nat)
  /-- DISPATCH (R244): A dispatcher with a free strand chooses a candidate and launches a group. -/
  | dispatch (cl : Nat)
  /-- GANG_TICK (R242): The chronometer reaches an armed gang's tick and its placed members may issue. -/
  | gangTick (h : Nat)
  /-- QUEUE_AGING (R245): A queue eligible 65,536 cy without service rises one level. -/
  | queueAging (q : Nat)
  /-- CANDIDATE_RESERVATION (R245): A candidate passed over 65,536 cy reserves a cluster. -/
  | candidateReservation (cl q : Nat)
  /-- BATCH_WAIT_EXPIRY (R243): A bound queue's oldest record waiting 2^(10+v) cy makes it eligible. -/
  | batchWaitExpiry (q : Nat)
  /-- EXIT_PERFORM (R238): After older accesses perform, exit posts successors, decrements joins and frees the strand. -/
  | exitPerform (h : Nat)
  /-- ISSUE_LOWERING_END (R233): 16,384 cy after an overflow acceptance a strand's issue returns to normal. -/
  | issueLoweringEnd (c : Nat)
  /-- TICKET_APPLY (R254): The tile commit unit applies a ticket once its class order allows and blends covered pixels. -/
  | ticketApply (c k : Nat)
  /-- UNIT_RETRY (R255): Every 64 cy the part retries a refused tcfg, tcommit or tskip. -/
  | unitRetry (h : Nat)
  /-- BARRIER_PHASE_COMPLETE (R276): Every member of a wire set has arrived: done, vote and phase count update. -/
  | barrierPhaseComplete (c w : Nat)
  /-- WEV_RETURN (R278): A waiting wev returns evword once its selected done bits are set. -/
  | wevReturn (h : Nat)
  /-- BARRIER_TIMEOUT (R279): A wev waiting to the bound raises BARRIER_TIMEOUT. -/
  | barrierTimeout (h : Nat)
  /-- LEASE_GRANT (R182): A free lease with posted requests is granted in rotation and tile restoring starts. -/
  | leaseGrant (cl : Nat)
  /-- LEASE_BUDGET_END (R181): A lease's command or cy budget reaches 0. -/
  | leaseBudgetEnd (cl : Nat)
  /-- TILE_PARK_DONE (R183): Parking of live tiles to a save area finishes. -/
  | tileParkDone (cl : Nat)
  /-- TILE_RESTORE_DONE (R182): Restoring of parked tiles ends and the cy budget starts. -/
  | tileRestoreDone (cl : Nat)
  /-- ARRAY_COMMAND_START (R194): An accepted array command begins on the array. -/
  | arrayCommandStart (cl : Nat)
  /-- ARRAY_COMMAND_COMPLETE (R195): An array command's reads, writes and results complete. -/
  | arrayCommandComplete (cl k : Nat)
  /-- WEIGHT_BUFFER_CLEAR_DONE (R179): The 1,024-cy weight buffer clear after a binding change finishes. -/
  | weightBufferClearDone (cl : Nat)
  /-- PREEMPT_TAKEN (R320): A strand takes interrupt 17, stopping scalar and vector sides and suspending the array. -/
  | preemptTaken (h : Nat)
  /-- INTERRUPT_TAKEN (R312): A hart takes an enabled pending device or standard interrupt. -/
  | interruptTaken (h : Nat)
  /-- WFI_WAKE (R63): A strand in wfi resumes issue when an interrupt becomes pending. -/
  | wfiWake (h : Nat)
  /-- PAUSE_END (R58): The 32-cy hold of pause ends. -/
  | pauseEnd (h : Nat)
  /-- YIELD_END (R239): The hold of yield ends. -/
  | yieldEnd (h : Nat)
  /-- ALARM_INTERRUPT (R334): chron reaches a hart's ALARM and interrupt 18 becomes pending. -/
  | alarmInterrupt (h : Nat)
  /-- KILL_COMPLETE (R323): All steps of the kill are done and kill retires. -/
  | killComplete (c : Nat)
  /-- VSTUPD_COMPLETE (R139): All replicas are written and old-entry accesses have performed; vstupd retires. -/
  | vstupdComplete (h : Nat)
  /-- SHOOTDOWN_COMPLETE (R135): No core holds a matching entry and dependent accesses performed; SHOOT_CMD reads 0. -/
  | shootdownComplete
  /-- HOME_TABLE_CHANGE_DONE (R120): Old homes have written back and invalidated; the home table write completes. -/
  | homeTableChangeDone
  /-- CONTEXT_RESIDENT_DONE (R327): The four VST replicas have been zeroed and the residency store completes. -/
  | contextResidentDone (c : Nat)
  /-- VSAVE_WRITE (R317): After the queues empty, vsave writes the image and clears the resume state. -/
  | vsaveWrite (h : Nat)
  /-- VRESTORE_LOAD (R319): After the queues empty and detached channels finish, vrestore loads the image. -/
  | vrestoreLoad (h : Nat)
  /-- ISLAND_CLOCK_DONE (R324): An island's clock change completes. -/
  | islandClockDone (cl : Nat) (array : Bool)
  /-- ISLAND_OFF_DONE (R324): An island finishes powering off and loses its contents. -/
  | islandOffDone (cl : Nat) (array : Bool)
  /-- ISLAND_ON_DONE (R324): An island finishes powering on with zeroed scratch and weight buffer. -/
  | islandOnDone (cl : Nat) (array : Bool)
  /-- GOVERNOR_SAMPLE (R325): Every 10 µs the governor measures power and adjusts vgrant and throttles. -/
  | governorSample (grants throttles : List (Nat × Nat))
  /-- THERMAL_TRIP (R325): Above the trip temperature Binnacle turns every island off and posts an event. -/
  | thermalTrip
  /-- THERMAL_CLEAR (R325): Below the clear threshold Binnacle posts a thermal-clear event. -/
  | thermalClear
  /-- ETHERNET_LINK_CHANGE (R331): An Ethernet lane or port changes state and relinks. -/
  | ethernetLinkChange (lane : Option Nat) (up : Bool)
  /-- LINK_REPLAY (R336): A failed CRC-32C check drops a flit and replays it at link level. -/
  | linkReplay (l : Nat)
  /-- DIE_LINK_ERROR (R337): A failed replay gives Binnacle a link error and a kind-4 LINKEV event. -/
  | dieLinkError (die link : Nat)
  /-- ECC_ERROR (R336): SECDED or inline ECC detects an error, correcting singles or faulting doubles. -/
  | eccError (pa : Nat) (double : Bool)
  /-- DIE_WARM_RESET (R338): Binnacle remaps, quiesces, writes back and resets one compute die. -/
  | dieWarmReset (die : Nat)
  /-- DIE_READMIT (R338): After retraining the die is re-admitted, VST replicas rewritten and hash restored. -/
  | dieReadmit (die : Nat)
  /-- POWER_GOOD (R335): Binnacle verifies signed code and starts M-mode code and Pilot. -/
  | powerGood (verified : Bool)
  /-- DIE_ADMIT (R335): A die's SRAM repair and link training finish and it is admitted. -/
  | dieAdmit (die : Nat)
  /-- MEMORY_TRAINED (R335): Every GDDR controller has trained and device memory becomes backed. -/
  | memoryTrained
  /-- RDMA_WRITE_IN (R330): An inbound RDMA WRITE is checked against a region and performed. -/
  | rdmaWriteIn (qp : Nat) (key : BitVec 32) (addr : BitVec 64) (data : List (BitVec 8))
  /-- RDMA_READ_IN (R330): An inbound RDMA READ is checked and answered. -/
  | rdmaReadIn (qp : Nat) (key : BitVec 32) (addr : BitVec 64) (len : Nat)
  /-- RDMA_SEND_IN (R328): An inbound SEND goes to Pilot's receive ring. -/
  | rdmaSendIn (qp : Nat) (data : List (BitVec 8))
  /-- REMOTE_QPUSH (R329): A 64-byte RDMA WRITE to a push region appends a record and is answered. -/
  | remoteQpush (qp : Nat) (key : BitVec 32) (addr : BitVec 64) (data : List (BitVec 8))
  /-- REMOTE_RESPONSE (R329): A response to a remote-window load or store returns from the target. -/
  | remoteResponse (h k : Nat) (data : BitVec 64)
  /-- QP_ACK_TIMEOUT (R330): A queue pair's local ACK time-out expires and it retransmits. -/
  | qpAckTimeout (qp : Nat)
  /-- PTP_MESSAGE (R6): A PTP message is received and stamped, or discarded if unsupported. -/
  | ptpMessage (kind : Nat)
  /-- HOME_TABLE_WRITE (R120): A store to a home table entry starts a home change. -/
  | homeTableWrite (h : Nat)
  /-- SHOOT_CMD_WRITE (R135): A store to SHOOT_CMD starts a device-wide shootdown. -/
  | shootCmdWrite (h : Nat)
  /-- PGDONE_WRITE (R145): A store to PGDONE makes a notice pending on a strand. -/
  | pgdoneWrite (h : Nat)
  /-- ARRBIND_WRITE (R179): A store to ARRBIND binds an array to a context, clearing the weight buffer on change. -/
  | arrbindWrite (h : Nat)
  /-- TSAVE_WRITE (R184): A store to a TSAVE entry names a tile save area. -/
  | tsaveWrite (h : Nat)
  /-- QCTL_WRITE (R230): A store to QCTL validates, reconfigures or invalidates a queue. -/
  | qctlWrite (h : Nat)
  /-- PREEMPT_REQUEST (R320): A store to PREEMPT makes interrupt 17 pending on a strand. -/
  | preemptRequest (h : Nat)
  /-- PREEMPT_CANCEL (R320): A store to PREEMPT with cancel withdraws a pre-emption request. -/
  | preemptCancel (h : Nat)
  /-- EVENT_COUNTER_CLEAR (R351): A store of 0 to an event counter clears it. -/
  | eventCounterClear (h : Nat)
  /-- CHRONADJ_WRITE (R333): A store to CHRONADJ sets the chronometer's rate adjustment. -/
  | chronadjWrite (h : Nat)
  /-- CHRONSTEP_WRITE (R333): A store to CHRONSTEP steps the chronometer forward. -/
  | chronstepWrite (h : Nat)
  /-- LINKEV_READ (R332): A load of LINKEV returns and removes the oldest event. -/
  | linkevRead (h : Nat)
  /-- CONTEXT_MAKE_RESIDENT (R327): A store setting CXCTL.R makes a context resident and zeroes its VST. -/
  | contextMakeResident (h : Nat)
  /-- CONTEXT_RELEASE (R327): A store clearing CXCTL.R ends a context's residence. -/
  | contextRelease (h : Nat)
  /-- ALARM_WRITE (R334): A store to a hart's ALARM sets its alarm time and may clear interrupt 18. -/
  | alarmWrite (h : Nat)
  /-- QPCMD_APPLY (R330): A QPCMD apply checks the image and schedules it for the selected entry. -/
  | qpcmdApply (h : Nat)
  /-- QPCMD_FETCH (R330): A QPCMD load copies the selected entry into the image. -/
  | qpcmdFetch (h : Nat)
  /-- QPCMD_APPLY_DONE (R330): Requests in flight on the entry are answered and the apply takes effect. -/
  | qpcmdApplyDone
  /-- DEVICE_REGISTER_WRITE (R351): A store to a device register without behaviour of its own, checked and stored. -/
  | deviceRegisterWrite (h : Nat)
  /-- ILLEGAL_INSTRUCTION (R28): A retired word that no assigned encoding matches (C-space, OP-V, reserved codes or nonzero reserved fields) raises an illegal-instruction exception with the word in the trap value. -/
  | illegalInstruction (h : Nat) (w : BitVec 32)
  /-- INSTRUCTION_FETCH_FAULT (R59): An instruction fetch from a scratchpad, device register, remote window, fixed window, unbacked or absent page raises an instruction access or page fault. -/
  | instructionFetchFault (h : Nat)
  /-- VAQ_GROUP_LANDED (R91): An arithmetic-queue element group's result lands at its latency, completing the instruction for slip counting and writing the x register of vmvxs, kpopc, kfirst or vbvrd. -/
  | vaqGroupLanded (h : Nat)
  /-- INVALID_REQUEST_NAK (R7): An inbound RoCEv2 packet of an operation the part does not take, such as an atomic verb or UD, is answered with a NAK of class Invalid Request. -/
  | invalidRequestNak (qp : Nat)
  deriving DecidableEq, Repr

/-- Whether the constructor is an event of another agent (it has no word). -/
def Instr.isEvent : Instr → Bool
  | .lui _ _ => false
  | .auipc _ _ => false
  | .jal _ _ => false
  | .jalr _ _ _ => false
  | .beq _ _ _ => false
  | .bne _ _ _ => false
  | .blt _ _ _ => false
  | .bge _ _ _ => false
  | .bltu _ _ _ => false
  | .bgeu _ _ _ => false
  | .lb _ _ _ => false
  | .lh _ _ _ => false
  | .lw _ _ _ => false
  | .ld _ _ _ => false
  | .lbu _ _ _ => false
  | .lhu _ _ _ => false
  | .lwu _ _ _ => false
  | .sb _ _ _ => false
  | .sh _ _ _ => false
  | .sw _ _ _ => false
  | .sd _ _ _ => false
  | .addi _ _ _ => false
  | .slti _ _ _ => false
  | .sltiu _ _ _ => false
  | .xori _ _ _ => false
  | .ori _ _ _ => false
  | .andi _ _ _ => false
  | .slli _ _ _ => false
  | .srli _ _ _ => false
  | .srai _ _ _ => false
  | .addiw _ _ _ => false
  | .slliw _ _ _ => false
  | .srliw _ _ _ => false
  | .sraiw _ _ _ => false
  | .add _ _ _ => false
  | .sub _ _ _ => false
  | .sll _ _ _ => false
  | .slt _ _ _ => false
  | .sltu _ _ _ => false
  | .xor _ _ _ => false
  | .srl _ _ _ => false
  | .sra _ _ _ => false
  | .or _ _ _ => false
  | .and _ _ _ => false
  | .addw _ _ _ => false
  | .subw _ _ _ => false
  | .sllw _ _ _ => false
  | .srlw _ _ _ => false
  | .sraw _ _ _ => false
  | .fence _ _ _ _ _ => false
  | .fenceTso _ _ => false
  | .pause => false
  | .fenceI _ _ _ => false
  | .ecall => false
  | .ebreak => false
  | .mul _ _ _ => false
  | .mulh _ _ _ => false
  | .mulhsu _ _ _ => false
  | .mulhu _ _ _ => false
  | .div _ _ _ => false
  | .divu _ _ _ => false
  | .rem _ _ _ => false
  | .remu _ _ _ => false
  | .mulw _ _ _ => false
  | .divw _ _ _ => false
  | .divuw _ _ _ => false
  | .remw _ _ _ => false
  | .remuw _ _ _ => false
  | .lrW _ _ _ _ => false
  | .lrD _ _ _ _ => false
  | .scW _ _ _ _ _ => false
  | .scD _ _ _ _ _ => false
  | .amoswapW _ _ _ _ _ => false
  | .amoswapD _ _ _ _ _ => false
  | .amoaddW _ _ _ _ _ => false
  | .amoaddD _ _ _ _ _ => false
  | .amoxorW _ _ _ _ _ => false
  | .amoxorD _ _ _ _ _ => false
  | .amoandW _ _ _ _ _ => false
  | .amoandD _ _ _ _ _ => false
  | .amoorW _ _ _ _ _ => false
  | .amoorD _ _ _ _ _ => false
  | .amominW _ _ _ _ _ => false
  | .amominD _ _ _ _ _ => false
  | .amomaxW _ _ _ _ _ => false
  | .amomaxD _ _ _ _ _ => false
  | .amominuW _ _ _ _ _ => false
  | .amominuD _ _ _ _ _ => false
  | .amomaxuW _ _ _ _ _ => false
  | .amomaxuD _ _ _ _ _ => false
  | .flw _ _ _ => false
  | .fsw _ _ _ => false
  | .fmaddS _ _ _ _ _ => false
  | .fmsubS _ _ _ _ _ => false
  | .fnmsubS _ _ _ _ _ => false
  | .fnmaddS _ _ _ _ _ => false
  | .faddS _ _ _ _ => false
  | .fsubS _ _ _ _ => false
  | .fmulS _ _ _ _ => false
  | .fdivS _ _ _ _ => false
  | .fsqrtS _ _ _ => false
  | .fsgnjS _ _ _ => false
  | .fsgnjnS _ _ _ => false
  | .fsgnjxS _ _ _ => false
  | .fminS _ _ _ => false
  | .fmaxS _ _ _ => false
  | .fcvtWS _ _ _ => false
  | .fcvtWuS _ _ _ => false
  | .fcvtLS _ _ _ => false
  | .fcvtLuS _ _ _ => false
  | .fcvtSW _ _ _ => false
  | .fcvtSWu _ _ _ => false
  | .fcvtSL _ _ _ => false
  | .fcvtSLu _ _ _ => false
  | .fmvXW _ _ => false
  | .fclassS _ _ => false
  | .feqS _ _ _ => false
  | .fltS _ _ _ => false
  | .fleS _ _ _ => false
  | .fmvWX _ _ => false
  | .csrrw _ _ _ => false
  | .csrrs _ _ _ => false
  | .csrrc _ _ _ => false
  | .csrrwi _ _ _ => false
  | .csrrsi _ _ _ => false
  | .csrrci _ _ _ => false
  | .sret => false
  | .mret => false
  | .wfi => false
  | .sfenceVma _ _ => false
  | .vloop _ _ _ => false
  | .vloopcfg _ _ => false
  | .vcfg _ _ => false
  | .vsetlen _ _ _ => false
  | .lycfg _ _ => false
  | .lyclr _ => false
  | .lysave _ _ => false
  | .lyload _ _ => false
  | .flsc _ _ _ => false
  | .ldfe _ _ => false
  | .stfe _ _ => false
  | .ringset _ _ => false
  | .ringsetWithdraw _ => false
  | .ringacq _ _ _ => false
  | .ringrel _ _ => false
  | .ringexp _ _ => false
  | .ringtst _ _ _ => false
  | .cpset _ _ _ => false
  | .cplaunch _ _ => false
  | .cpstat _ _ => false
  | .waitc _ _ _ _ => false
  | .strmopen _ _ => false
  | .strmclose _ => false
  | .tack _ _ _ => false
  | .qpush _ _ _ => false
  | .qpop _ _ _ => false
  | .exit _ _ => false
  | .yield => false
  | .wdq _ _ => false
  | .tcommit _ _ => false
  | .tskip _ => false
  | .tcfg _ _ => false
  | .gangarm _ _ => false
  | .fenceSv _ => false
  | .fenceVs _ => false
  | .fenceVv _ => false
  | .amoaddf _ _ _ _ => false
  | .amomaxf _ _ _ _ => false
  | .bwcfg _ _ => false
  | .bwarr _ _ => false
  | .bwtst _ _ => false
  | .wev _ _ => false
  | .upret => false
  | .fqpop _ _ => false
  | .vstupd _ _ => false
  | .kill _ => false
  | .islctl _ _ _ => false
  | .vsave _ => false
  | .vrestore _ => false
  | .wayset _ _ => false
  | .vadd _ _ _ _ _ => false
  | .vsub _ _ _ _ _ => false
  | .vmul _ _ _ _ _ => false
  | .vmulh _ _ _ _ _ => false
  | .vmulhu _ _ _ _ _ => false
  | .vmacc _ _ _ _ _ => false
  | .vand _ _ _ _ _ => false
  | .vor _ _ _ _ _ => false
  | .vxor _ _ _ _ _ => false
  | .vsll _ _ _ _ _ => false
  | .vsrl _ _ _ _ _ => false
  | .vsra _ _ _ _ _ => false
  | .vmin _ _ _ _ _ => false
  | .vminu _ _ _ _ _ => false
  | .vmax _ _ _ _ _ => false
  | .vmaxu _ _ _ _ _ => false
  | .vseq _ _ _ _ _ => false
  | .vsne _ _ _ _ _ => false
  | .vslt _ _ _ _ _ => false
  | .vsltu _ _ _ _ _ => false
  | .vsle _ _ _ _ _ => false
  | .vsleu _ _ _ _ _ => false
  | .vfadd _ _ _ _ _ => false
  | .vfsub _ _ _ _ _ => false
  | .vfmul _ _ _ _ _ => false
  | .vfdiv _ _ _ _ _ => false
  | .vfsqrt _ _ _ => false
  | .vfmacc _ _ _ _ _ => false
  | .vfnmacc _ _ _ _ _ => false
  | .vfmsac _ _ _ _ _ => false
  | .vfmin _ _ _ _ _ => false
  | .vfmax _ _ _ _ _ => false
  | .vfsgnj _ _ _ _ _ => false
  | .vfclass _ _ _ => false
  | .vfeq _ _ _ _ _ => false
  | .vflt _ _ _ _ _ => false
  | .vfle _ _ _ _ _ => false
  | .vmv _ _ _ _ => false
  | .vmvxs _ _ => false
  | .vmerge _ _ _ _ _ => false
  | .vslideup _ _ _ _ => false
  | .vslidedn _ _ _ _ => false
  | .vperm _ _ _ _ => false
  | .vcompress _ _ _ => false
  | .vid _ _ => false
  | .viota _ _ => false
  | .vredsum _ _ _ _ => false
  | .vredosum _ _ _ _ => false
  | .vredmin _ _ _ _ => false
  | .vredmax _ _ _ _ => false
  | .vfredsum _ _ _ _ => false
  | .vfredosum _ _ _ _ => false
  | .vfredmin _ _ _ _ => false
  | .vfredmax _ _ _ _ => false
  | .kand _ _ _ => false
  | .kor _ _ _ => false
  | .kxor _ _ _ => false
  | .kpopc _ _ => false
  | .kfirst _ _ => false
  | .kmv _ _ => false
  | .vbvrd _ _ _ => false
  | .vbvwr _ _ _ => false
  | .vcvt _ _ _ _ => false
  | .vld _ _ _ _ => false
  | .vst _ _ _ _ => false
  | .vlds _ _ _ _ _ => false
  | .vsts _ _ _ _ _ => false
  | .vldx _ _ _ _ _ => false
  | .vstx _ _ _ _ _ => false
  | .vpref _ _ => false
  | .vldfe _ _ _ => false
  | .vstfe _ _ _ => false
  | .vqld _ _ _ => false
  | .vqst _ _ _ _ => false
  | .vamoadd _ _ _ _ => false
  | .vamomin _ _ _ _ => false
  | .vamomax _ _ _ _ => false
  | .vsend _ _ => false
  | .vrecv _ _ => false
  | .vmmaE4e4 _ _ _ _ => false
  | .vmmaE5e4 _ _ _ _ => false
  | .vmmaBf16 _ _ _ _ => false
  | .vmmaE4q _ _ _ _ => false
  | .mlease _ => false
  | .mrel => false
  | .mwld _ _ => false
  | .mzero _ => false
  | .mld _ _ => false
  | .mst _ _ _ _ _ => false
  | .mmacE4e4 _ _ _ _ => false
  | .mmacE5e4 _ _ _ _ => false
  | .mmacE4e5 _ _ _ _ => false
  | .mmacE5e5 _ _ _ _ => false
  | .mmacBf16 _ _ _ _ => false
  | .mmacE4q _ _ _ _ => false
  | .mmacF4 _ _ _ _ => false
  | .mmacF4q _ _ _ _ => false
  | .rbox _ _ _ => false
  | .rtri _ _ _ => false
  | .rcand _ _ _ => false
  | .racc _ _ => false
  | .rrej _ _ => false
  | .qsph _ _ _ => false
  | .qknn _ _ _ => false
  | .qkey _ _ _ => false
  | .vedge _ _ _ => false
  | .tsamp _ _ _ => false
  | .tfetch _ _ _ => false
  | .tdecode _ _ _ => false
  | .storeBufferDrain _ _ => true
  | .scalarLoadReturn _ _ => true
  | .pageTableWalk _ _ => true
  | .adUpdate _ => true
  | .spanEntryFetch _ _ => true
  | .streamDetectorExpiry _ _ => true
  | .vectorGroupIssue _ _ => true
  | .vectorAccessComplete _ _ => true
  | .noticeUpcall _ => true
  | .vcfgReconfigure _ => true
  | .leewayConfigApply _ => true
  | .ldfeWake _ => true
  | .feTimeout _ _ => true
  | .ringArrival _ _ => true
  | .ringConsumerRelease _ _ => true
  | .copyMove _ _ _ _ => true
  | .copyComplete _ _ _ => true
  | .channelResetDone _ => true
  | .waitcRelease _ => true
  | .fenceVsRelease _ => true
  | .streamGroupArrival _ _ => true
  | .streamProbeSend _ => true
  | .streamProbeHop _ => true
  | .linkTurnBegin _ => true
  | .linkTurnDrained _ => true
  | .linkTurnDone _ => true
  | .waysetComplete _ => true
  | .wdqAnswer _ => true
  | .dispatch _ => true
  | .gangTick _ => true
  | .queueAging _ => true
  | .candidateReservation _ _ => true
  | .batchWaitExpiry _ => true
  | .exitPerform _ => true
  | .issueLoweringEnd _ => true
  | .ticketApply _ _ => true
  | .unitRetry _ => true
  | .barrierPhaseComplete _ _ => true
  | .wevReturn _ => true
  | .barrierTimeout _ => true
  | .leaseGrant _ => true
  | .leaseBudgetEnd _ => true
  | .tileParkDone _ => true
  | .tileRestoreDone _ => true
  | .arrayCommandStart _ => true
  | .arrayCommandComplete _ _ => true
  | .weightBufferClearDone _ => true
  | .preemptTaken _ => true
  | .interruptTaken _ => true
  | .wfiWake _ => true
  | .pauseEnd _ => true
  | .yieldEnd _ => true
  | .alarmInterrupt _ => true
  | .killComplete _ => true
  | .vstupdComplete _ => true
  | .shootdownComplete => true
  | .homeTableChangeDone => true
  | .contextResidentDone _ => true
  | .vsaveWrite _ => true
  | .vrestoreLoad _ => true
  | .islandClockDone _ _ => true
  | .islandOffDone _ _ => true
  | .islandOnDone _ _ => true
  | .governorSample _ _ => true
  | .thermalTrip => true
  | .thermalClear => true
  | .ethernetLinkChange _ _ => true
  | .linkReplay _ => true
  | .dieLinkError _ _ => true
  | .eccError _ _ => true
  | .dieWarmReset _ => true
  | .dieReadmit _ => true
  | .powerGood _ => true
  | .dieAdmit _ => true
  | .memoryTrained => true
  | .rdmaWriteIn _ _ _ _ => true
  | .rdmaReadIn _ _ _ _ => true
  | .rdmaSendIn _ _ => true
  | .remoteQpush _ _ _ _ => true
  | .remoteResponse _ _ _ => true
  | .qpAckTimeout _ => true
  | .ptpMessage _ => true
  | .homeTableWrite _ => true
  | .shootCmdWrite _ => true
  | .pgdoneWrite _ => true
  | .arrbindWrite _ => true
  | .tsaveWrite _ => true
  | .qctlWrite _ => true
  | .preemptRequest _ => true
  | .preemptCancel _ => true
  | .eventCounterClear _ => true
  | .chronadjWrite _ => true
  | .chronstepWrite _ => true
  | .linkevRead _ => true
  | .contextMakeResident _ => true
  | .contextRelease _ => true
  | .alarmWrite _ => true
  | .qpcmdApply _ => true
  | .qpcmdFetch _ => true
  | .qpcmdApplyDone => true
  | .deviceRegisterWrite _ => true
  | .illegalInstruction _ _ => true
  | .instructionFetchFault _ => true
  | .vaqGroupLanded _ => true
  | .invalidRequestNak _ => true

end Sys2Proof
end

