-- ==== Sys2Proof/Word.lean ====
section
/-!
DEFINITION. Word types of the SV4-M512: the 64-bit register and address word, the 32-bit instruction word and
binary32 pattern, the byte (R2, R24, R26).
-/
namespace Sys2Proof

/-- A 64-bit register, address or CSR value. -/
abbrev Word := BitVec 64

/-- A 32-bit instruction word or binary32 pattern. -/
abbrev Half := BitVec 32

/-- A byte of memory. -/
abbrev Byte := BitVec 8

end Sys2Proof
end

