-- ==== Sys2Proof/WellFormed.lean ====
section
/-!
DEFINITION. The checks an instruction's operand fields must pass to have a word: reserved and unassigned operand values
(R30, R31, R34, R38, R39, R61) are refused, and each of two rows whose words overlap leaves the special words to the
other (FENCE against FENCE_TSO and PAUSE, R58; RINGSET against RINGSET_WITHDRAW, R205).
-/
namespace Sys2Proof

/-- Element type codes of Table 2-8: 7 and 12 to 15 are not defined. -/
def typeDefined (t : BitVec 4) : Bool := t.toNat < 7 || (7 < t.toNat && t.toNat < 12)

/-- Rounding-mode fields: 101 and 110 are illegal (R61). -/
def rmLegal (rm : BitVec 3) : Bool := rm.toNat < 5 || rm.toNat = 7

/-- Whether the instruction's fields may stand in a word. Events have no word. -/
def Instr.wellFormed : Instr → Bool
  | .lui _ _ => true
  | .auipc _ _ => true
  | .jal _ _ => true
  | .jalr _ _ _ => true
  | .beq _ _ _ => true
  | .bne _ _ _ => true
  | .blt _ _ _ => true
  | .bge _ _ _ => true
  | .bltu _ _ _ => true
  | .bgeu _ _ _ => true
  | .lb _ _ _ => true
  | .lh _ _ _ => true
  | .lw _ _ _ => true
  | .ld _ _ _ => true
  | .lbu _ _ _ => true
  | .lhu _ _ _ => true
  | .lwu _ _ _ => true
  | .sb _ _ _ => true
  | .sh _ _ _ => true
  | .sw _ _ _ => true
  | .sd _ _ _ => true
  | .addi _ _ _ => true
  | .slti _ _ _ => true
  | .sltiu _ _ _ => true
  | .xori _ _ _ => true
  | .ori _ _ _ => true
  | .andi _ _ _ => true
  | .slli _ _ _ => true
  | .srli _ _ _ => true
  | .srai _ _ _ => true
  | .addiw _ _ _ => true
  | .slliw _ _ _ => true
  | .srliw _ _ _ => true
  | .sraiw _ _ _ => true
  | .add _ _ _ => true
  | .sub _ _ _ => true
  | .sll _ _ _ => true
  | .slt _ _ _ => true
  | .sltu _ _ _ => true
  | .xor _ _ _ => true
  | .srl _ _ _ => true
  | .sra _ _ _ => true
  | .or _ _ _ => true
  | .and _ _ _ => true
  | .addw _ _ _ => true
  | .subw _ _ _ => true
  | .sllw _ _ _ => true
  | .srlw _ _ _ => true
  | .sraw _ _ _ => true
  | .fence rd rs1 succ pred fm => !(fm = 0x8#4 && pred = 0x3#4 && succ = 0x3#4) && !(rd = 0#5 && rs1 = 0#5 && succ = 0#4 && pred = 1#4 && fm = 0#4)
  | .fenceTso _ _ => true
  | .pause => true
  | .fenceI _ _ _ => true
  | .ecall => true
  | .ebreak => true
  | .mul _ _ _ => true
  | .mulh _ _ _ => true
  | .mulhsu _ _ _ => true
  | .mulhu _ _ _ => true
  | .div _ _ _ => true
  | .divu _ _ _ => true
  | .rem _ _ _ => true
  | .remu _ _ _ => true
  | .mulw _ _ _ => true
  | .divw _ _ _ => true
  | .divuw _ _ _ => true
  | .remw _ _ _ => true
  | .remuw _ _ _ => true
  | .lrW _ _ _ _ => true
  | .lrD _ _ _ _ => true
  | .scW _ _ _ _ _ => true
  | .scD _ _ _ _ _ => true
  | .amoswapW _ _ _ _ _ => true
  | .amoswapD _ _ _ _ _ => true
  | .amoaddW _ _ _ _ _ => true
  | .amoaddD _ _ _ _ _ => true
  | .amoxorW _ _ _ _ _ => true
  | .amoxorD _ _ _ _ _ => true
  | .amoandW _ _ _ _ _ => true
  | .amoandD _ _ _ _ _ => true
  | .amoorW _ _ _ _ _ => true
  | .amoorD _ _ _ _ _ => true
  | .amominW _ _ _ _ _ => true
  | .amominD _ _ _ _ _ => true
  | .amomaxW _ _ _ _ _ => true
  | .amomaxD _ _ _ _ _ => true
  | .amominuW _ _ _ _ _ => true
  | .amominuD _ _ _ _ _ => true
  | .amomaxuW _ _ _ _ _ => true
  | .amomaxuD _ _ _ _ _ => true
  | .flw _ _ _ => true
  | .fsw _ _ _ => true
  | .fmaddS _ rm _ _ _ => rmLegal rm
  | .fmsubS _ rm _ _ _ => rmLegal rm
  | .fnmsubS _ rm _ _ _ => rmLegal rm
  | .fnmaddS _ rm _ _ _ => rmLegal rm
  | .faddS _ rm _ _ => rmLegal rm
  | .fsubS _ rm _ _ => rmLegal rm
  | .fmulS _ rm _ _ => rmLegal rm
  | .fdivS _ rm _ _ => rmLegal rm
  | .fsqrtS _ rm _ => rmLegal rm
  | .fsgnjS _ _ _ => true
  | .fsgnjnS _ _ _ => true
  | .fsgnjxS _ _ _ => true
  | .fminS _ _ _ => true
  | .fmaxS _ _ _ => true
  | .fcvtWS _ rm _ => rmLegal rm
  | .fcvtWuS _ rm _ => rmLegal rm
  | .fcvtLS _ rm _ => rmLegal rm
  | .fcvtLuS _ rm _ => rmLegal rm
  | .fcvtSW _ rm _ => rmLegal rm
  | .fcvtSWu _ rm _ => rmLegal rm
  | .fcvtSL _ rm _ => rmLegal rm
  | .fcvtSLu _ rm _ => rmLegal rm
  | .fmvXW _ _ => true
  | .fclassS _ _ => true
  | .feqS _ _ _ => true
  | .fltS _ _ _ => true
  | .fleS _ _ _ => true
  | .fmvWX _ _ => true
  | .csrrw _ _ _ => true
  | .csrrs _ _ _ => true
  | .csrrc _ _ _ => true
  | .csrrwi _ _ _ => true
  | .csrrsi _ _ _ => true
  | .csrrci _ _ _ => true
  | .sret => true
  | .mret => true
  | .wfi => true
  | .sfenceVma _ _ => true
  | .vloop xc _ _ => xc != 0#5
  | .vloopcfg _ _ => true
  | .vcfg _ _ => true
  | .vsetlen _ _ ty => typeDefined ty
  | .lycfg _ _ => true
  | .lyclr _ => true
  | .lysave _ _ => true
  | .lyload _ _ => true
  | .flsc _ _ _ => true
  | .ldfe _ _ => true
  | .stfe _ _ => true
  | .ringset _ rs1 => rs1 != 0#5
  | .ringsetWithdraw _ => true
  | .ringacq _ _ _ => true
  | .ringrel _ _ => true
  | .ringexp _ _ => true
  | .ringtst _ _ _ => true
  | .cpset _ _ sel => sel.toNat < 7
  | .cplaunch _ _ => true
  | .cpstat _ _ => true
  | .waitc _ _ _ _ => true
  | .strmopen _ _ => true
  | .strmclose _ => true
  | .tack _ _ _ => true
  | .qpush _ _ _ => true
  | .qpop _ _ _ => true
  | .exit _ cnt => cnt.toNat < 5
  | .yield => true
  | .wdq _ _ => true
  | .tcommit _ _ => true
  | .tskip _ => true
  | .tcfg _ _ => true
  | .gangarm _ _ => true
  | .fenceSv scope => scope.toNat < 6
  | .fenceVs scope => scope.toNat < 6
  | .fenceVv scope => scope.toNat < 6
  | .amoaddf _ _ _ scope => scope.toNat < 6
  | .amomaxf _ _ _ scope => scope.toNat < 6
  | .bwcfg _ wire => wire.toNat < 3
  | .bwarr _ wire => wire.toNat < 3
  | .bwtst _ wire => wire.toNat < 3
  | .wev _ _ => true
  | .upret => true
  | .fqpop _ _ => true
  | .vstupd _ _ => true
  | .kill _ => true
  | .islctl _ _ _ => true
  | .vsave _ => true
  | .vrestore _ => true
  | .wayset _ _ => true
  | .vadd _ _ _ _ _ => true
  | .vsub _ _ _ _ _ => true
  | .vmul _ _ _ _ _ => true
  | .vmulh _ _ _ _ _ => true
  | .vmulhu _ _ _ _ _ => true
  | .vmacc _ _ _ _ _ => true
  | .vand _ _ _ _ _ => true
  | .vor _ _ _ _ _ => true
  | .vxor _ _ _ _ _ => true
  | .vsll _ _ _ _ _ => true
  | .vsrl _ _ _ _ _ => true
  | .vsra _ _ _ _ _ => true
  | .vmin _ _ _ _ _ => true
  | .vminu _ _ _ _ _ => true
  | .vmax _ _ _ _ _ => true
  | .vmaxu _ _ _ _ _ => true
  | .vseq _ _ _ _ _ => true
  | .vsne _ _ _ _ _ => true
  | .vslt _ _ _ _ _ => true
  | .vsltu _ _ _ _ _ => true
  | .vsle _ _ _ _ _ => true
  | .vsleu _ _ _ _ _ => true
  | .vfadd _ _ _ _ _ => true
  | .vfsub _ _ _ _ _ => true
  | .vfmul _ _ _ _ _ => true
  | .vfdiv _ _ _ _ _ => true
  | .vfsqrt _ _ _ => true
  | .vfmacc _ _ _ _ _ => true
  | .vfnmacc _ _ _ _ _ => true
  | .vfmsac _ _ _ _ _ => true
  | .vfmin _ _ _ _ _ => true
  | .vfmax _ _ _ _ _ => true
  | .vfsgnj _ _ _ _ _ => true
  | .vfclass _ _ _ => true
  | .vfeq _ _ _ _ _ => true
  | .vflt _ _ _ _ _ => true
  | .vfle _ _ _ _ _ => true
  | .vmv _ _ _ _ => true
  | .vmvxs _ _ => true
  | .vmerge _ _ _ _ _ => true
  | .vslideup _ _ _ _ => true
  | .vslidedn _ _ _ _ => true
  | .vperm _ _ _ _ => true
  | .vcompress _ _ _ => true
  | .vid _ _ => true
  | .viota _ _ => true
  | .vredsum _ _ _ _ => true
  | .vredosum _ _ _ _ => true
  | .vredmin _ _ _ _ => true
  | .vredmax _ _ _ _ => true
  | .vfredsum _ _ _ _ => true
  | .vfredosum _ _ _ _ => true
  | .vfredmin _ _ _ _ => true
  | .vfredmax _ _ _ _ => true
  | .kand _ _ _ => true
  | .kor _ _ _ => true
  | .kxor _ _ _ => true
  | .kpopc _ _ => true
  | .kfirst _ _ => true
  | .kmv _ _ => true
  | .vbvrd _ _ _ => true
  | .vbvwr _ _ _ => true
  | .vcvt _ _ ty _ => typeDefined ty
  | .vld _ _ _ _ => true
  | .vst _ _ _ _ => true
  | .vlds _ _ _ _ _ => true
  | .vsts _ _ _ _ _ => true
  | .vldx _ _ _ _ _ => true
  | .vstx _ _ _ _ _ => true
  | .vpref _ _ => true
  | .vldfe _ _ _ => true
  | .vstfe _ _ _ => true
  | .vqld _ _ fmt => fmt.toNat < 6
  | .vqst _ _ fmt _ => fmt.toNat < 6
  | .vamoadd _ _ _ _ => true
  | .vamomin _ _ _ _ => true
  | .vamomax _ _ _ _ => true
  | .vsend _ _ => true
  | .vrecv _ _ => true
  | .vmmaE4e4 _ _ _ fs3 => (fs3 = 0#5 || fs3 = 16#5)
  | .vmmaE5e4 _ _ _ fs3 => (fs3 = 0#5 || fs3 = 16#5)
  | .vmmaBf16 _ _ _ fs3 => (fs3 = 0#5 || fs3 = 16#5)
  | .vmmaE4q _ _ _ fs3 => (fs3 = 0#5 || fs3 = 16#5)
  | .mlease _ => true
  | .mrel => true
  | .mwld _ _ => true
  | .mzero _ => true
  | .mld _ _ => true
  | .mst _ _ _ fmt _ => fmt.toNat < 6
  | .mmacE4e4 _ _ _ _ => true
  | .mmacE5e4 _ _ _ _ => true
  | .mmacE4e5 _ _ _ _ => true
  | .mmacE5e5 _ _ _ _ => true
  | .mmacBf16 _ _ _ _ => true
  | .mmacE4q _ _ _ _ => true
  | .mmacF4 _ _ _ _ => true
  | .mmacF4q _ _ _ _ => true
  | .rbox _ _ _ => true
  | .rtri _ _ _ => true
  | .rcand _ _ _ => true
  | .racc _ _ => true
  | .rrej _ _ => true
  | .qsph _ _ _ => true
  | .qknn _ _ _ => true
  | .qkey _ _ _ => true
  | .vedge _ _ _ => true
  | .tsamp _ _ _ => true
  | .tfetch _ _ _ => true
  | .tdecode _ _ _ => true
  | .storeBufferDrain _ _ => false
  | .scalarLoadReturn _ _ => false
  | .pageTableWalk _ _ => false
  | .adUpdate _ => false
  | .spanEntryFetch _ _ => false
  | .streamDetectorExpiry _ _ => false
  | .vectorGroupIssue _ _ => false
  | .vectorAccessComplete _ _ => false
  | .noticeUpcall _ => false
  | .vcfgReconfigure _ => false
  | .leewayConfigApply _ => false
  | .ldfeWake _ => false
  | .feTimeout _ _ => false
  | .ringArrival _ _ => false
  | .ringConsumerRelease _ _ => false
  | .copyMove _ _ _ _ => false
  | .copyComplete _ _ _ => false
  | .channelResetDone _ => false
  | .waitcRelease _ => false
  | .fenceVsRelease _ => false
  | .streamGroupArrival _ _ => false
  | .streamProbeSend _ => false
  | .streamProbeHop _ => false
  | .linkTurnBegin _ => false
  | .linkTurnDrained _ => false
  | .linkTurnDone _ => false
  | .waysetComplete _ => false
  | .wdqAnswer _ => false
  | .dispatch _ => false
  | .gangTick _ => false
  | .queueAging _ => false
  | .candidateReservation _ _ => false
  | .batchWaitExpiry _ => false
  | .exitPerform _ => false
  | .issueLoweringEnd _ => false
  | .ticketApply _ _ => false
  | .unitRetry _ => false
  | .barrierPhaseComplete _ _ => false
  | .wevReturn _ => false
  | .barrierTimeout _ => false
  | .leaseGrant _ => false
  | .leaseBudgetEnd _ => false
  | .tileParkDone _ => false
  | .tileRestoreDone _ => false
  | .arrayCommandStart _ => false
  | .arrayCommandComplete _ _ => false
  | .weightBufferClearDone _ => false
  | .preemptTaken _ => false
  | .interruptTaken _ => false
  | .wfiWake _ => false
  | .pauseEnd _ => false
  | .yieldEnd _ => false
  | .alarmInterrupt _ => false
  | .killComplete _ => false
  | .vstupdComplete _ => false
  | .shootdownComplete => false
  | .homeTableChangeDone => false
  | .contextResidentDone _ => false
  | .vsaveWrite _ => false
  | .vrestoreLoad _ => false
  | .islandClockDone _ _ => false
  | .islandOffDone _ _ => false
  | .islandOnDone _ _ => false
  | .governorSample _ _ => false
  | .thermalTrip => false
  | .thermalClear => false
  | .ethernetLinkChange _ _ => false
  | .linkReplay _ => false
  | .dieLinkError _ _ => false
  | .eccError _ _ => false
  | .dieWarmReset _ => false
  | .dieReadmit _ => false
  | .powerGood _ => false
  | .dieAdmit _ => false
  | .memoryTrained => false
  | .rdmaWriteIn _ _ _ _ => false
  | .rdmaReadIn _ _ _ _ => false
  | .rdmaSendIn _ _ => false
  | .remoteQpush _ _ _ _ => false
  | .remoteResponse _ _ _ => false
  | .qpAckTimeout _ => false
  | .ptpMessage _ => false
  | .homeTableWrite _ => false
  | .shootCmdWrite _ => false
  | .pgdoneWrite _ => false
  | .arrbindWrite _ => false
  | .tsaveWrite _ => false
  | .qctlWrite _ => false
  | .preemptRequest _ => false
  | .preemptCancel _ => false
  | .eventCounterClear _ => false
  | .chronadjWrite _ => false
  | .chronstepWrite _ => false
  | .linkevRead _ => false
  | .contextMakeResident _ => false
  | .contextRelease _ => false
  | .alarmWrite _ => false
  | .qpcmdApply _ => false
  | .qpcmdFetch _ => false
  | .qpcmdApplyDone => false
  | .deviceRegisterWrite _ => false
  | .illegalInstruction _ _ => false
  | .instructionFetchFault _ => false
  | .vaqGroupLanded _ => false
  | .invalidRequestNak _ => false

end Sys2Proof
end

