-- ==== Sys2Proof/Decode.lean ====
section
/-!
DEFINITION. The decoder and the encoder of the 32-bit word (02_instruction_word.md, 03_scalar_base.md).
A word is split once into the six fields every format shares (R29); each major opcode (Table 2-1) has one function from
fields to an instruction, total, answering none for every word that no row assigns (R27, R31); reserved operand values
are refused by Instr.wellFormed. The encoder gives each instruction the same six fields.
-/
namespace Sys2Proof

/-- The six fields of a word: [31:25], [24:20], [19:15], [14:12], [11:7], [6:0] (R29). -/
structure Fields where
  f7 : BitVec 7
  r2 : BitVec 5
  r1 : BitVec 5
  f3 : BitVec 3
  rd : BitVec 5
  op : BitVec 7
  deriving DecidableEq, Repr

/-- The fields of a word. -/
def Fields.ofWord (w : BitVec 32) : Fields :=
  ⟨w.extractLsb' 25 7, w.extractLsb' 20 5, w.extractLsb' 15 5, w.extractLsb' 12 3, w.extractLsb' 7 5, w.extractLsb' 0 7⟩

/-- The word of the fields. -/
def Fields.toWord (f : Fields) : BitVec 32 := f.f7 ++ f.r2 ++ f.r1 ++ f.f3 ++ f.rd ++ f.op

/-- The fields of LUI. -/
def fieldsLui (rd : BitVec 5) (imm : BitVec 20) : Fields :=
  ⟨(imm.extractLsb' 13 7), (imm.extractLsb' 8 5), (imm.extractLsb' 3 5), (imm.extractLsb' 0 3), rd, 0x37#7⟩

/-- The fields of AUIPC. -/
def fieldsAuipc (rd : BitVec 5) (imm : BitVec 20) : Fields :=
  ⟨(imm.extractLsb' 13 7), (imm.extractLsb' 8 5), (imm.extractLsb' 3 5), (imm.extractLsb' 0 3), rd, 0x17#7⟩

/-- The fields of JAL. -/
def fieldsJal (rd : BitVec 5) (off : BitVec 20) : Fields :=
  ⟨((off.extractLsb' 19 1) ++ (off.extractLsb' 4 6)), ((off.extractLsb' 0 4) ++ (off.extractLsb' 10 1)), (off.extractLsb' 14 5), (off.extractLsb' 11 3), rd, 0x6f#7⟩

/-- The fields of JALR. -/
def fieldsJalr (rd : BitVec 5) (rs1 : BitVec 5) (imm : BitVec 12) : Fields :=
  ⟨(imm.extractLsb' 5 7), (imm.extractLsb' 0 5), rs1, 0x0#3, rd, 0x67#7⟩

/-- The fields of BEQ. -/
def fieldsBeq (rs1 : BitVec 5) (rs2 : BitVec 5) (off : BitVec 12) : Fields :=
  ⟨((off.extractLsb' 11 1) ++ (off.extractLsb' 4 6)), rs2, rs1, 0x0#3, ((off.extractLsb' 0 4) ++ (off.extractLsb' 10 1)), 0x63#7⟩

/-- The fields of BNE. -/
def fieldsBne (rs1 : BitVec 5) (rs2 : BitVec 5) (off : BitVec 12) : Fields :=
  ⟨((off.extractLsb' 11 1) ++ (off.extractLsb' 4 6)), rs2, rs1, 0x1#3, ((off.extractLsb' 0 4) ++ (off.extractLsb' 10 1)), 0x63#7⟩

/-- The fields of BLT. -/
def fieldsBlt (rs1 : BitVec 5) (rs2 : BitVec 5) (off : BitVec 12) : Fields :=
  ⟨((off.extractLsb' 11 1) ++ (off.extractLsb' 4 6)), rs2, rs1, 0x4#3, ((off.extractLsb' 0 4) ++ (off.extractLsb' 10 1)), 0x63#7⟩

/-- The fields of BGE. -/
def fieldsBge (rs1 : BitVec 5) (rs2 : BitVec 5) (off : BitVec 12) : Fields :=
  ⟨((off.extractLsb' 11 1) ++ (off.extractLsb' 4 6)), rs2, rs1, 0x5#3, ((off.extractLsb' 0 4) ++ (off.extractLsb' 10 1)), 0x63#7⟩

/-- The fields of BLTU. -/
def fieldsBltu (rs1 : BitVec 5) (rs2 : BitVec 5) (off : BitVec 12) : Fields :=
  ⟨((off.extractLsb' 11 1) ++ (off.extractLsb' 4 6)), rs2, rs1, 0x6#3, ((off.extractLsb' 0 4) ++ (off.extractLsb' 10 1)), 0x63#7⟩

/-- The fields of BGEU. -/
def fieldsBgeu (rs1 : BitVec 5) (rs2 : BitVec 5) (off : BitVec 12) : Fields :=
  ⟨((off.extractLsb' 11 1) ++ (off.extractLsb' 4 6)), rs2, rs1, 0x7#3, ((off.extractLsb' 0 4) ++ (off.extractLsb' 10 1)), 0x63#7⟩

/-- The fields of LB. -/
def fieldsLb (rd : BitVec 5) (rs1 : BitVec 5) (imm : BitVec 12) : Fields :=
  ⟨(imm.extractLsb' 5 7), (imm.extractLsb' 0 5), rs1, 0x0#3, rd, 0x3#7⟩

/-- The fields of LH. -/
def fieldsLh (rd : BitVec 5) (rs1 : BitVec 5) (imm : BitVec 12) : Fields :=
  ⟨(imm.extractLsb' 5 7), (imm.extractLsb' 0 5), rs1, 0x1#3, rd, 0x3#7⟩

/-- The fields of LW. -/
def fieldsLw (rd : BitVec 5) (rs1 : BitVec 5) (imm : BitVec 12) : Fields :=
  ⟨(imm.extractLsb' 5 7), (imm.extractLsb' 0 5), rs1, 0x2#3, rd, 0x3#7⟩

/-- The fields of LD. -/
def fieldsLd (rd : BitVec 5) (rs1 : BitVec 5) (imm : BitVec 12) : Fields :=
  ⟨(imm.extractLsb' 5 7), (imm.extractLsb' 0 5), rs1, 0x3#3, rd, 0x3#7⟩

/-- The fields of LBU. -/
def fieldsLbu (rd : BitVec 5) (rs1 : BitVec 5) (imm : BitVec 12) : Fields :=
  ⟨(imm.extractLsb' 5 7), (imm.extractLsb' 0 5), rs1, 0x4#3, rd, 0x3#7⟩

/-- The fields of LHU. -/
def fieldsLhu (rd : BitVec 5) (rs1 : BitVec 5) (imm : BitVec 12) : Fields :=
  ⟨(imm.extractLsb' 5 7), (imm.extractLsb' 0 5), rs1, 0x5#3, rd, 0x3#7⟩

/-- The fields of LWU. -/
def fieldsLwu (rd : BitVec 5) (rs1 : BitVec 5) (imm : BitVec 12) : Fields :=
  ⟨(imm.extractLsb' 5 7), (imm.extractLsb' 0 5), rs1, 0x6#3, rd, 0x3#7⟩

/-- The fields of SB. -/
def fieldsSb (rs1 : BitVec 5) (rs2 : BitVec 5) (imm : BitVec 12) : Fields :=
  ⟨(imm.extractLsb' 5 7), rs2, rs1, 0x0#3, (imm.extractLsb' 0 5), 0x23#7⟩

/-- The fields of SH. -/
def fieldsSh (rs1 : BitVec 5) (rs2 : BitVec 5) (imm : BitVec 12) : Fields :=
  ⟨(imm.extractLsb' 5 7), rs2, rs1, 0x1#3, (imm.extractLsb' 0 5), 0x23#7⟩

/-- The fields of SW. -/
def fieldsSw (rs1 : BitVec 5) (rs2 : BitVec 5) (imm : BitVec 12) : Fields :=
  ⟨(imm.extractLsb' 5 7), rs2, rs1, 0x2#3, (imm.extractLsb' 0 5), 0x23#7⟩

/-- The fields of SD. -/
def fieldsSd (rs1 : BitVec 5) (rs2 : BitVec 5) (imm : BitVec 12) : Fields :=
  ⟨(imm.extractLsb' 5 7), rs2, rs1, 0x3#3, (imm.extractLsb' 0 5), 0x23#7⟩

/-- The fields of ADDI. -/
def fieldsAddi (rd : BitVec 5) (rs1 : BitVec 5) (imm : BitVec 12) : Fields :=
  ⟨(imm.extractLsb' 5 7), (imm.extractLsb' 0 5), rs1, 0x0#3, rd, 0x13#7⟩

/-- The fields of SLTI. -/
def fieldsSlti (rd : BitVec 5) (rs1 : BitVec 5) (imm : BitVec 12) : Fields :=
  ⟨(imm.extractLsb' 5 7), (imm.extractLsb' 0 5), rs1, 0x2#3, rd, 0x13#7⟩

/-- The fields of SLTIU. -/
def fieldsSltiu (rd : BitVec 5) (rs1 : BitVec 5) (imm : BitVec 12) : Fields :=
  ⟨(imm.extractLsb' 5 7), (imm.extractLsb' 0 5), rs1, 0x3#3, rd, 0x13#7⟩

/-- The fields of XORI. -/
def fieldsXori (rd : BitVec 5) (rs1 : BitVec 5) (imm : BitVec 12) : Fields :=
  ⟨(imm.extractLsb' 5 7), (imm.extractLsb' 0 5), rs1, 0x4#3, rd, 0x13#7⟩

/-- The fields of ORI. -/
def fieldsOri (rd : BitVec 5) (rs1 : BitVec 5) (imm : BitVec 12) : Fields :=
  ⟨(imm.extractLsb' 5 7), (imm.extractLsb' 0 5), rs1, 0x6#3, rd, 0x13#7⟩

/-- The fields of ANDI. -/
def fieldsAndi (rd : BitVec 5) (rs1 : BitVec 5) (imm : BitVec 12) : Fields :=
  ⟨(imm.extractLsb' 5 7), (imm.extractLsb' 0 5), rs1, 0x7#3, rd, 0x13#7⟩

/-- The fields of SLLI. -/
def fieldsSlli (rd : BitVec 5) (rs1 : BitVec 5) (shamt : BitVec 6) : Fields :=
  ⟨(0x0#6 ++ (shamt.extractLsb' 5 1)), (shamt.extractLsb' 0 5), rs1, 0x1#3, rd, 0x13#7⟩

/-- The fields of SRLI. -/
def fieldsSrli (rd : BitVec 5) (rs1 : BitVec 5) (shamt : BitVec 6) : Fields :=
  ⟨(0x0#6 ++ (shamt.extractLsb' 5 1)), (shamt.extractLsb' 0 5), rs1, 0x5#3, rd, 0x13#7⟩

/-- The fields of SRAI. -/
def fieldsSrai (rd : BitVec 5) (rs1 : BitVec 5) (shamt : BitVec 6) : Fields :=
  ⟨(0x10#6 ++ (shamt.extractLsb' 5 1)), (shamt.extractLsb' 0 5), rs1, 0x5#3, rd, 0x13#7⟩

/-- The fields of ADDIW. -/
def fieldsAddiw (rd : BitVec 5) (rs1 : BitVec 5) (imm : BitVec 12) : Fields :=
  ⟨(imm.extractLsb' 5 7), (imm.extractLsb' 0 5), rs1, 0x0#3, rd, 0x1b#7⟩

/-- The fields of SLLIW. -/
def fieldsSlliw (rd : BitVec 5) (rs1 : BitVec 5) (shamt : BitVec 5) : Fields :=
  ⟨0x0#7, shamt, rs1, 0x1#3, rd, 0x1b#7⟩

/-- The fields of SRLIW. -/
def fieldsSrliw (rd : BitVec 5) (rs1 : BitVec 5) (shamt : BitVec 5) : Fields :=
  ⟨0x0#7, shamt, rs1, 0x5#3, rd, 0x1b#7⟩

/-- The fields of SRAIW. -/
def fieldsSraiw (rd : BitVec 5) (rs1 : BitVec 5) (shamt : BitVec 5) : Fields :=
  ⟨0x20#7, shamt, rs1, 0x5#3, rd, 0x1b#7⟩

/-- The fields of ADD. -/
def fieldsAdd (rd : BitVec 5) (rs1 : BitVec 5) (rs2 : BitVec 5) : Fields :=
  ⟨0x0#7, rs2, rs1, 0x0#3, rd, 0x33#7⟩

/-- The fields of SUB. -/
def fieldsSub (rd : BitVec 5) (rs1 : BitVec 5) (rs2 : BitVec 5) : Fields :=
  ⟨0x20#7, rs2, rs1, 0x0#3, rd, 0x33#7⟩

/-- The fields of SLL. -/
def fieldsSll (rd : BitVec 5) (rs1 : BitVec 5) (rs2 : BitVec 5) : Fields :=
  ⟨0x0#7, rs2, rs1, 0x1#3, rd, 0x33#7⟩

/-- The fields of SLT. -/
def fieldsSlt (rd : BitVec 5) (rs1 : BitVec 5) (rs2 : BitVec 5) : Fields :=
  ⟨0x0#7, rs2, rs1, 0x2#3, rd, 0x33#7⟩

/-- The fields of SLTU. -/
def fieldsSltu (rd : BitVec 5) (rs1 : BitVec 5) (rs2 : BitVec 5) : Fields :=
  ⟨0x0#7, rs2, rs1, 0x3#3, rd, 0x33#7⟩

/-- The fields of XOR. -/
def fieldsXor (rd : BitVec 5) (rs1 : BitVec 5) (rs2 : BitVec 5) : Fields :=
  ⟨0x0#7, rs2, rs1, 0x4#3, rd, 0x33#7⟩

/-- The fields of SRL. -/
def fieldsSrl (rd : BitVec 5) (rs1 : BitVec 5) (rs2 : BitVec 5) : Fields :=
  ⟨0x0#7, rs2, rs1, 0x5#3, rd, 0x33#7⟩

/-- The fields of SRA. -/
def fieldsSra (rd : BitVec 5) (rs1 : BitVec 5) (rs2 : BitVec 5) : Fields :=
  ⟨0x20#7, rs2, rs1, 0x5#3, rd, 0x33#7⟩

/-- The fields of OR. -/
def fieldsOr (rd : BitVec 5) (rs1 : BitVec 5) (rs2 : BitVec 5) : Fields :=
  ⟨0x0#7, rs2, rs1, 0x6#3, rd, 0x33#7⟩

/-- The fields of AND. -/
def fieldsAnd (rd : BitVec 5) (rs1 : BitVec 5) (rs2 : BitVec 5) : Fields :=
  ⟨0x0#7, rs2, rs1, 0x7#3, rd, 0x33#7⟩

/-- The fields of ADDW. -/
def fieldsAddw (rd : BitVec 5) (rs1 : BitVec 5) (rs2 : BitVec 5) : Fields :=
  ⟨0x0#7, rs2, rs1, 0x0#3, rd, 0x3b#7⟩

/-- The fields of SUBW. -/
def fieldsSubw (rd : BitVec 5) (rs1 : BitVec 5) (rs2 : BitVec 5) : Fields :=
  ⟨0x20#7, rs2, rs1, 0x0#3, rd, 0x3b#7⟩

/-- The fields of SLLW. -/
def fieldsSllw (rd : BitVec 5) (rs1 : BitVec 5) (rs2 : BitVec 5) : Fields :=
  ⟨0x0#7, rs2, rs1, 0x1#3, rd, 0x3b#7⟩

/-- The fields of SRLW. -/
def fieldsSrlw (rd : BitVec 5) (rs1 : BitVec 5) (rs2 : BitVec 5) : Fields :=
  ⟨0x0#7, rs2, rs1, 0x5#3, rd, 0x3b#7⟩

/-- The fields of SRAW. -/
def fieldsSraw (rd : BitVec 5) (rs1 : BitVec 5) (rs2 : BitVec 5) : Fields :=
  ⟨0x20#7, rs2, rs1, 0x5#3, rd, 0x3b#7⟩

/-- The fields of FENCE. -/
def fieldsFence (rd : BitVec 5) (rs1 : BitVec 5) (succ : BitVec 4) (pred : BitVec 4) (fm : BitVec 4) : Fields :=
  ⟨(fm ++ (pred.extractLsb' 1 3)), ((pred.extractLsb' 0 1) ++ succ), rs1, 0x0#3, rd, 0xf#7⟩

/-- The fields of FENCE_TSO. -/
def fieldsFenceTso (rd : BitVec 5) (rs1 : BitVec 5) : Fields :=
  ⟨0x41#7, 0x13#5, rs1, 0x0#3, rd, 0xf#7⟩

/-- The fields of PAUSE. -/
def fieldsPause : Fields :=
  ⟨0x0#7, 0x10#5, 0x0#5, 0x0#3, 0x0#5, 0xf#7⟩

/-- The fields of FENCE_I. -/
def fieldsFenceI (rd : BitVec 5) (rs1 : BitVec 5) (imm : BitVec 12) : Fields :=
  ⟨(imm.extractLsb' 5 7), (imm.extractLsb' 0 5), rs1, 0x1#3, rd, 0xf#7⟩

/-- The fields of ECALL. -/
def fieldsEcall : Fields :=
  ⟨0x0#7, 0x0#5, 0x0#5, 0x0#3, 0x0#5, 0x73#7⟩

/-- The fields of EBREAK. -/
def fieldsEbreak : Fields :=
  ⟨0x0#7, 0x1#5, 0x0#5, 0x0#3, 0x0#5, 0x73#7⟩

/-- The fields of MUL. -/
def fieldsMul (rd : BitVec 5) (rs1 : BitVec 5) (rs2 : BitVec 5) : Fields :=
  ⟨0x1#7, rs2, rs1, 0x0#3, rd, 0x33#7⟩

/-- The fields of MULH. -/
def fieldsMulh (rd : BitVec 5) (rs1 : BitVec 5) (rs2 : BitVec 5) : Fields :=
  ⟨0x1#7, rs2, rs1, 0x1#3, rd, 0x33#7⟩

/-- The fields of MULHSU. -/
def fieldsMulhsu (rd : BitVec 5) (rs1 : BitVec 5) (rs2 : BitVec 5) : Fields :=
  ⟨0x1#7, rs2, rs1, 0x2#3, rd, 0x33#7⟩

/-- The fields of MULHU. -/
def fieldsMulhu (rd : BitVec 5) (rs1 : BitVec 5) (rs2 : BitVec 5) : Fields :=
  ⟨0x1#7, rs2, rs1, 0x3#3, rd, 0x33#7⟩

/-- The fields of DIV. -/
def fieldsDiv (rd : BitVec 5) (rs1 : BitVec 5) (rs2 : BitVec 5) : Fields :=
  ⟨0x1#7, rs2, rs1, 0x4#3, rd, 0x33#7⟩

/-- The fields of DIVU. -/
def fieldsDivu (rd : BitVec 5) (rs1 : BitVec 5) (rs2 : BitVec 5) : Fields :=
  ⟨0x1#7, rs2, rs1, 0x5#3, rd, 0x33#7⟩

/-- The fields of REM. -/
def fieldsRem (rd : BitVec 5) (rs1 : BitVec 5) (rs2 : BitVec 5) : Fields :=
  ⟨0x1#7, rs2, rs1, 0x6#3, rd, 0x33#7⟩

/-- The fields of REMU. -/
def fieldsRemu (rd : BitVec 5) (rs1 : BitVec 5) (rs2 : BitVec 5) : Fields :=
  ⟨0x1#7, rs2, rs1, 0x7#3, rd, 0x33#7⟩

/-- The fields of MULW. -/
def fieldsMulw (rd : BitVec 5) (rs1 : BitVec 5) (rs2 : BitVec 5) : Fields :=
  ⟨0x1#7, rs2, rs1, 0x0#3, rd, 0x3b#7⟩

/-- The fields of DIVW. -/
def fieldsDivw (rd : BitVec 5) (rs1 : BitVec 5) (rs2 : BitVec 5) : Fields :=
  ⟨0x1#7, rs2, rs1, 0x4#3, rd, 0x3b#7⟩

/-- The fields of DIVUW. -/
def fieldsDivuw (rd : BitVec 5) (rs1 : BitVec 5) (rs2 : BitVec 5) : Fields :=
  ⟨0x1#7, rs2, rs1, 0x5#3, rd, 0x3b#7⟩

/-- The fields of REMW. -/
def fieldsRemw (rd : BitVec 5) (rs1 : BitVec 5) (rs2 : BitVec 5) : Fields :=
  ⟨0x1#7, rs2, rs1, 0x6#3, rd, 0x3b#7⟩

/-- The fields of REMUW. -/
def fieldsRemuw (rd : BitVec 5) (rs1 : BitVec 5) (rs2 : BitVec 5) : Fields :=
  ⟨0x1#7, rs2, rs1, 0x7#3, rd, 0x3b#7⟩

/-- The fields of LR_W. -/
def fieldsLrW (rd : BitVec 5) (rs1 : BitVec 5) (rl : BitVec 1) (aq : BitVec 1) : Fields :=
  ⟨(0x2#5 ++ aq ++ rl), 0x0#5, rs1, 0x2#3, rd, 0x2f#7⟩

/-- The fields of LR_D. -/
def fieldsLrD (rd : BitVec 5) (rs1 : BitVec 5) (rl : BitVec 1) (aq : BitVec 1) : Fields :=
  ⟨(0x2#5 ++ aq ++ rl), 0x0#5, rs1, 0x3#3, rd, 0x2f#7⟩

/-- The fields of SC_W. -/
def fieldsScW (rd : BitVec 5) (rs1 : BitVec 5) (rs2 : BitVec 5) (rl : BitVec 1) (aq : BitVec 1) : Fields :=
  ⟨(0x3#5 ++ aq ++ rl), rs2, rs1, 0x2#3, rd, 0x2f#7⟩

/-- The fields of SC_D. -/
def fieldsScD (rd : BitVec 5) (rs1 : BitVec 5) (rs2 : BitVec 5) (rl : BitVec 1) (aq : BitVec 1) : Fields :=
  ⟨(0x3#5 ++ aq ++ rl), rs2, rs1, 0x3#3, rd, 0x2f#7⟩

/-- The fields of AMOSWAP_W. -/
def fieldsAmoswapW (rd : BitVec 5) (rs1 : BitVec 5) (rs2 : BitVec 5) (rl : BitVec 1) (aq : BitVec 1) : Fields :=
  ⟨(0x1#5 ++ aq ++ rl), rs2, rs1, 0x2#3, rd, 0x2f#7⟩

/-- The fields of AMOSWAP_D. -/
def fieldsAmoswapD (rd : BitVec 5) (rs1 : BitVec 5) (rs2 : BitVec 5) (rl : BitVec 1) (aq : BitVec 1) : Fields :=
  ⟨(0x1#5 ++ aq ++ rl), rs2, rs1, 0x3#3, rd, 0x2f#7⟩

/-- The fields of AMOADD_W. -/
def fieldsAmoaddW (rd : BitVec 5) (rs1 : BitVec 5) (rs2 : BitVec 5) (rl : BitVec 1) (aq : BitVec 1) : Fields :=
  ⟨(0x0#5 ++ aq ++ rl), rs2, rs1, 0x2#3, rd, 0x2f#7⟩

/-- The fields of AMOADD_D. -/
def fieldsAmoaddD (rd : BitVec 5) (rs1 : BitVec 5) (rs2 : BitVec 5) (rl : BitVec 1) (aq : BitVec 1) : Fields :=
  ⟨(0x0#5 ++ aq ++ rl), rs2, rs1, 0x3#3, rd, 0x2f#7⟩

/-- The fields of AMOXOR_W. -/
def fieldsAmoxorW (rd : BitVec 5) (rs1 : BitVec 5) (rs2 : BitVec 5) (rl : BitVec 1) (aq : BitVec 1) : Fields :=
  ⟨(0x4#5 ++ aq ++ rl), rs2, rs1, 0x2#3, rd, 0x2f#7⟩

/-- The fields of AMOXOR_D. -/
def fieldsAmoxorD (rd : BitVec 5) (rs1 : BitVec 5) (rs2 : BitVec 5) (rl : BitVec 1) (aq : BitVec 1) : Fields :=
  ⟨(0x4#5 ++ aq ++ rl), rs2, rs1, 0x3#3, rd, 0x2f#7⟩

/-- The fields of AMOAND_W. -/
def fieldsAmoandW (rd : BitVec 5) (rs1 : BitVec 5) (rs2 : BitVec 5) (rl : BitVec 1) (aq : BitVec 1) : Fields :=
  ⟨(0xc#5 ++ aq ++ rl), rs2, rs1, 0x2#3, rd, 0x2f#7⟩

/-- The fields of AMOAND_D. -/
def fieldsAmoandD (rd : BitVec 5) (rs1 : BitVec 5) (rs2 : BitVec 5) (rl : BitVec 1) (aq : BitVec 1) : Fields :=
  ⟨(0xc#5 ++ aq ++ rl), rs2, rs1, 0x3#3, rd, 0x2f#7⟩

/-- The fields of AMOOR_W. -/
def fieldsAmoorW (rd : BitVec 5) (rs1 : BitVec 5) (rs2 : BitVec 5) (rl : BitVec 1) (aq : BitVec 1) : Fields :=
  ⟨(0x8#5 ++ aq ++ rl), rs2, rs1, 0x2#3, rd, 0x2f#7⟩

/-- The fields of AMOOR_D. -/
def fieldsAmoorD (rd : BitVec 5) (rs1 : BitVec 5) (rs2 : BitVec 5) (rl : BitVec 1) (aq : BitVec 1) : Fields :=
  ⟨(0x8#5 ++ aq ++ rl), rs2, rs1, 0x3#3, rd, 0x2f#7⟩

/-- The fields of AMOMIN_W. -/
def fieldsAmominW (rd : BitVec 5) (rs1 : BitVec 5) (rs2 : BitVec 5) (rl : BitVec 1) (aq : BitVec 1) : Fields :=
  ⟨(0x10#5 ++ aq ++ rl), rs2, rs1, 0x2#3, rd, 0x2f#7⟩

/-- The fields of AMOMIN_D. -/
def fieldsAmominD (rd : BitVec 5) (rs1 : BitVec 5) (rs2 : BitVec 5) (rl : BitVec 1) (aq : BitVec 1) : Fields :=
  ⟨(0x10#5 ++ aq ++ rl), rs2, rs1, 0x3#3, rd, 0x2f#7⟩

/-- The fields of AMOMAX_W. -/
def fieldsAmomaxW (rd : BitVec 5) (rs1 : BitVec 5) (rs2 : BitVec 5) (rl : BitVec 1) (aq : BitVec 1) : Fields :=
  ⟨(0x14#5 ++ aq ++ rl), rs2, rs1, 0x2#3, rd, 0x2f#7⟩

/-- The fields of AMOMAX_D. -/
def fieldsAmomaxD (rd : BitVec 5) (rs1 : BitVec 5) (rs2 : BitVec 5) (rl : BitVec 1) (aq : BitVec 1) : Fields :=
  ⟨(0x14#5 ++ aq ++ rl), rs2, rs1, 0x3#3, rd, 0x2f#7⟩

/-- The fields of AMOMINU_W. -/
def fieldsAmominuW (rd : BitVec 5) (rs1 : BitVec 5) (rs2 : BitVec 5) (rl : BitVec 1) (aq : BitVec 1) : Fields :=
  ⟨(0x18#5 ++ aq ++ rl), rs2, rs1, 0x2#3, rd, 0x2f#7⟩

/-- The fields of AMOMINU_D. -/
def fieldsAmominuD (rd : BitVec 5) (rs1 : BitVec 5) (rs2 : BitVec 5) (rl : BitVec 1) (aq : BitVec 1) : Fields :=
  ⟨(0x18#5 ++ aq ++ rl), rs2, rs1, 0x3#3, rd, 0x2f#7⟩

/-- The fields of AMOMAXU_W. -/
def fieldsAmomaxuW (rd : BitVec 5) (rs1 : BitVec 5) (rs2 : BitVec 5) (rl : BitVec 1) (aq : BitVec 1) : Fields :=
  ⟨(0x1c#5 ++ aq ++ rl), rs2, rs1, 0x2#3, rd, 0x2f#7⟩

/-- The fields of AMOMAXU_D. -/
def fieldsAmomaxuD (rd : BitVec 5) (rs1 : BitVec 5) (rs2 : BitVec 5) (rl : BitVec 1) (aq : BitVec 1) : Fields :=
  ⟨(0x1c#5 ++ aq ++ rl), rs2, rs1, 0x3#3, rd, 0x2f#7⟩

/-- The fields of FLW. -/
def fieldsFlw (rd : BitVec 5) (rs1 : BitVec 5) (imm : BitVec 12) : Fields :=
  ⟨(imm.extractLsb' 5 7), (imm.extractLsb' 0 5), rs1, 0x2#3, rd, 0x7#7⟩

/-- The fields of FSW. -/
def fieldsFsw (rs1 : BitVec 5) (rs2 : BitVec 5) (imm : BitVec 12) : Fields :=
  ⟨(imm.extractLsb' 5 7), rs2, rs1, 0x2#3, (imm.extractLsb' 0 5), 0x27#7⟩

/-- The fields of FMADD_S. -/
def fieldsFmaddS (rd : BitVec 5) (rm : BitVec 3) (rs1 : BitVec 5) (rs2 : BitVec 5) (rs3 : BitVec 5) : Fields :=
  ⟨(rs3 ++ 0x0#2), rs2, rs1, rm, rd, 0x43#7⟩

/-- The fields of FMSUB_S. -/
def fieldsFmsubS (rd : BitVec 5) (rm : BitVec 3) (rs1 : BitVec 5) (rs2 : BitVec 5) (rs3 : BitVec 5) : Fields :=
  ⟨(rs3 ++ 0x0#2), rs2, rs1, rm, rd, 0x47#7⟩

/-- The fields of FNMSUB_S. -/
def fieldsFnmsubS (rd : BitVec 5) (rm : BitVec 3) (rs1 : BitVec 5) (rs2 : BitVec 5) (rs3 : BitVec 5) : Fields :=
  ⟨(rs3 ++ 0x0#2), rs2, rs1, rm, rd, 0x4b#7⟩

/-- The fields of FNMADD_S. -/
def fieldsFnmaddS (rd : BitVec 5) (rm : BitVec 3) (rs1 : BitVec 5) (rs2 : BitVec 5) (rs3 : BitVec 5) : Fields :=
  ⟨(rs3 ++ 0x0#2), rs2, rs1, rm, rd, 0x4f#7⟩

/-- The fields of FADD_S. -/
def fieldsFaddS (rd : BitVec 5) (rm : BitVec 3) (rs1 : BitVec 5) (rs2 : BitVec 5) : Fields :=
  ⟨0x0#7, rs2, rs1, rm, rd, 0x53#7⟩

/-- The fields of FSUB_S. -/
def fieldsFsubS (rd : BitVec 5) (rm : BitVec 3) (rs1 : BitVec 5) (rs2 : BitVec 5) : Fields :=
  ⟨0x4#7, rs2, rs1, rm, rd, 0x53#7⟩

/-- The fields of FMUL_S. -/
def fieldsFmulS (rd : BitVec 5) (rm : BitVec 3) (rs1 : BitVec 5) (rs2 : BitVec 5) : Fields :=
  ⟨0x8#7, rs2, rs1, rm, rd, 0x53#7⟩

/-- The fields of FDIV_S. -/
def fieldsFdivS (rd : BitVec 5) (rm : BitVec 3) (rs1 : BitVec 5) (rs2 : BitVec 5) : Fields :=
  ⟨0xc#7, rs2, rs1, rm, rd, 0x53#7⟩

/-- The fields of FSQRT_S. -/
def fieldsFsqrtS (rd : BitVec 5) (rm : BitVec 3) (rs1 : BitVec 5) : Fields :=
  ⟨0x2c#7, 0x0#5, rs1, rm, rd, 0x53#7⟩

/-- The fields of FSGNJ_S. -/
def fieldsFsgnjS (rd : BitVec 5) (rs1 : BitVec 5) (rs2 : BitVec 5) : Fields :=
  ⟨0x10#7, rs2, rs1, 0x0#3, rd, 0x53#7⟩

/-- The fields of FSGNJN_S. -/
def fieldsFsgnjnS (rd : BitVec 5) (rs1 : BitVec 5) (rs2 : BitVec 5) : Fields :=
  ⟨0x10#7, rs2, rs1, 0x1#3, rd, 0x53#7⟩

/-- The fields of FSGNJX_S. -/
def fieldsFsgnjxS (rd : BitVec 5) (rs1 : BitVec 5) (rs2 : BitVec 5) : Fields :=
  ⟨0x10#7, rs2, rs1, 0x2#3, rd, 0x53#7⟩

/-- The fields of FMIN_S. -/
def fieldsFminS (rd : BitVec 5) (rs1 : BitVec 5) (rs2 : BitVec 5) : Fields :=
  ⟨0x14#7, rs2, rs1, 0x0#3, rd, 0x53#7⟩

/-- The fields of FMAX_S. -/
def fieldsFmaxS (rd : BitVec 5) (rs1 : BitVec 5) (rs2 : BitVec 5) : Fields :=
  ⟨0x14#7, rs2, rs1, 0x1#3, rd, 0x53#7⟩

/-- The fields of FCVT_W_S. -/
def fieldsFcvtWS (rd : BitVec 5) (rm : BitVec 3) (rs1 : BitVec 5) : Fields :=
  ⟨0x60#7, 0x0#5, rs1, rm, rd, 0x53#7⟩

/-- The fields of FCVT_WU_S. -/
def fieldsFcvtWuS (rd : BitVec 5) (rm : BitVec 3) (rs1 : BitVec 5) : Fields :=
  ⟨0x60#7, 0x1#5, rs1, rm, rd, 0x53#7⟩

/-- The fields of FCVT_L_S. -/
def fieldsFcvtLS (rd : BitVec 5) (rm : BitVec 3) (rs1 : BitVec 5) : Fields :=
  ⟨0x60#7, 0x2#5, rs1, rm, rd, 0x53#7⟩

/-- The fields of FCVT_LU_S. -/
def fieldsFcvtLuS (rd : BitVec 5) (rm : BitVec 3) (rs1 : BitVec 5) : Fields :=
  ⟨0x60#7, 0x3#5, rs1, rm, rd, 0x53#7⟩

/-- The fields of FCVT_S_W. -/
def fieldsFcvtSW (rd : BitVec 5) (rm : BitVec 3) (rs1 : BitVec 5) : Fields :=
  ⟨0x68#7, 0x0#5, rs1, rm, rd, 0x53#7⟩

/-- The fields of FCVT_S_WU. -/
def fieldsFcvtSWu (rd : BitVec 5) (rm : BitVec 3) (rs1 : BitVec 5) : Fields :=
  ⟨0x68#7, 0x1#5, rs1, rm, rd, 0x53#7⟩

/-- The fields of FCVT_S_L. -/
def fieldsFcvtSL (rd : BitVec 5) (rm : BitVec 3) (rs1 : BitVec 5) : Fields :=
  ⟨0x68#7, 0x2#5, rs1, rm, rd, 0x53#7⟩

/-- The fields of FCVT_S_LU. -/
def fieldsFcvtSLu (rd : BitVec 5) (rm : BitVec 3) (rs1 : BitVec 5) : Fields :=
  ⟨0x68#7, 0x3#5, rs1, rm, rd, 0x53#7⟩

/-- The fields of FMV_X_W. -/
def fieldsFmvXW (rd : BitVec 5) (rs1 : BitVec 5) : Fields :=
  ⟨0x70#7, 0x0#5, rs1, 0x0#3, rd, 0x53#7⟩

/-- The fields of FCLASS_S. -/
def fieldsFclassS (rd : BitVec 5) (rs1 : BitVec 5) : Fields :=
  ⟨0x70#7, 0x0#5, rs1, 0x1#3, rd, 0x53#7⟩

/-- The fields of FEQ_S. -/
def fieldsFeqS (rd : BitVec 5) (rs1 : BitVec 5) (rs2 : BitVec 5) : Fields :=
  ⟨0x50#7, rs2, rs1, 0x2#3, rd, 0x53#7⟩

/-- The fields of FLT_S. -/
def fieldsFltS (rd : BitVec 5) (rs1 : BitVec 5) (rs2 : BitVec 5) : Fields :=
  ⟨0x50#7, rs2, rs1, 0x1#3, rd, 0x53#7⟩

/-- The fields of FLE_S. -/
def fieldsFleS (rd : BitVec 5) (rs1 : BitVec 5) (rs2 : BitVec 5) : Fields :=
  ⟨0x50#7, rs2, rs1, 0x0#3, rd, 0x53#7⟩

/-- The fields of FMV_W_X. -/
def fieldsFmvWX (rd : BitVec 5) (rs1 : BitVec 5) : Fields :=
  ⟨0x78#7, 0x0#5, rs1, 0x0#3, rd, 0x53#7⟩

/-- The fields of CSRRW. -/
def fieldsCsrrw (rd : BitVec 5) (rs1 : BitVec 5) (csr : BitVec 12) : Fields :=
  ⟨(csr.extractLsb' 5 7), (csr.extractLsb' 0 5), rs1, 0x1#3, rd, 0x73#7⟩

/-- The fields of CSRRS. -/
def fieldsCsrrs (rd : BitVec 5) (rs1 : BitVec 5) (csr : BitVec 12) : Fields :=
  ⟨(csr.extractLsb' 5 7), (csr.extractLsb' 0 5), rs1, 0x2#3, rd, 0x73#7⟩

/-- The fields of CSRRC. -/
def fieldsCsrrc (rd : BitVec 5) (rs1 : BitVec 5) (csr : BitVec 12) : Fields :=
  ⟨(csr.extractLsb' 5 7), (csr.extractLsb' 0 5), rs1, 0x3#3, rd, 0x73#7⟩

/-- The fields of CSRRWI. -/
def fieldsCsrrwi (rd : BitVec 5) (u : BitVec 5) (csr : BitVec 12) : Fields :=
  ⟨(csr.extractLsb' 5 7), (csr.extractLsb' 0 5), u, 0x5#3, rd, 0x73#7⟩

/-- The fields of CSRRSI. -/
def fieldsCsrrsi (rd : BitVec 5) (u : BitVec 5) (csr : BitVec 12) : Fields :=
  ⟨(csr.extractLsb' 5 7), (csr.extractLsb' 0 5), u, 0x6#3, rd, 0x73#7⟩

/-- The fields of CSRRCI. -/
def fieldsCsrrci (rd : BitVec 5) (u : BitVec 5) (csr : BitVec 12) : Fields :=
  ⟨(csr.extractLsb' 5 7), (csr.extractLsb' 0 5), u, 0x7#3, rd, 0x73#7⟩

/-- The fields of SRET. -/
def fieldsSret : Fields :=
  ⟨0x8#7, 0x2#5, 0x0#5, 0x0#3, 0x0#5, 0x73#7⟩

/-- The fields of MRET. -/
def fieldsMret : Fields :=
  ⟨0x18#7, 0x2#5, 0x0#5, 0x0#3, 0x0#5, 0x73#7⟩

/-- The fields of WFI. -/
def fieldsWfi : Fields :=
  ⟨0x8#7, 0x5#5, 0x0#5, 0x0#3, 0x0#5, 0x73#7⟩

/-- The fields of SFENCE_VMA. -/
def fieldsSfenceVma (rs1 : BitVec 5) (rs2 : BitVec 5) : Fields :=
  ⟨0x9#7, rs2, rs1, 0x0#3, 0x0#5, 0x73#7⟩

/-- The fields of VLOOP. -/
def fieldsVloop (xc : BitVec 5) (slot : BitVec 2) (off : BitVec 12) : Fields :=
  ⟨((off.extractLsb' 11 1) ++ (off.extractLsb' 4 6)), (0x0#3 ++ slot), xc, 0x0#3, ((off.extractLsb' 0 4) ++ (off.extractLsb' 10 1)), 0xb#7⟩

/-- The fields of VLOOPCFG. -/
def fieldsVloopcfg (slot : BitVec 2) (rs1 : BitVec 5) : Fields :=
  ⟨0x0#7, 0x0#5, rs1, 0x1#3, (0x0#3 ++ slot), 0xb#7⟩

/-- The fields of VCFG. -/
def fieldsVcfg (rd : BitVec 5) (rs1 : BitVec 5) : Fields :=
  ⟨0x1#7, 0x0#5, rs1, 0x1#3, rd, 0xb#7⟩

/-- The fields of VSETLEN. -/
def fieldsVsetlen (rd : BitVec 5) (rs1 : BitVec 5) (ty : BitVec 4) : Fields :=
  ⟨0x2#7, (0x0#1 ++ ty), rs1, 0x1#3, rd, 0xb#7⟩

/-- The fields of LYCFG. -/
def fieldsLycfg (ly : BitVec 2) (rs1 : BitVec 5) : Fields :=
  ⟨0x3#7, 0x0#5, rs1, 0x1#3, (0x0#3 ++ ly), 0xb#7⟩

/-- The fields of LYCLR. -/
def fieldsLyclr (ly : BitVec 2) : Fields :=
  ⟨0x4#7, 0x0#5, 0x0#5, 0x1#3, (0x0#3 ++ ly), 0xb#7⟩

/-- The fields of LYSAVE. -/
def fieldsLysave (d : BitVec 5) (ly : BitVec 2) : Fields :=
  ⟨0x5#7, (0x0#3 ++ ly), 0x0#5, 0x1#3, d, 0xb#7⟩

/-- The fields of LYLOAD. -/
def fieldsLyload (ly : BitVec 2) (v1 : BitVec 5) : Fields :=
  ⟨0x6#7, 0x0#5, v1, 0x1#3, (0x0#3 ++ ly), 0xb#7⟩

/-- The fields of FLSC. -/
def fieldsFlsc (rd : BitVec 5) (rs1 : BitVec 5) (sf : BitVec 1) : Fields :=
  ⟨0x7#7, (0x0#4 ++ sf), rs1, 0x1#3, rd, 0xb#7⟩

/-- The fields of LDFE. -/
def fieldsLdfe (rd : BitVec 5) (rs1 : BitVec 5) : Fields :=
  ⟨0x0#7, 0x0#5, rs1, 0x2#3, rd, 0xb#7⟩

/-- The fields of STFE. -/
def fieldsStfe (rs1 : BitVec 5) (rs2 : BitVec 5) : Fields :=
  ⟨0x1#7, rs2, rs1, 0x2#3, 0x0#5, 0xb#7⟩

/-- The fields of RINGSET. -/
def fieldsRingset (ring : BitVec 3) (rs1 : BitVec 5) : Fields :=
  ⟨0x2#7, 0x0#5, rs1, 0x2#3, (0x0#2 ++ ring), 0xb#7⟩

/-- The fields of RINGSET_WITHDRAW. -/
def fieldsRingsetWithdraw (ring : BitVec 3) : Fields :=
  ⟨0x2#7, 0x0#5, 0x0#5, 0x2#3, (0x0#2 ++ ring), 0xb#7⟩

/-- The fields of RINGACQ. -/
def fieldsRingacq (rd : BitVec 5) (rs1 : BitVec 5) (ring : BitVec 3) : Fields :=
  ⟨0x3#7, (0x0#2 ++ ring), rs1, 0x2#3, rd, 0xb#7⟩

/-- The fields of RINGREL. -/
def fieldsRingrel (rd : BitVec 5) (ring : BitVec 3) : Fields :=
  ⟨0x4#7, (0x0#2 ++ ring), 0x0#5, 0x2#3, rd, 0xb#7⟩

/-- The fields of RINGEXP. -/
def fieldsRingexp (ring : BitVec 3) (rs1 : BitVec 5) : Fields :=
  ⟨0x5#7, 0x0#5, rs1, 0x2#3, (0x0#2 ++ ring), 0xb#7⟩

/-- The fields of RINGTST. -/
def fieldsRingtst (rd : BitVec 5) (rs1 : BitVec 5) (ring : BitVec 3) : Fields :=
  ⟨0x6#7, (0x0#2 ++ ring), rs1, 0x2#3, rd, 0xb#7⟩

/-- The fields of CPSET. -/
def fieldsCpset (ch : BitVec 2) (rs1 : BitVec 5) (sel : BitVec 5) : Fields :=
  ⟨0x7#7, sel, rs1, 0x2#3, (0x0#3 ++ ch), 0xb#7⟩

/-- The fields of CPLAUNCH. -/
def fieldsCplaunch (rd : BitVec 5) (ch : BitVec 2) : Fields :=
  ⟨0x8#7, (0x0#3 ++ ch), 0x0#5, 0x2#3, rd, 0xb#7⟩

/-- The fields of CPSTAT. -/
def fieldsCpstat (rd : BitVec 5) (ch : BitVec 2) : Fields :=
  ⟨0x9#7, (0x0#3 ++ ch), 0x0#5, 0x2#3, rd, 0xb#7⟩

/-- The fields of WAITC. -/
def fieldsWaitc (na : BitVec 3) (nb : BitVec 3) (nc : BitVec 3) (nd : BitVec 3) : Fields :=
  ⟨0xa#7, (na ++ (nb.extractLsb' 1 2)), ((nb.extractLsb' 0 1) ++ nc ++ (nd.extractLsb' 2 1)), 0x2#3, (0x0#3 ++ (nd.extractLsb' 0 2)), 0xb#7⟩

/-- The fields of STRMOPEN. -/
def fieldsStrmopen (rd : BitVec 5) (rs1 : BitVec 5) : Fields :=
  ⟨0xb#7, 0x0#5, rs1, 0x2#3, rd, 0xb#7⟩

/-- The fields of STRMCLOSE. -/
def fieldsStrmclose (rs1 : BitVec 5) : Fields :=
  ⟨0xc#7, 0x0#5, rs1, 0x2#3, 0x0#5, 0xb#7⟩

/-- The fields of TACK. -/
def fieldsTack (rd : BitVec 5) (rs1 : BitVec 5) (rs2 : BitVec 5) : Fields :=
  ⟨0xd#7, rs2, rs1, 0x2#3, rd, 0xb#7⟩

/-- The fields of QPUSH. -/
def fieldsQpush (rd : BitVec 5) (rs1 : BitVec 5) (rs2 : BitVec 5) : Fields :=
  ⟨0x0#7, rs2, rs1, 0x3#3, rd, 0xb#7⟩

/-- The fields of QPOP. -/
def fieldsQpop (rd : BitVec 5) (rs1 : BitVec 5) (rs2 : BitVec 5) : Fields :=
  ⟨0x1#7, rs2, rs1, 0x3#3, rd, 0xb#7⟩

/-- The fields of EXIT. -/
def fieldsExit (rs1 : BitVec 5) (cnt : BitVec 5) : Fields :=
  ⟨0x2#7, cnt, rs1, 0x3#3, 0x0#5, 0xb#7⟩

/-- The fields of YIELD. -/
def fieldsYield : Fields :=
  ⟨0x3#7, 0x0#5, 0x0#5, 0x3#3, 0x0#5, 0xb#7⟩

/-- The fields of WDQ. -/
def fieldsWdq (rs1 : BitVec 5) (rs2 : BitVec 5) : Fields :=
  ⟨0x4#7, rs2, rs1, 0x3#3, 0x0#5, 0xb#7⟩

/-- The fields of TCOMMIT. -/
def fieldsTcommit (rs1 : BitVec 5) (rs2 : BitVec 5) : Fields :=
  ⟨0x5#7, rs2, rs1, 0x3#3, 0x0#5, 0xb#7⟩

/-- The fields of TSKIP. -/
def fieldsTskip (rs1 : BitVec 5) : Fields :=
  ⟨0x6#7, 0x0#5, rs1, 0x3#3, 0x0#5, 0xb#7⟩

/-- The fields of TCFG. -/
def fieldsTcfg (rs1 : BitVec 5) (rs2 : BitVec 5) : Fields :=
  ⟨0x7#7, rs2, rs1, 0x3#3, 0x0#5, 0xb#7⟩

/-- The fields of GANGARM. -/
def fieldsGangarm (rs1 : BitVec 5) (rs2 : BitVec 5) : Fields :=
  ⟨0x8#7, rs2, rs1, 0x3#3, 0x0#5, 0xb#7⟩

/-- The fields of FENCE_SV. -/
def fieldsFenceSv (scope : BitVec 3) : Fields :=
  ⟨(0x0#4 ++ scope), 0x0#5, 0x0#5, 0x4#3, 0x0#5, 0xb#7⟩

/-- The fields of FENCE_VS. -/
def fieldsFenceVs (scope : BitVec 3) : Fields :=
  ⟨(0x1#4 ++ scope), 0x0#5, 0x0#5, 0x4#3, 0x0#5, 0xb#7⟩

/-- The fields of FENCE_VV. -/
def fieldsFenceVv (scope : BitVec 3) : Fields :=
  ⟨(0x2#4 ++ scope), 0x0#5, 0x0#5, 0x4#3, 0x0#5, 0xb#7⟩

/-- The fields of AMOADDF. -/
def fieldsAmoaddf (rd : BitVec 5) (rs1 : BitVec 5) (rs2 : BitVec 5) (scope : BitVec 3) : Fields :=
  ⟨(0x3#4 ++ scope), rs2, rs1, 0x4#3, rd, 0xb#7⟩

/-- The fields of AMOMAXF. -/
def fieldsAmomaxf (rd : BitVec 5) (rs1 : BitVec 5) (rs2 : BitVec 5) (scope : BitVec 3) : Fields :=
  ⟨(0x4#4 ++ scope), rs2, rs1, 0x4#3, rd, 0xb#7⟩

/-- The fields of BWCFG. -/
def fieldsBwcfg (rs1 : BitVec 5) (wire : BitVec 3) : Fields :=
  ⟨(0x5#4 ++ wire), 0x0#5, rs1, 0x4#3, 0x0#5, 0xb#7⟩

/-- The fields of BWARR. -/
def fieldsBwarr (rs1 : BitVec 5) (wire : BitVec 3) : Fields :=
  ⟨(0x6#4 ++ wire), 0x0#5, rs1, 0x4#3, 0x0#5, 0xb#7⟩

/-- The fields of BWTST. -/
def fieldsBwtst (rd : BitVec 5) (wire : BitVec 3) : Fields :=
  ⟨(0x7#4 ++ wire), 0x0#5, 0x0#5, 0x4#3, rd, 0xb#7⟩

/-- The fields of WEV. -/
def fieldsWev (rd : BitVec 5) (rs1 : BitVec 5) : Fields :=
  ⟨0x40#7, 0x0#5, rs1, 0x4#3, rd, 0xb#7⟩

/-- The fields of UPRET. -/
def fieldsUpret : Fields :=
  ⟨0x0#7, 0x0#5, 0x0#5, 0x5#3, 0x0#5, 0xb#7⟩

/-- The fields of FQPOP. -/
def fieldsFqpop (rd : BitVec 5) (rs1 : BitVec 5) : Fields :=
  ⟨0x1#7, 0x0#5, rs1, 0x5#3, rd, 0xb#7⟩

/-- The fields of VSTUPD. -/
def fieldsVstupd (rs1 : BitVec 5) (rs2 : BitVec 5) : Fields :=
  ⟨0x2#7, rs2, rs1, 0x5#3, 0x0#5, 0xb#7⟩

/-- The fields of KILL. -/
def fieldsKill (rs1 : BitVec 5) : Fields :=
  ⟨0x3#7, 0x0#5, rs1, 0x5#3, 0x0#5, 0xb#7⟩

/-- The fields of ISLCTL. -/
def fieldsIslctl (rd : BitVec 5) (rs1 : BitVec 5) (rs2 : BitVec 5) : Fields :=
  ⟨0x4#7, rs2, rs1, 0x5#3, rd, 0xb#7⟩

/-- The fields of VSAVE. -/
def fieldsVsave (rs1 : BitVec 5) : Fields :=
  ⟨0x5#7, 0x0#5, rs1, 0x5#3, 0x0#5, 0xb#7⟩

/-- The fields of VRESTORE. -/
def fieldsVrestore (rs1 : BitVec 5) : Fields :=
  ⟨0x6#7, 0x0#5, rs1, 0x5#3, 0x0#5, 0xb#7⟩

/-- The fields of WAYSET. -/
def fieldsWayset (rs1 : BitVec 5) (rs2 : BitVec 5) : Fields :=
  ⟨0x7#7, rs2, rs1, 0x5#3, 0x0#5, 0xb#7⟩

/-- The fields of VADD. -/
def fieldsVadd (d : BitVec 5) (k : BitVec 3) (v1 : BitVec 5) (v2 : BitVec 5) (s : BitVec 1) : Fields :=
  ⟨(0x0#6 ++ s), v2, v1, k, d, 0x2b#7⟩

/-- The fields of VSUB. -/
def fieldsVsub (d : BitVec 5) (k : BitVec 3) (v1 : BitVec 5) (v2 : BitVec 5) (s : BitVec 1) : Fields :=
  ⟨(0x1#6 ++ s), v2, v1, k, d, 0x2b#7⟩

/-- The fields of VMUL. -/
def fieldsVmul (d : BitVec 5) (k : BitVec 3) (v1 : BitVec 5) (v2 : BitVec 5) (s : BitVec 1) : Fields :=
  ⟨(0x2#6 ++ s), v2, v1, k, d, 0x2b#7⟩

/-- The fields of VMULH. -/
def fieldsVmulh (d : BitVec 5) (k : BitVec 3) (v1 : BitVec 5) (v2 : BitVec 5) (s : BitVec 1) : Fields :=
  ⟨(0x3#6 ++ s), v2, v1, k, d, 0x2b#7⟩

/-- The fields of VMULHU. -/
def fieldsVmulhu (d : BitVec 5) (k : BitVec 3) (v1 : BitVec 5) (v2 : BitVec 5) (s : BitVec 1) : Fields :=
  ⟨(0x4#6 ++ s), v2, v1, k, d, 0x2b#7⟩

/-- The fields of VMACC. -/
def fieldsVmacc (d : BitVec 5) (k : BitVec 3) (v1 : BitVec 5) (v2 : BitVec 5) (s : BitVec 1) : Fields :=
  ⟨(0x5#6 ++ s), v2, v1, k, d, 0x2b#7⟩

/-- The fields of VAND. -/
def fieldsVand (d : BitVec 5) (k : BitVec 3) (v1 : BitVec 5) (v2 : BitVec 5) (s : BitVec 1) : Fields :=
  ⟨(0x6#6 ++ s), v2, v1, k, d, 0x2b#7⟩

/-- The fields of VOR. -/
def fieldsVor (d : BitVec 5) (k : BitVec 3) (v1 : BitVec 5) (v2 : BitVec 5) (s : BitVec 1) : Fields :=
  ⟨(0x7#6 ++ s), v2, v1, k, d, 0x2b#7⟩

/-- The fields of VXOR. -/
def fieldsVxor (d : BitVec 5) (k : BitVec 3) (v1 : BitVec 5) (v2 : BitVec 5) (s : BitVec 1) : Fields :=
  ⟨(0x8#6 ++ s), v2, v1, k, d, 0x2b#7⟩

/-- The fields of VSLL. -/
def fieldsVsll (d : BitVec 5) (k : BitVec 3) (v1 : BitVec 5) (v2 : BitVec 5) (s : BitVec 1) : Fields :=
  ⟨(0x9#6 ++ s), v2, v1, k, d, 0x2b#7⟩

/-- The fields of VSRL. -/
def fieldsVsrl (d : BitVec 5) (k : BitVec 3) (v1 : BitVec 5) (v2 : BitVec 5) (s : BitVec 1) : Fields :=
  ⟨(0xa#6 ++ s), v2, v1, k, d, 0x2b#7⟩

/-- The fields of VSRA. -/
def fieldsVsra (d : BitVec 5) (k : BitVec 3) (v1 : BitVec 5) (v2 : BitVec 5) (s : BitVec 1) : Fields :=
  ⟨(0xb#6 ++ s), v2, v1, k, d, 0x2b#7⟩

/-- The fields of VMIN. -/
def fieldsVmin (d : BitVec 5) (k : BitVec 3) (v1 : BitVec 5) (v2 : BitVec 5) (s : BitVec 1) : Fields :=
  ⟨(0xc#6 ++ s), v2, v1, k, d, 0x2b#7⟩

/-- The fields of VMINU. -/
def fieldsVminu (d : BitVec 5) (k : BitVec 3) (v1 : BitVec 5) (v2 : BitVec 5) (s : BitVec 1) : Fields :=
  ⟨(0xd#6 ++ s), v2, v1, k, d, 0x2b#7⟩

/-- The fields of VMAX. -/
def fieldsVmax (d : BitVec 5) (k : BitVec 3) (v1 : BitVec 5) (v2 : BitVec 5) (s : BitVec 1) : Fields :=
  ⟨(0xe#6 ++ s), v2, v1, k, d, 0x2b#7⟩

/-- The fields of VMAXU. -/
def fieldsVmaxu (d : BitVec 5) (k : BitVec 3) (v1 : BitVec 5) (v2 : BitVec 5) (s : BitVec 1) : Fields :=
  ⟨(0xf#6 ++ s), v2, v1, k, d, 0x2b#7⟩

/-- The fields of VSEQ. -/
def fieldsVseq (d : BitVec 3) (k : BitVec 3) (v1 : BitVec 5) (v2 : BitVec 5) (s : BitVec 1) : Fields :=
  ⟨(0x10#6 ++ s), v2, v1, k, (0x0#2 ++ d), 0x2b#7⟩

/-- The fields of VSNE. -/
def fieldsVsne (d : BitVec 3) (k : BitVec 3) (v1 : BitVec 5) (v2 : BitVec 5) (s : BitVec 1) : Fields :=
  ⟨(0x11#6 ++ s), v2, v1, k, (0x0#2 ++ d), 0x2b#7⟩

/-- The fields of VSLT. -/
def fieldsVslt (d : BitVec 3) (k : BitVec 3) (v1 : BitVec 5) (v2 : BitVec 5) (s : BitVec 1) : Fields :=
  ⟨(0x12#6 ++ s), v2, v1, k, (0x0#2 ++ d), 0x2b#7⟩

/-- The fields of VSLTU. -/
def fieldsVsltu (d : BitVec 3) (k : BitVec 3) (v1 : BitVec 5) (v2 : BitVec 5) (s : BitVec 1) : Fields :=
  ⟨(0x13#6 ++ s), v2, v1, k, (0x0#2 ++ d), 0x2b#7⟩

/-- The fields of VSLE. -/
def fieldsVsle (d : BitVec 3) (k : BitVec 3) (v1 : BitVec 5) (v2 : BitVec 5) (s : BitVec 1) : Fields :=
  ⟨(0x14#6 ++ s), v2, v1, k, (0x0#2 ++ d), 0x2b#7⟩

/-- The fields of VSLEU. -/
def fieldsVsleu (d : BitVec 3) (k : BitVec 3) (v1 : BitVec 5) (v2 : BitVec 5) (s : BitVec 1) : Fields :=
  ⟨(0x15#6 ++ s), v2, v1, k, (0x0#2 ++ d), 0x2b#7⟩

/-- The fields of VFADD. -/
def fieldsVfadd (d : BitVec 5) (k : BitVec 3) (v1 : BitVec 5) (v2 : BitVec 5) (s : BitVec 1) : Fields :=
  ⟨(0x16#6 ++ s), v2, v1, k, d, 0x2b#7⟩

/-- The fields of VFSUB. -/
def fieldsVfsub (d : BitVec 5) (k : BitVec 3) (v1 : BitVec 5) (v2 : BitVec 5) (s : BitVec 1) : Fields :=
  ⟨(0x17#6 ++ s), v2, v1, k, d, 0x2b#7⟩

/-- The fields of VFMUL. -/
def fieldsVfmul (d : BitVec 5) (k : BitVec 3) (v1 : BitVec 5) (v2 : BitVec 5) (s : BitVec 1) : Fields :=
  ⟨(0x18#6 ++ s), v2, v1, k, d, 0x2b#7⟩

/-- The fields of VFDIV. -/
def fieldsVfdiv (d : BitVec 5) (k : BitVec 3) (v1 : BitVec 5) (v2 : BitVec 5) (s : BitVec 1) : Fields :=
  ⟨(0x19#6 ++ s), v2, v1, k, d, 0x2b#7⟩

/-- The fields of VFSQRT. -/
def fieldsVfsqrt (d : BitVec 5) (k : BitVec 3) (v2 : BitVec 5) : Fields :=
  ⟨0x34#7, v2, 0x0#5, k, d, 0x2b#7⟩

/-- The fields of VFMACC. -/
def fieldsVfmacc (d : BitVec 5) (k : BitVec 3) (v1 : BitVec 5) (v2 : BitVec 5) (s : BitVec 1) : Fields :=
  ⟨(0x1b#6 ++ s), v2, v1, k, d, 0x2b#7⟩

/-- The fields of VFNMACC. -/
def fieldsVfnmacc (d : BitVec 5) (k : BitVec 3) (v1 : BitVec 5) (v2 : BitVec 5) (s : BitVec 1) : Fields :=
  ⟨(0x1c#6 ++ s), v2, v1, k, d, 0x2b#7⟩

/-- The fields of VFMSAC. -/
def fieldsVfmsac (d : BitVec 5) (k : BitVec 3) (v1 : BitVec 5) (v2 : BitVec 5) (s : BitVec 1) : Fields :=
  ⟨(0x1d#6 ++ s), v2, v1, k, d, 0x2b#7⟩

/-- The fields of VFMIN. -/
def fieldsVfmin (d : BitVec 5) (k : BitVec 3) (v1 : BitVec 5) (v2 : BitVec 5) (s : BitVec 1) : Fields :=
  ⟨(0x1e#6 ++ s), v2, v1, k, d, 0x2b#7⟩

/-- The fields of VFMAX. -/
def fieldsVfmax (d : BitVec 5) (k : BitVec 3) (v1 : BitVec 5) (v2 : BitVec 5) (s : BitVec 1) : Fields :=
  ⟨(0x1f#6 ++ s), v2, v1, k, d, 0x2b#7⟩

/-- The fields of VFSGNJ. -/
def fieldsVfsgnj (d : BitVec 5) (k : BitVec 3) (v1 : BitVec 5) (v2 : BitVec 5) (s : BitVec 1) : Fields :=
  ⟨(0x20#6 ++ s), v2, v1, k, d, 0x2b#7⟩

/-- The fields of VFCLASS. -/
def fieldsVfclass (d : BitVec 5) (k : BitVec 3) (v2 : BitVec 5) : Fields :=
  ⟨0x42#7, v2, 0x0#5, k, d, 0x2b#7⟩

/-- The fields of VFEQ. -/
def fieldsVfeq (d : BitVec 3) (k : BitVec 3) (v1 : BitVec 5) (v2 : BitVec 5) (s : BitVec 1) : Fields :=
  ⟨(0x22#6 ++ s), v2, v1, k, (0x0#2 ++ d), 0x2b#7⟩

/-- The fields of VFLT. -/
def fieldsVflt (d : BitVec 3) (k : BitVec 3) (v1 : BitVec 5) (v2 : BitVec 5) (s : BitVec 1) : Fields :=
  ⟨(0x23#6 ++ s), v2, v1, k, (0x0#2 ++ d), 0x2b#7⟩

/-- The fields of VFLE. -/
def fieldsVfle (d : BitVec 3) (k : BitVec 3) (v1 : BitVec 5) (v2 : BitVec 5) (s : BitVec 1) : Fields :=
  ⟨(0x24#6 ++ s), v2, v1, k, (0x0#2 ++ d), 0x2b#7⟩

/-- The fields of VMV. -/
def fieldsVmv (d : BitVec 5) (k : BitVec 3) (v1 : BitVec 5) (s : BitVec 1) : Fields :=
  ⟨(0x25#6 ++ s), 0x0#5, v1, k, d, 0x2b#7⟩

/-- The fields of VMVXS. -/
def fieldsVmvxs (d : BitVec 5) (v2 : BitVec 5) : Fields :=
  ⟨0x4c#7, v2, 0x0#5, 0x0#3, d, 0x2b#7⟩

/-- The fields of VMERGE. -/
def fieldsVmerge (d : BitVec 5) (k : BitVec 3) (v1 : BitVec 5) (v2 : BitVec 5) (s : BitVec 1) : Fields :=
  ⟨(0x27#6 ++ s), v2, v1, k, d, 0x2b#7⟩

/-- The fields of VSLIDEUP. -/
def fieldsVslideup (d : BitVec 5) (k : BitVec 3) (v1 : BitVec 5) (v2 : BitVec 5) : Fields :=
  ⟨0x51#7, v2, v1, k, d, 0x2b#7⟩

/-- The fields of VSLIDEDN. -/
def fieldsVslidedn (d : BitVec 5) (k : BitVec 3) (v1 : BitVec 5) (v2 : BitVec 5) : Fields :=
  ⟨0x53#7, v2, v1, k, d, 0x2b#7⟩

/-- The fields of VPERM. -/
def fieldsVperm (d : BitVec 5) (k : BitVec 3) (v1 : BitVec 5) (v2 : BitVec 5) : Fields :=
  ⟨0x54#7, v2, v1, k, d, 0x2b#7⟩

/-- The fields of VCOMPRESS. -/
def fieldsVcompress (d : BitVec 5) (k : BitVec 3) (v2 : BitVec 5) : Fields :=
  ⟨0x56#7, v2, 0x0#5, k, d, 0x2b#7⟩

/-- The fields of VID. -/
def fieldsVid (d : BitVec 5) (k : BitVec 3) : Fields :=
  ⟨0x58#7, 0x0#5, 0x0#5, k, d, 0x2b#7⟩

/-- The fields of VIOTA. -/
def fieldsViota (d : BitVec 5) (k : BitVec 3) : Fields :=
  ⟨0x5a#7, 0x0#5, 0x0#5, k, d, 0x2b#7⟩

/-- The fields of VREDSUM. -/
def fieldsVredsum (d : BitVec 5) (k : BitVec 3) (v1 : BitVec 5) (v2 : BitVec 5) : Fields :=
  ⟨0x5c#7, v2, v1, k, d, 0x2b#7⟩

/-- The fields of VREDOSUM. -/
def fieldsVredosum (d : BitVec 5) (k : BitVec 3) (v1 : BitVec 5) (v2 : BitVec 5) : Fields :=
  ⟨0x5e#7, v2, v1, k, d, 0x2b#7⟩

/-- The fields of VREDMIN. -/
def fieldsVredmin (d : BitVec 5) (k : BitVec 3) (v1 : BitVec 5) (v2 : BitVec 5) : Fields :=
  ⟨0x60#7, v2, v1, k, d, 0x2b#7⟩

/-- The fields of VREDMAX. -/
def fieldsVredmax (d : BitVec 5) (k : BitVec 3) (v1 : BitVec 5) (v2 : BitVec 5) : Fields :=
  ⟨0x62#7, v2, v1, k, d, 0x2b#7⟩

/-- The fields of VFREDSUM. -/
def fieldsVfredsum (d : BitVec 5) (k : BitVec 3) (v1 : BitVec 5) (v2 : BitVec 5) : Fields :=
  ⟨0x64#7, v2, v1, k, d, 0x2b#7⟩

/-- The fields of VFREDOSUM. -/
def fieldsVfredosum (d : BitVec 5) (k : BitVec 3) (v1 : BitVec 5) (v2 : BitVec 5) : Fields :=
  ⟨0x66#7, v2, v1, k, d, 0x2b#7⟩

/-- The fields of VFREDMIN. -/
def fieldsVfredmin (d : BitVec 5) (k : BitVec 3) (v1 : BitVec 5) (v2 : BitVec 5) : Fields :=
  ⟨0x68#7, v2, v1, k, d, 0x2b#7⟩

/-- The fields of VFREDMAX. -/
def fieldsVfredmax (d : BitVec 5) (k : BitVec 3) (v1 : BitVec 5) (v2 : BitVec 5) : Fields :=
  ⟨0x6a#7, v2, v1, k, d, 0x2b#7⟩

/-- The fields of KAND. -/
def fieldsKand (d : BitVec 3) (v1 : BitVec 3) (v2 : BitVec 3) : Fields :=
  ⟨0x6c#7, (0x0#2 ++ v2), (0x0#2 ++ v1), 0x0#3, (0x0#2 ++ d), 0x2b#7⟩

/-- The fields of KOR. -/
def fieldsKor (d : BitVec 3) (v1 : BitVec 3) (v2 : BitVec 3) : Fields :=
  ⟨0x6e#7, (0x0#2 ++ v2), (0x0#2 ++ v1), 0x0#3, (0x0#2 ++ d), 0x2b#7⟩

/-- The fields of KXOR. -/
def fieldsKxor (d : BitVec 3) (v1 : BitVec 3) (v2 : BitVec 3) : Fields :=
  ⟨0x70#7, (0x0#2 ++ v2), (0x0#2 ++ v1), 0x0#3, (0x0#2 ++ d), 0x2b#7⟩

/-- The fields of KPOPC. -/
def fieldsKpopc (d : BitVec 5) (v2 : BitVec 3) : Fields :=
  ⟨0x72#7, (0x0#2 ++ v2), 0x0#5, 0x0#3, d, 0x2b#7⟩

/-- The fields of KFIRST. -/
def fieldsKfirst (d : BitVec 5) (v2 : BitVec 3) : Fields :=
  ⟨0x74#7, (0x0#2 ++ v2), 0x0#5, 0x0#3, d, 0x2b#7⟩

/-- The fields of KMV. -/
def fieldsKmv (d : BitVec 3) (v2 : BitVec 3) : Fields :=
  ⟨0x76#7, (0x0#2 ++ v2), 0x0#5, 0x0#3, (0x0#2 ++ d), 0x2b#7⟩

/-- The fields of VBVRD. -/
def fieldsVbvrd (d : BitVec 5) (w : BitVec 2) (v2 : BitVec 5) : Fields :=
  ⟨0x78#7, v2, (0x0#3 ++ w), 0x0#3, d, 0x2b#7⟩

/-- The fields of VBVWR. -/
def fieldsVbvwr (d : BitVec 5) (rs1 : BitVec 5) (w : BitVec 2) : Fields :=
  ⟨0x7b#7, (0x0#3 ++ w), rs1, 0x0#3, d, 0x2b#7⟩

/-- The fields of VCVT. -/
def fieldsVcvt (d : BitVec 5) (k : BitVec 3) (ty : BitVec 4) (v2 : BitVec 5) : Fields :=
  ⟨0x7c#7, v2, (0x0#1 ++ ty), k, d, 0x2b#7⟩

/-- The fields of VLD. -/
def fieldsVld (d : BitVec 5) (k : BitVec 3) (rs1 : BitVec 5) (nt : BitVec 1) : Fields :=
  ⟨(0x0#6 ++ nt), 0x0#5, rs1, k, d, 0x5b#7⟩

/-- The fields of VST. -/
def fieldsVst (d : BitVec 5) (k : BitVec 3) (rs1 : BitVec 5) (nt : BitVec 1) : Fields :=
  ⟨(0x1#6 ++ nt), 0x0#5, rs1, k, d, 0x5b#7⟩

/-- The fields of VLDS. -/
def fieldsVlds (d : BitVec 5) (k : BitVec 3) (rs1 : BitVec 5) (rs2 : BitVec 5) (nt : BitVec 1) : Fields :=
  ⟨(0x2#6 ++ nt), rs2, rs1, k, d, 0x5b#7⟩

/-- The fields of VSTS. -/
def fieldsVsts (d : BitVec 5) (k : BitVec 3) (rs1 : BitVec 5) (rs2 : BitVec 5) (nt : BitVec 1) : Fields :=
  ⟨(0x3#6 ++ nt), rs2, rs1, k, d, 0x5b#7⟩

/-- The fields of VLDX. -/
def fieldsVldx (d : BitVec 5) (k : BitVec 3) (rs1 : BitVec 5) (v2 : BitVec 5) (nt : BitVec 1) : Fields :=
  ⟨(0x4#6 ++ nt), v2, rs1, k, d, 0x5b#7⟩

/-- The fields of VSTX. -/
def fieldsVstx (d : BitVec 5) (k : BitVec 3) (rs1 : BitVec 5) (v2 : BitVec 5) (nt : BitVec 1) : Fields :=
  ⟨(0x5#6 ++ nt), v2, rs1, k, d, 0x5b#7⟩

/-- The fields of VPREF. -/
def fieldsVpref (rs1 : BitVec 5) (nt : BitVec 1) : Fields :=
  ⟨(0x6#6 ++ nt), 0x0#5, rs1, 0x0#3, 0x0#5, 0x5b#7⟩

/-- The fields of VLDFE. -/
def fieldsVldfe (d : BitVec 5) (k : BitVec 3) (rs1 : BitVec 5) : Fields :=
  ⟨0xe#7, 0x0#5, rs1, k, d, 0x5b#7⟩

/-- The fields of VSTFE. -/
def fieldsVstfe (d : BitVec 5) (k : BitVec 3) (rs1 : BitVec 5) : Fields :=
  ⟨0x10#7, 0x0#5, rs1, k, d, 0x5b#7⟩

/-- The fields of VQLD. -/
def fieldsVqld (d : BitVec 5) (rs1 : BitVec 5) (fmt : BitVec 4) : Fields :=
  ⟨0x12#7, (0x0#1 ++ fmt), rs1, 0x0#3, d, 0x5b#7⟩

/-- The fields of VQST. -/
def fieldsVqst (d : BitVec 5) (rs1 : BitVec 5) (fmt : BitVec 4) (ly : BitVec 2) : Fields :=
  ⟨(0xa#6 ++ (ly.extractLsb' 1 1)), ((ly.extractLsb' 0 1) ++ fmt), rs1, 0x0#3, d, 0x5b#7⟩

/-- The fields of VAMOADD. -/
def fieldsVamoadd (d : BitVec 5) (k : BitVec 3) (rs1 : BitVec 5) (v2 : BitVec 5) : Fields :=
  ⟨0x16#7, v2, rs1, k, d, 0x5b#7⟩

/-- The fields of VAMOMIN. -/
def fieldsVamomin (d : BitVec 5) (k : BitVec 3) (rs1 : BitVec 5) (v2 : BitVec 5) : Fields :=
  ⟨0x18#7, v2, rs1, k, d, 0x5b#7⟩

/-- The fields of VAMOMAX. -/
def fieldsVamomax (d : BitVec 5) (k : BitVec 3) (rs1 : BitVec 5) (v2 : BitVec 5) : Fields :=
  ⟨0x1a#7, v2, rs1, k, d, 0x5b#7⟩

/-- The fields of VSEND. -/
def fieldsVsend (d : BitVec 5) (rs1 : BitVec 5) : Fields :=
  ⟨0x1c#7, 0x0#5, rs1, 0x0#3, d, 0x5b#7⟩

/-- The fields of VRECV. -/
def fieldsVrecv (d : BitVec 5) (rs1 : BitVec 5) : Fields :=
  ⟨0x1e#7, 0x0#5, rs1, 0x0#3, d, 0x5b#7⟩

/-- The fields of VMMA_E4E4. -/
def fieldsVmmaE4e4 (d : BitVec 5) (v1 : BitVec 5) (v2 : BitVec 5) (fs3 : BitVec 5) : Fields :=
  ⟨(fs3 ++ 0x0#2), v2, v1, 0x0#3, d, 0x7b#7⟩

/-- The fields of VMMA_E5E4. -/
def fieldsVmmaE5e4 (d : BitVec 5) (v1 : BitVec 5) (v2 : BitVec 5) (fs3 : BitVec 5) : Fields :=
  ⟨(fs3 ++ 0x1#2), v2, v1, 0x0#3, d, 0x7b#7⟩

/-- The fields of VMMA_BF16. -/
def fieldsVmmaBf16 (d : BitVec 5) (v1 : BitVec 5) (v2 : BitVec 5) (fs3 : BitVec 5) : Fields :=
  ⟨(fs3 ++ 0x2#2), v2, v1, 0x0#3, d, 0x7b#7⟩

/-- The fields of VMMA_E4Q. -/
def fieldsVmmaE4q (d : BitVec 5) (v1 : BitVec 5) (v2 : BitVec 5) (fs3 : BitVec 5) : Fields :=
  ⟨(fs3 ++ 0x3#2), v2, v1, 0x0#3, d, 0x7b#7⟩

/-- The fields of MLEASE. -/
def fieldsMlease (d : BitVec 5) : Fields :=
  ⟨0x0#7, 0x0#5, 0x0#5, 0x1#3, d, 0x7b#7⟩

/-- The fields of MREL. -/
def fieldsMrel : Fields :=
  ⟨0x1#7, 0x0#5, 0x0#5, 0x1#3, 0x0#5, 0x7b#7⟩

/-- The fields of MWLD. -/
def fieldsMwld (rs1 : BitVec 5) (rs2 : BitVec 5) : Fields :=
  ⟨0x2#7, rs2, rs1, 0x1#3, 0x0#5, 0x7b#7⟩

/-- The fields of MZERO. -/
def fieldsMzero (z : BitVec 2) : Fields :=
  ⟨0x3#7, 0x0#5, 0x0#5, 0x1#3, (0x0#3 ++ z), 0x7b#7⟩

/-- The fields of MLD. -/
def fieldsMld (z : BitVec 2) (rs1 : BitVec 5) : Fields :=
  ⟨0x4#7, 0x0#5, rs1, 0x1#3, (0x0#3 ++ z), 0x7b#7⟩

/-- The fields of MST. -/
def fieldsMst (z : BitVec 2) (dir : BitVec 1) (rs1 : BitVec 5) (fmt : BitVec 3) (ly : BitVec 2) : Fields :=
  ⟨0x5#7, (ly ++ fmt), rs1, 0x1#3, (0x0#2 ++ dir ++ z), 0x7b#7⟩

/-- The fields of MMAC_E4E4. -/
def fieldsMmacE4e4 (z : BitVec 2) (rs1 : BitVec 5) (rs2 : BitVec 5) (kf : BitVec 5) : Fields :=
  ⟨(0x0#1 ++ (kf.extractLsb' 3 2) ++ 0x6#4), rs2, rs1, 0x1#3, ((kf.extractLsb' 0 3) ++ z), 0x7b#7⟩

/-- The fields of MMAC_E5E4. -/
def fieldsMmacE5e4 (z : BitVec 2) (rs1 : BitVec 5) (rs2 : BitVec 5) (kf : BitVec 5) : Fields :=
  ⟨(0x0#1 ++ (kf.extractLsb' 3 2) ++ 0x7#4), rs2, rs1, 0x1#3, ((kf.extractLsb' 0 3) ++ z), 0x7b#7⟩

/-- The fields of MMAC_E4E5. -/
def fieldsMmacE4e5 (z : BitVec 2) (rs1 : BitVec 5) (rs2 : BitVec 5) (kf : BitVec 5) : Fields :=
  ⟨(0x0#1 ++ (kf.extractLsb' 3 2) ++ 0x8#4), rs2, rs1, 0x1#3, ((kf.extractLsb' 0 3) ++ z), 0x7b#7⟩

/-- The fields of MMAC_E5E5. -/
def fieldsMmacE5e5 (z : BitVec 2) (rs1 : BitVec 5) (rs2 : BitVec 5) (kf : BitVec 5) : Fields :=
  ⟨(0x0#1 ++ (kf.extractLsb' 3 2) ++ 0x9#4), rs2, rs1, 0x1#3, ((kf.extractLsb' 0 3) ++ z), 0x7b#7⟩

/-- The fields of MMAC_BF16. -/
def fieldsMmacBf16 (z : BitVec 2) (rs1 : BitVec 5) (rs2 : BitVec 5) (kf : BitVec 5) : Fields :=
  ⟨(0x0#1 ++ (kf.extractLsb' 3 2) ++ 0xa#4), rs2, rs1, 0x1#3, ((kf.extractLsb' 0 3) ++ z), 0x7b#7⟩

/-- The fields of MMAC_E4Q. -/
def fieldsMmacE4q (z : BitVec 2) (rs1 : BitVec 5) (rs2 : BitVec 5) (kf : BitVec 5) : Fields :=
  ⟨(0x0#1 ++ (kf.extractLsb' 3 2) ++ 0xb#4), rs2, rs1, 0x1#3, ((kf.extractLsb' 0 3) ++ z), 0x7b#7⟩

/-- The fields of MMAC_F4. -/
def fieldsMmacF4 (z : BitVec 2) (rs1 : BitVec 5) (rs2 : BitVec 5) (kf : BitVec 5) : Fields :=
  ⟨(0x0#1 ++ (kf.extractLsb' 3 2) ++ 0xc#4), rs2, rs1, 0x1#3, ((kf.extractLsb' 0 3) ++ z), 0x7b#7⟩

/-- The fields of MMAC_F4Q. -/
def fieldsMmacF4q (z : BitVec 2) (rs1 : BitVec 5) (rs2 : BitVec 5) (kf : BitVec 5) : Fields :=
  ⟨(0x0#1 ++ (kf.extractLsb' 3 2) ++ 0xd#4), rs2, rs1, 0x1#3, ((kf.extractLsb' 0 3) ++ z), 0x7b#7⟩

/-- The fields of RBOX. -/
def fieldsRbox (d : BitVec 5) (v1 : BitVec 5) (rs2 : BitVec 5) : Fields :=
  ⟨0x0#7, rs2, v1, 0x2#3, d, 0x7b#7⟩

/-- The fields of RTRI. -/
def fieldsRtri (d : BitVec 5) (v1 : BitVec 5) (rs2 : BitVec 5) : Fields :=
  ⟨0x1#7, rs2, v1, 0x2#3, d, 0x7b#7⟩

/-- The fields of RCAND. -/
def fieldsRcand (d : BitVec 5) (v1 : BitVec 5) (v2 : BitVec 5) : Fields :=
  ⟨0x2#7, v2, v1, 0x2#3, d, 0x7b#7⟩

/-- The fields of RACC. -/
def fieldsRacc (d : BitVec 5) (v1 : BitVec 5) : Fields :=
  ⟨0x3#7, 0x0#5, v1, 0x2#3, d, 0x7b#7⟩

/-- The fields of RREJ. -/
def fieldsRrej (d : BitVec 5) (v1 : BitVec 5) : Fields :=
  ⟨0x4#7, 0x0#5, v1, 0x2#3, d, 0x7b#7⟩

/-- The fields of QSPH. -/
def fieldsQsph (d : BitVec 5) (v1 : BitVec 5) (rs2 : BitVec 5) : Fields :=
  ⟨0x5#7, rs2, v1, 0x2#3, d, 0x7b#7⟩

/-- The fields of QKNN. -/
def fieldsQknn (d : BitVec 5) (v1 : BitVec 5) (rs2 : BitVec 5) : Fields :=
  ⟨0x6#7, rs2, v1, 0x2#3, d, 0x7b#7⟩

/-- The fields of QKEY. -/
def fieldsQkey (d : BitVec 5) (v1 : BitVec 5) (rs2 : BitVec 5) : Fields :=
  ⟨0x7#7, rs2, v1, 0x2#3, d, 0x7b#7⟩

/-- The fields of VEDGE. -/
def fieldsVedge (d : BitVec 5) (v1 : BitVec 5) (rs2 : BitVec 5) : Fields :=
  ⟨0x0#7, rs2, v1, 0x3#3, d, 0x7b#7⟩

/-- The fields of TSAMP. -/
def fieldsTsamp (d : BitVec 5) (v1 : BitVec 5) (rs2 : BitVec 5) : Fields :=
  ⟨0x1#7, rs2, v1, 0x3#3, d, 0x7b#7⟩

/-- The fields of TFETCH. -/
def fieldsTfetch (d : BitVec 5) (v1 : BitVec 5) (rs2 : BitVec 5) : Fields :=
  ⟨0x2#7, rs2, v1, 0x3#3, d, 0x7b#7⟩

/-- The fields of TDECODE. -/
def fieldsTdecode (d : BitVec 5) (v1 : BitVec 5) (rs2 : BitVec 5) : Fields :=
  ⟨0x3#7, rs2, v1, 0x3#3, d, 0x7b#7⟩

/-- Major opcode 0x37 (Table 2-1). -/
def decodeLui (f7 : BitVec 7) (r2 r1 : BitVec 5) (f3 : BitVec 3) (rd : BitVec 5) : Option Instr :=
  some (.lui rd (f7 ++ r2 ++ r1 ++ f3))

/-- Major opcode 0x17 (Table 2-1). -/
def decodeAuipc (f7 : BitVec 7) (r2 r1 : BitVec 5) (f3 : BitVec 3) (rd : BitVec 5) : Option Instr :=
  some (.auipc rd (f7 ++ r2 ++ r1 ++ f3))

/-- Major opcode 0x6f (Table 2-1). -/
def decodeJal (f7 : BitVec 7) (r2 r1 : BitVec 5) (f3 : BitVec 3) (rd : BitVec 5) : Option Instr :=
  some (.jal rd ((f7.extractLsb' 6 1) ++ r1 ++ f3 ++ (r2.extractLsb' 0 1) ++ (f7.extractLsb' 0 6) ++ (r2.extractLsb' 1 4)))

/-- Major opcode 0x67 (Table 2-1). -/
def decodeJalr (f7 : BitVec 7) (r2 r1 : BitVec 5) (f3 : BitVec 3) (rd : BitVec 5) : Option Instr :=
  if f3 = 0x0#3 then some (.jalr rd r1 (f7 ++ r2))
  else none

/-- Major opcode 0x63 (Table 2-1). -/
def decodeBranch (f7 : BitVec 7) (r2 r1 : BitVec 5) (f3 : BitVec 3) (rd : BitVec 5) : Option Instr :=
  if f3 = 0x0#3 then some (.beq r1 r2 ((f7.extractLsb' 6 1) ++ (rd.extractLsb' 0 1) ++ (f7.extractLsb' 0 6) ++ (rd.extractLsb' 1 4)))
  else if f3 = 0x1#3 then some (.bne r1 r2 ((f7.extractLsb' 6 1) ++ (rd.extractLsb' 0 1) ++ (f7.extractLsb' 0 6) ++ (rd.extractLsb' 1 4)))
  else if f3 = 0x4#3 then some (.blt r1 r2 ((f7.extractLsb' 6 1) ++ (rd.extractLsb' 0 1) ++ (f7.extractLsb' 0 6) ++ (rd.extractLsb' 1 4)))
  else if f3 = 0x5#3 then some (.bge r1 r2 ((f7.extractLsb' 6 1) ++ (rd.extractLsb' 0 1) ++ (f7.extractLsb' 0 6) ++ (rd.extractLsb' 1 4)))
  else if f3 = 0x6#3 then some (.bltu r1 r2 ((f7.extractLsb' 6 1) ++ (rd.extractLsb' 0 1) ++ (f7.extractLsb' 0 6) ++ (rd.extractLsb' 1 4)))
  else if f3 = 0x7#3 then some (.bgeu r1 r2 ((f7.extractLsb' 6 1) ++ (rd.extractLsb' 0 1) ++ (f7.extractLsb' 0 6) ++ (rd.extractLsb' 1 4)))
  else none

/-- Major opcode 0x03 (Table 2-1). -/
def decodeLoad (f7 : BitVec 7) (r2 r1 : BitVec 5) (f3 : BitVec 3) (rd : BitVec 5) : Option Instr :=
  if f3 = 0x0#3 then some (.lb rd r1 (f7 ++ r2))
  else if f3 = 0x1#3 then some (.lh rd r1 (f7 ++ r2))
  else if f3 = 0x2#3 then some (.lw rd r1 (f7 ++ r2))
  else if f3 = 0x3#3 then some (.ld rd r1 (f7 ++ r2))
  else if f3 = 0x4#3 then some (.lbu rd r1 (f7 ++ r2))
  else if f3 = 0x5#3 then some (.lhu rd r1 (f7 ++ r2))
  else if f3 = 0x6#3 then some (.lwu rd r1 (f7 ++ r2))
  else none

/-- Major opcode 0x23 (Table 2-1). -/
def decodeStore (f7 : BitVec 7) (r2 r1 : BitVec 5) (f3 : BitVec 3) (rd : BitVec 5) : Option Instr :=
  if f3 = 0x0#3 then some (.sb r1 r2 (f7 ++ rd))
  else if f3 = 0x1#3 then some (.sh r1 r2 (f7 ++ rd))
  else if f3 = 0x2#3 then some (.sw r1 r2 (f7 ++ rd))
  else if f3 = 0x3#3 then some (.sd r1 r2 (f7 ++ rd))
  else none

/-- Major opcode 0x13 (Table 2-1). -/
def decodeOpImm (f7 : BitVec 7) (r2 r1 : BitVec 5) (f3 : BitVec 3) (rd : BitVec 5) : Option Instr :=
  if f3 = 0x0#3 then some (.addi rd r1 (f7 ++ r2))
  else if f3 = 0x2#3 then some (.slti rd r1 (f7 ++ r2))
  else if f3 = 0x3#3 then some (.sltiu rd r1 (f7 ++ r2))
  else if f3 = 0x4#3 then some (.xori rd r1 (f7 ++ r2))
  else if f3 = 0x6#3 then some (.ori rd r1 (f7 ++ r2))
  else if f3 = 0x7#3 then some (.andi rd r1 (f7 ++ r2))
  else if f7.extractLsb' 1 6 = 0x0#6 ∧ f3 = 0x1#3 then some (.slli rd r1 ((f7.extractLsb' 0 1) ++ r2))
  else if f7.extractLsb' 1 6 = 0x0#6 ∧ f3 = 0x5#3 then some (.srli rd r1 ((f7.extractLsb' 0 1) ++ r2))
  else if f7.extractLsb' 1 6 = 0x10#6 ∧ f3 = 0x5#3 then some (.srai rd r1 ((f7.extractLsb' 0 1) ++ r2))
  else none

/-- Major opcode 0x1b (Table 2-1). -/
def decodeOpImm32 (f7 : BitVec 7) (r2 r1 : BitVec 5) (f3 : BitVec 3) (rd : BitVec 5) : Option Instr :=
  if f3 = 0x0#3 then some (.addiw rd r1 (f7 ++ r2))
  else if f7 = 0x0#7 ∧ f3 = 0x1#3 then some (.slliw rd r1 r2)
  else if f7 = 0x0#7 ∧ f3 = 0x5#3 then some (.srliw rd r1 r2)
  else if f7 = 0x20#7 ∧ f3 = 0x5#3 then some (.sraiw rd r1 r2)
  else none

/-- Major opcode 0x33 (Table 2-1). -/
def decodeOp (f7 : BitVec 7) (r2 r1 : BitVec 5) (f3 : BitVec 3) (rd : BitVec 5) : Option Instr :=
  if f7 = 0x0#7 ∧ f3 = 0x0#3 then some (.add rd r1 r2)
  else if f7 = 0x20#7 ∧ f3 = 0x0#3 then some (.sub rd r1 r2)
  else if f7 = 0x0#7 ∧ f3 = 0x1#3 then some (.sll rd r1 r2)
  else if f7 = 0x0#7 ∧ f3 = 0x2#3 then some (.slt rd r1 r2)
  else if f7 = 0x0#7 ∧ f3 = 0x3#3 then some (.sltu rd r1 r2)
  else if f7 = 0x0#7 ∧ f3 = 0x4#3 then some (.xor rd r1 r2)
  else if f7 = 0x0#7 ∧ f3 = 0x5#3 then some (.srl rd r1 r2)
  else if f7 = 0x20#7 ∧ f3 = 0x5#3 then some (.sra rd r1 r2)
  else if f7 = 0x0#7 ∧ f3 = 0x6#3 then some (.or rd r1 r2)
  else if f7 = 0x0#7 ∧ f3 = 0x7#3 then some (.and rd r1 r2)
  else if f7 = 0x1#7 ∧ f3 = 0x0#3 then some (.mul rd r1 r2)
  else if f7 = 0x1#7 ∧ f3 = 0x1#3 then some (.mulh rd r1 r2)
  else if f7 = 0x1#7 ∧ f3 = 0x2#3 then some (.mulhsu rd r1 r2)
  else if f7 = 0x1#7 ∧ f3 = 0x3#3 then some (.mulhu rd r1 r2)
  else if f7 = 0x1#7 ∧ f3 = 0x4#3 then some (.div rd r1 r2)
  else if f7 = 0x1#7 ∧ f3 = 0x5#3 then some (.divu rd r1 r2)
  else if f7 = 0x1#7 ∧ f3 = 0x6#3 then some (.rem rd r1 r2)
  else if f7 = 0x1#7 ∧ f3 = 0x7#3 then some (.remu rd r1 r2)
  else none

/-- Major opcode 0x3b (Table 2-1). -/
def decodeOp32 (f7 : BitVec 7) (r2 r1 : BitVec 5) (f3 : BitVec 3) (rd : BitVec 5) : Option Instr :=
  if f7 = 0x0#7 ∧ f3 = 0x0#3 then some (.addw rd r1 r2)
  else if f7 = 0x20#7 ∧ f3 = 0x0#3 then some (.subw rd r1 r2)
  else if f7 = 0x0#7 ∧ f3 = 0x1#3 then some (.sllw rd r1 r2)
  else if f7 = 0x0#7 ∧ f3 = 0x5#3 then some (.srlw rd r1 r2)
  else if f7 = 0x20#7 ∧ f3 = 0x5#3 then some (.sraw rd r1 r2)
  else if f7 = 0x1#7 ∧ f3 = 0x0#3 then some (.mulw rd r1 r2)
  else if f7 = 0x1#7 ∧ f3 = 0x4#3 then some (.divw rd r1 r2)
  else if f7 = 0x1#7 ∧ f3 = 0x5#3 then some (.divuw rd r1 r2)
  else if f7 = 0x1#7 ∧ f3 = 0x6#3 then some (.remw rd r1 r2)
  else if f7 = 0x1#7 ∧ f3 = 0x7#3 then some (.remuw rd r1 r2)
  else none

/-- Major opcode 0x0f (Table 2-1). -/
def decodeMiscMem (f7 : BitVec 7) (r2 r1 : BitVec 5) (f3 : BitVec 3) (rd : BitVec 5) : Option Instr :=
  if f7 = 0x0#7 ∧ r2 = 0x10#5 ∧ r1 = 0x0#5 ∧ f3 = 0x0#3 ∧ rd = 0x0#5 then some (.pause)
  else if f7 = 0x41#7 ∧ r2 = 0x13#5 ∧ f3 = 0x0#3 then some (.fenceTso rd r1)
  else if f3 = 0x0#3 then some (.fence rd r1 (r2.extractLsb' 0 4) ((f7.extractLsb' 0 3) ++ (r2.extractLsb' 4 1)) (f7.extractLsb' 3 4))
  else if f3 = 0x1#3 then some (.fenceI rd r1 (f7 ++ r2))
  else none

/-- Major opcode 0x73 (Table 2-1). -/
def decodeSystem (f7 : BitVec 7) (r2 r1 : BitVec 5) (f3 : BitVec 3) (rd : BitVec 5) : Option Instr :=
  if f7 = 0x0#7 ∧ r2 = 0x0#5 ∧ r1 = 0x0#5 ∧ f3 = 0x0#3 ∧ rd = 0x0#5 then some (.ecall)
  else if f7 = 0x0#7 ∧ r2 = 0x1#5 ∧ r1 = 0x0#5 ∧ f3 = 0x0#3 ∧ rd = 0x0#5 then some (.ebreak)
  else if f3 = 0x1#3 then some (.csrrw rd r1 (f7 ++ r2))
  else if f3 = 0x2#3 then some (.csrrs rd r1 (f7 ++ r2))
  else if f3 = 0x3#3 then some (.csrrc rd r1 (f7 ++ r2))
  else if f3 = 0x5#3 then some (.csrrwi rd r1 (f7 ++ r2))
  else if f3 = 0x6#3 then some (.csrrsi rd r1 (f7 ++ r2))
  else if f3 = 0x7#3 then some (.csrrci rd r1 (f7 ++ r2))
  else if f7 = 0x8#7 ∧ r2 = 0x2#5 ∧ r1 = 0x0#5 ∧ f3 = 0x0#3 ∧ rd = 0x0#5 then some (.sret)
  else if f7 = 0x18#7 ∧ r2 = 0x2#5 ∧ r1 = 0x0#5 ∧ f3 = 0x0#3 ∧ rd = 0x0#5 then some (.mret)
  else if f7 = 0x8#7 ∧ r2 = 0x5#5 ∧ r1 = 0x0#5 ∧ f3 = 0x0#3 ∧ rd = 0x0#5 then some (.wfi)
  else if f7 = 0x9#7 ∧ f3 = 0x0#3 ∧ rd = 0x0#5 then some (.sfenceVma r1 r2)
  else none

/-- Major opcode 0x2f (Table 2-1). -/
def decodeAmo (f7 : BitVec 7) (r2 r1 : BitVec 5) (f3 : BitVec 3) (rd : BitVec 5) : Option Instr :=
  if f7.extractLsb' 2 5 = 0x2#5 ∧ r2 = 0x0#5 ∧ f3 = 0x2#3 then some (.lrW rd r1 (f7.extractLsb' 0 1) (f7.extractLsb' 1 1))
  else if f7.extractLsb' 2 5 = 0x2#5 ∧ r2 = 0x0#5 ∧ f3 = 0x3#3 then some (.lrD rd r1 (f7.extractLsb' 0 1) (f7.extractLsb' 1 1))
  else if f7.extractLsb' 2 5 = 0x3#5 ∧ f3 = 0x2#3 then some (.scW rd r1 r2 (f7.extractLsb' 0 1) (f7.extractLsb' 1 1))
  else if f7.extractLsb' 2 5 = 0x3#5 ∧ f3 = 0x3#3 then some (.scD rd r1 r2 (f7.extractLsb' 0 1) (f7.extractLsb' 1 1))
  else if f7.extractLsb' 2 5 = 0x1#5 ∧ f3 = 0x2#3 then some (.amoswapW rd r1 r2 (f7.extractLsb' 0 1) (f7.extractLsb' 1 1))
  else if f7.extractLsb' 2 5 = 0x1#5 ∧ f3 = 0x3#3 then some (.amoswapD rd r1 r2 (f7.extractLsb' 0 1) (f7.extractLsb' 1 1))
  else if f7.extractLsb' 2 5 = 0x0#5 ∧ f3 = 0x2#3 then some (.amoaddW rd r1 r2 (f7.extractLsb' 0 1) (f7.extractLsb' 1 1))
  else if f7.extractLsb' 2 5 = 0x0#5 ∧ f3 = 0x3#3 then some (.amoaddD rd r1 r2 (f7.extractLsb' 0 1) (f7.extractLsb' 1 1))
  else if f7.extractLsb' 2 5 = 0x4#5 ∧ f3 = 0x2#3 then some (.amoxorW rd r1 r2 (f7.extractLsb' 0 1) (f7.extractLsb' 1 1))
  else if f7.extractLsb' 2 5 = 0x4#5 ∧ f3 = 0x3#3 then some (.amoxorD rd r1 r2 (f7.extractLsb' 0 1) (f7.extractLsb' 1 1))
  else if f7.extractLsb' 2 5 = 0xc#5 ∧ f3 = 0x2#3 then some (.amoandW rd r1 r2 (f7.extractLsb' 0 1) (f7.extractLsb' 1 1))
  else if f7.extractLsb' 2 5 = 0xc#5 ∧ f3 = 0x3#3 then some (.amoandD rd r1 r2 (f7.extractLsb' 0 1) (f7.extractLsb' 1 1))
  else if f7.extractLsb' 2 5 = 0x8#5 ∧ f3 = 0x2#3 then some (.amoorW rd r1 r2 (f7.extractLsb' 0 1) (f7.extractLsb' 1 1))
  else if f7.extractLsb' 2 5 = 0x8#5 ∧ f3 = 0x3#3 then some (.amoorD rd r1 r2 (f7.extractLsb' 0 1) (f7.extractLsb' 1 1))
  else if f7.extractLsb' 2 5 = 0x10#5 ∧ f3 = 0x2#3 then some (.amominW rd r1 r2 (f7.extractLsb' 0 1) (f7.extractLsb' 1 1))
  else if f7.extractLsb' 2 5 = 0x10#5 ∧ f3 = 0x3#3 then some (.amominD rd r1 r2 (f7.extractLsb' 0 1) (f7.extractLsb' 1 1))
  else if f7.extractLsb' 2 5 = 0x14#5 ∧ f3 = 0x2#3 then some (.amomaxW rd r1 r2 (f7.extractLsb' 0 1) (f7.extractLsb' 1 1))
  else if f7.extractLsb' 2 5 = 0x14#5 ∧ f3 = 0x3#3 then some (.amomaxD rd r1 r2 (f7.extractLsb' 0 1) (f7.extractLsb' 1 1))
  else if f7.extractLsb' 2 5 = 0x18#5 ∧ f3 = 0x2#3 then some (.amominuW rd r1 r2 (f7.extractLsb' 0 1) (f7.extractLsb' 1 1))
  else if f7.extractLsb' 2 5 = 0x18#5 ∧ f3 = 0x3#3 then some (.amominuD rd r1 r2 (f7.extractLsb' 0 1) (f7.extractLsb' 1 1))
  else if f7.extractLsb' 2 5 = 0x1c#5 ∧ f3 = 0x2#3 then some (.amomaxuW rd r1 r2 (f7.extractLsb' 0 1) (f7.extractLsb' 1 1))
  else if f7.extractLsb' 2 5 = 0x1c#5 ∧ f3 = 0x3#3 then some (.amomaxuD rd r1 r2 (f7.extractLsb' 0 1) (f7.extractLsb' 1 1))
  else none

/-- Major opcode 0x07 (Table 2-1). -/
def decodeLoadFp (f7 : BitVec 7) (r2 r1 : BitVec 5) (f3 : BitVec 3) (rd : BitVec 5) : Option Instr :=
  if f3 = 0x2#3 then some (.flw rd r1 (f7 ++ r2))
  else none

/-- Major opcode 0x27 (Table 2-1). -/
def decodeStoreFp (f7 : BitVec 7) (r2 r1 : BitVec 5) (f3 : BitVec 3) (rd : BitVec 5) : Option Instr :=
  if f3 = 0x2#3 then some (.fsw r1 r2 (f7 ++ rd))
  else none

/-- Major opcode 0x43 (Table 2-1). -/
def decodeMadd (f7 : BitVec 7) (r2 r1 : BitVec 5) (f3 : BitVec 3) (rd : BitVec 5) : Option Instr :=
  if f7.extractLsb' 0 2 = 0x0#2 then some (.fmaddS rd f3 r1 r2 (f7.extractLsb' 2 5))
  else none

/-- Major opcode 0x47 (Table 2-1). -/
def decodeMsub (f7 : BitVec 7) (r2 r1 : BitVec 5) (f3 : BitVec 3) (rd : BitVec 5) : Option Instr :=
  if f7.extractLsb' 0 2 = 0x0#2 then some (.fmsubS rd f3 r1 r2 (f7.extractLsb' 2 5))
  else none

/-- Major opcode 0x4b (Table 2-1). -/
def decodeNmsub (f7 : BitVec 7) (r2 r1 : BitVec 5) (f3 : BitVec 3) (rd : BitVec 5) : Option Instr :=
  if f7.extractLsb' 0 2 = 0x0#2 then some (.fnmsubS rd f3 r1 r2 (f7.extractLsb' 2 5))
  else none

/-- Major opcode 0x4f (Table 2-1). -/
def decodeNmadd (f7 : BitVec 7) (r2 r1 : BitVec 5) (f3 : BitVec 3) (rd : BitVec 5) : Option Instr :=
  if f7.extractLsb' 0 2 = 0x0#2 then some (.fnmaddS rd f3 r1 r2 (f7.extractLsb' 2 5))
  else none

/-- Major opcode 0x53 (Table 2-1). -/
def decodeOpFp (f7 : BitVec 7) (r2 r1 : BitVec 5) (f3 : BitVec 3) (rd : BitVec 5) : Option Instr :=
  if f7 = 0x0#7 then some (.faddS rd f3 r1 r2)
  else if f7 = 0x4#7 then some (.fsubS rd f3 r1 r2)
  else if f7 = 0x8#7 then some (.fmulS rd f3 r1 r2)
  else if f7 = 0xc#7 then some (.fdivS rd f3 r1 r2)
  else if f7 = 0x2c#7 ∧ r2 = 0x0#5 then some (.fsqrtS rd f3 r1)
  else if f7 = 0x10#7 ∧ f3 = 0x0#3 then some (.fsgnjS rd r1 r2)
  else if f7 = 0x10#7 ∧ f3 = 0x1#3 then some (.fsgnjnS rd r1 r2)
  else if f7 = 0x10#7 ∧ f3 = 0x2#3 then some (.fsgnjxS rd r1 r2)
  else if f7 = 0x14#7 ∧ f3 = 0x0#3 then some (.fminS rd r1 r2)
  else if f7 = 0x14#7 ∧ f3 = 0x1#3 then some (.fmaxS rd r1 r2)
  else if f7 = 0x60#7 ∧ r2 = 0x0#5 then some (.fcvtWS rd f3 r1)
  else if f7 = 0x60#7 ∧ r2 = 0x1#5 then some (.fcvtWuS rd f3 r1)
  else if f7 = 0x60#7 ∧ r2 = 0x2#5 then some (.fcvtLS rd f3 r1)
  else if f7 = 0x60#7 ∧ r2 = 0x3#5 then some (.fcvtLuS rd f3 r1)
  else if f7 = 0x68#7 ∧ r2 = 0x0#5 then some (.fcvtSW rd f3 r1)
  else if f7 = 0x68#7 ∧ r2 = 0x1#5 then some (.fcvtSWu rd f3 r1)
  else if f7 = 0x68#7 ∧ r2 = 0x2#5 then some (.fcvtSL rd f3 r1)
  else if f7 = 0x68#7 ∧ r2 = 0x3#5 then some (.fcvtSLu rd f3 r1)
  else if f7 = 0x70#7 ∧ r2 = 0x0#5 ∧ f3 = 0x0#3 then some (.fmvXW rd r1)
  else if f7 = 0x70#7 ∧ r2 = 0x0#5 ∧ f3 = 0x1#3 then some (.fclassS rd r1)
  else if f7 = 0x50#7 ∧ f3 = 0x2#3 then some (.feqS rd r1 r2)
  else if f7 = 0x50#7 ∧ f3 = 0x1#3 then some (.fltS rd r1 r2)
  else if f7 = 0x50#7 ∧ f3 = 0x0#3 then some (.fleS rd r1 r2)
  else if f7 = 0x78#7 ∧ r2 = 0x0#5 ∧ f3 = 0x0#3 then some (.fmvWX rd r1)
  else none

/-- Major opcode 0x0b (Table 2-1). -/
def decodeCustom0 (f7 : BitVec 7) (r2 r1 : BitVec 5) (f3 : BitVec 3) (rd : BitVec 5) : Option Instr :=
  if f7 = 0x2#7 ∧ r2 = 0x0#5 ∧ r1 = 0x0#5 ∧ f3 = 0x2#3 ∧ rd.extractLsb' 3 2 = 0x0#2 then some (.ringsetWithdraw (rd.extractLsb' 0 3))
  else if r2.extractLsb' 2 3 = 0x0#3 ∧ f3 = 0x0#3 then some (.vloop r1 (r2.extractLsb' 0 2) ((f7.extractLsb' 6 1) ++ (rd.extractLsb' 0 1) ++ (f7.extractLsb' 0 6) ++ (rd.extractLsb' 1 4)))
  else if f7 = 0x0#7 ∧ r2 = 0x0#5 ∧ f3 = 0x1#3 ∧ rd.extractLsb' 2 3 = 0x0#3 then some (.vloopcfg (rd.extractLsb' 0 2) r1)
  else if f7 = 0x1#7 ∧ r2 = 0x0#5 ∧ f3 = 0x1#3 then some (.vcfg rd r1)
  else if f7 = 0x2#7 ∧ r2.extractLsb' 4 1 = 0x0#1 ∧ f3 = 0x1#3 then some (.vsetlen rd r1 (r2.extractLsb' 0 4))
  else if f7 = 0x3#7 ∧ r2 = 0x0#5 ∧ f3 = 0x1#3 ∧ rd.extractLsb' 2 3 = 0x0#3 then some (.lycfg (rd.extractLsb' 0 2) r1)
  else if f7 = 0x4#7 ∧ r2 = 0x0#5 ∧ r1 = 0x0#5 ∧ f3 = 0x1#3 ∧ rd.extractLsb' 2 3 = 0x0#3 then some (.lyclr (rd.extractLsb' 0 2))
  else if f7 = 0x5#7 ∧ r2.extractLsb' 2 3 = 0x0#3 ∧ r1 = 0x0#5 ∧ f3 = 0x1#3 then some (.lysave rd (r2.extractLsb' 0 2))
  else if f7 = 0x6#7 ∧ r2 = 0x0#5 ∧ f3 = 0x1#3 ∧ rd.extractLsb' 2 3 = 0x0#3 then some (.lyload (rd.extractLsb' 0 2) r1)
  else if f7 = 0x7#7 ∧ r2.extractLsb' 1 4 = 0x0#4 ∧ f3 = 0x1#3 then some (.flsc rd r1 (r2.extractLsb' 0 1))
  else if f7 = 0x0#7 ∧ r2 = 0x0#5 ∧ f3 = 0x2#3 then some (.ldfe rd r1)
  else if f7 = 0x1#7 ∧ f3 = 0x2#3 ∧ rd = 0x0#5 then some (.stfe r1 r2)
  else if f7 = 0x2#7 ∧ r2 = 0x0#5 ∧ f3 = 0x2#3 ∧ rd.extractLsb' 3 2 = 0x0#2 then some (.ringset (rd.extractLsb' 0 3) r1)
  else if f7 = 0x3#7 ∧ r2.extractLsb' 3 2 = 0x0#2 ∧ f3 = 0x2#3 then some (.ringacq rd r1 (r2.extractLsb' 0 3))
  else if f7 = 0x4#7 ∧ r2.extractLsb' 3 2 = 0x0#2 ∧ r1 = 0x0#5 ∧ f3 = 0x2#3 then some (.ringrel rd (r2.extractLsb' 0 3))
  else if f7 = 0x5#7 ∧ r2 = 0x0#5 ∧ f3 = 0x2#3 ∧ rd.extractLsb' 3 2 = 0x0#2 then some (.ringexp (rd.extractLsb' 0 3) r1)
  else if f7 = 0x6#7 ∧ r2.extractLsb' 3 2 = 0x0#2 ∧ f3 = 0x2#3 then some (.ringtst rd r1 (r2.extractLsb' 0 3))
  else if f7 = 0x7#7 ∧ f3 = 0x2#3 ∧ rd.extractLsb' 2 3 = 0x0#3 then some (.cpset (rd.extractLsb' 0 2) r1 r2)
  else if f7 = 0x8#7 ∧ r2.extractLsb' 2 3 = 0x0#3 ∧ r1 = 0x0#5 ∧ f3 = 0x2#3 then some (.cplaunch rd (r2.extractLsb' 0 2))
  else if f7 = 0x9#7 ∧ r2.extractLsb' 2 3 = 0x0#3 ∧ r1 = 0x0#5 ∧ f3 = 0x2#3 then some (.cpstat rd (r2.extractLsb' 0 2))
  else if f7 = 0xa#7 ∧ f3 = 0x2#3 ∧ rd.extractLsb' 2 3 = 0x0#3 then some (.waitc (r2.extractLsb' 2 3) ((r2.extractLsb' 0 2) ++ (r1.extractLsb' 4 1)) (r1.extractLsb' 1 3) ((r1.extractLsb' 0 1) ++ (rd.extractLsb' 0 2)))
  else if f7 = 0xb#7 ∧ r2 = 0x0#5 ∧ f3 = 0x2#3 then some (.strmopen rd r1)
  else if f7 = 0xc#7 ∧ r2 = 0x0#5 ∧ f3 = 0x2#3 ∧ rd = 0x0#5 then some (.strmclose r1)
  else if f7 = 0xd#7 ∧ f3 = 0x2#3 then some (.tack rd r1 r2)
  else if f7 = 0x0#7 ∧ f3 = 0x3#3 then some (.qpush rd r1 r2)
  else if f7 = 0x1#7 ∧ f3 = 0x3#3 then some (.qpop rd r1 r2)
  else if f7 = 0x2#7 ∧ f3 = 0x3#3 ∧ rd = 0x0#5 then some (.exit r1 r2)
  else if f7 = 0x3#7 ∧ r2 = 0x0#5 ∧ r1 = 0x0#5 ∧ f3 = 0x3#3 ∧ rd = 0x0#5 then some (.yield)
  else if f7 = 0x4#7 ∧ f3 = 0x3#3 ∧ rd = 0x0#5 then some (.wdq r1 r2)
  else if f7 = 0x5#7 ∧ f3 = 0x3#3 ∧ rd = 0x0#5 then some (.tcommit r1 r2)
  else if f7 = 0x6#7 ∧ r2 = 0x0#5 ∧ f3 = 0x3#3 ∧ rd = 0x0#5 then some (.tskip r1)
  else if f7 = 0x7#7 ∧ f3 = 0x3#3 ∧ rd = 0x0#5 then some (.tcfg r1 r2)
  else if f7 = 0x8#7 ∧ f3 = 0x3#3 ∧ rd = 0x0#5 then some (.gangarm r1 r2)
  else if f7.extractLsb' 3 4 = 0x0#4 ∧ r2 = 0x0#5 ∧ r1 = 0x0#5 ∧ f3 = 0x4#3 ∧ rd = 0x0#5 then some (.fenceSv (f7.extractLsb' 0 3))
  else if f7.extractLsb' 3 4 = 0x1#4 ∧ r2 = 0x0#5 ∧ r1 = 0x0#5 ∧ f3 = 0x4#3 ∧ rd = 0x0#5 then some (.fenceVs (f7.extractLsb' 0 3))
  else if f7.extractLsb' 3 4 = 0x2#4 ∧ r2 = 0x0#5 ∧ r1 = 0x0#5 ∧ f3 = 0x4#3 ∧ rd = 0x0#5 then some (.fenceVv (f7.extractLsb' 0 3))
  else if f7.extractLsb' 3 4 = 0x3#4 ∧ f3 = 0x4#3 then some (.amoaddf rd r1 r2 (f7.extractLsb' 0 3))
  else if f7.extractLsb' 3 4 = 0x4#4 ∧ f3 = 0x4#3 then some (.amomaxf rd r1 r2 (f7.extractLsb' 0 3))
  else if f7.extractLsb' 3 4 = 0x5#4 ∧ r2 = 0x0#5 ∧ f3 = 0x4#3 ∧ rd = 0x0#5 then some (.bwcfg r1 (f7.extractLsb' 0 3))
  else if f7.extractLsb' 3 4 = 0x6#4 ∧ r2 = 0x0#5 ∧ f3 = 0x4#3 ∧ rd = 0x0#5 then some (.bwarr r1 (f7.extractLsb' 0 3))
  else if f7.extractLsb' 3 4 = 0x7#4 ∧ r2 = 0x0#5 ∧ r1 = 0x0#5 ∧ f3 = 0x4#3 then some (.bwtst rd (f7.extractLsb' 0 3))
  else if f7 = 0x40#7 ∧ r2 = 0x0#5 ∧ f3 = 0x4#3 then some (.wev rd r1)
  else if f7 = 0x0#7 ∧ r2 = 0x0#5 ∧ r1 = 0x0#5 ∧ f3 = 0x5#3 ∧ rd = 0x0#5 then some (.upret)
  else if f7 = 0x1#7 ∧ r2 = 0x0#5 ∧ f3 = 0x5#3 then some (.fqpop rd r1)
  else if f7 = 0x2#7 ∧ f3 = 0x5#3 ∧ rd = 0x0#5 then some (.vstupd r1 r2)
  else if f7 = 0x3#7 ∧ r2 = 0x0#5 ∧ f3 = 0x5#3 ∧ rd = 0x0#5 then some (.kill r1)
  else if f7 = 0x4#7 ∧ f3 = 0x5#3 then some (.islctl rd r1 r2)
  else if f7 = 0x5#7 ∧ r2 = 0x0#5 ∧ f3 = 0x5#3 ∧ rd = 0x0#5 then some (.vsave r1)
  else if f7 = 0x6#7 ∧ r2 = 0x0#5 ∧ f3 = 0x5#3 ∧ rd = 0x0#5 then some (.vrestore r1)
  else if f7 = 0x7#7 ∧ f3 = 0x5#3 ∧ rd = 0x0#5 then some (.wayset r1 r2)
  else none

/-- Major opcode 0x2b (Table 2-1). -/
def decodeCustom1 (f7 : BitVec 7) (r2 r1 : BitVec 5) (f3 : BitVec 3) (rd : BitVec 5) : Option Instr :=
  if f7.extractLsb' 1 6 = 0x0#6 then some (.vadd rd f3 r1 r2 (f7.extractLsb' 0 1))
  else if f7.extractLsb' 1 6 = 0x1#6 then some (.vsub rd f3 r1 r2 (f7.extractLsb' 0 1))
  else if f7.extractLsb' 1 6 = 0x2#6 then some (.vmul rd f3 r1 r2 (f7.extractLsb' 0 1))
  else if f7.extractLsb' 1 6 = 0x3#6 then some (.vmulh rd f3 r1 r2 (f7.extractLsb' 0 1))
  else if f7.extractLsb' 1 6 = 0x4#6 then some (.vmulhu rd f3 r1 r2 (f7.extractLsb' 0 1))
  else if f7.extractLsb' 1 6 = 0x5#6 then some (.vmacc rd f3 r1 r2 (f7.extractLsb' 0 1))
  else if f7.extractLsb' 1 6 = 0x6#6 then some (.vand rd f3 r1 r2 (f7.extractLsb' 0 1))
  else if f7.extractLsb' 1 6 = 0x7#6 then some (.vor rd f3 r1 r2 (f7.extractLsb' 0 1))
  else if f7.extractLsb' 1 6 = 0x8#6 then some (.vxor rd f3 r1 r2 (f7.extractLsb' 0 1))
  else if f7.extractLsb' 1 6 = 0x9#6 then some (.vsll rd f3 r1 r2 (f7.extractLsb' 0 1))
  else if f7.extractLsb' 1 6 = 0xa#6 then some (.vsrl rd f3 r1 r2 (f7.extractLsb' 0 1))
  else if f7.extractLsb' 1 6 = 0xb#6 then some (.vsra rd f3 r1 r2 (f7.extractLsb' 0 1))
  else if f7.extractLsb' 1 6 = 0xc#6 then some (.vmin rd f3 r1 r2 (f7.extractLsb' 0 1))
  else if f7.extractLsb' 1 6 = 0xd#6 then some (.vminu rd f3 r1 r2 (f7.extractLsb' 0 1))
  else if f7.extractLsb' 1 6 = 0xe#6 then some (.vmax rd f3 r1 r2 (f7.extractLsb' 0 1))
  else if f7.extractLsb' 1 6 = 0xf#6 then some (.vmaxu rd f3 r1 r2 (f7.extractLsb' 0 1))
  else if f7.extractLsb' 1 6 = 0x10#6 ∧ rd.extractLsb' 3 2 = 0x0#2 then some (.vseq (rd.extractLsb' 0 3) f3 r1 r2 (f7.extractLsb' 0 1))
  else if f7.extractLsb' 1 6 = 0x11#6 ∧ rd.extractLsb' 3 2 = 0x0#2 then some (.vsne (rd.extractLsb' 0 3) f3 r1 r2 (f7.extractLsb' 0 1))
  else if f7.extractLsb' 1 6 = 0x12#6 ∧ rd.extractLsb' 3 2 = 0x0#2 then some (.vslt (rd.extractLsb' 0 3) f3 r1 r2 (f7.extractLsb' 0 1))
  else if f7.extractLsb' 1 6 = 0x13#6 ∧ rd.extractLsb' 3 2 = 0x0#2 then some (.vsltu (rd.extractLsb' 0 3) f3 r1 r2 (f7.extractLsb' 0 1))
  else if f7.extractLsb' 1 6 = 0x14#6 ∧ rd.extractLsb' 3 2 = 0x0#2 then some (.vsle (rd.extractLsb' 0 3) f3 r1 r2 (f7.extractLsb' 0 1))
  else if f7.extractLsb' 1 6 = 0x15#6 ∧ rd.extractLsb' 3 2 = 0x0#2 then some (.vsleu (rd.extractLsb' 0 3) f3 r1 r2 (f7.extractLsb' 0 1))
  else if f7.extractLsb' 1 6 = 0x16#6 then some (.vfadd rd f3 r1 r2 (f7.extractLsb' 0 1))
  else if f7.extractLsb' 1 6 = 0x17#6 then some (.vfsub rd f3 r1 r2 (f7.extractLsb' 0 1))
  else if f7.extractLsb' 1 6 = 0x18#6 then some (.vfmul rd f3 r1 r2 (f7.extractLsb' 0 1))
  else if f7.extractLsb' 1 6 = 0x19#6 then some (.vfdiv rd f3 r1 r2 (f7.extractLsb' 0 1))
  else if f7 = 0x34#7 ∧ r1 = 0x0#5 then some (.vfsqrt rd f3 r2)
  else if f7.extractLsb' 1 6 = 0x1b#6 then some (.vfmacc rd f3 r1 r2 (f7.extractLsb' 0 1))
  else if f7.extractLsb' 1 6 = 0x1c#6 then some (.vfnmacc rd f3 r1 r2 (f7.extractLsb' 0 1))
  else if f7.extractLsb' 1 6 = 0x1d#6 then some (.vfmsac rd f3 r1 r2 (f7.extractLsb' 0 1))
  else if f7.extractLsb' 1 6 = 0x1e#6 then some (.vfmin rd f3 r1 r2 (f7.extractLsb' 0 1))
  else if f7.extractLsb' 1 6 = 0x1f#6 then some (.vfmax rd f3 r1 r2 (f7.extractLsb' 0 1))
  else if f7.extractLsb' 1 6 = 0x20#6 then some (.vfsgnj rd f3 r1 r2 (f7.extractLsb' 0 1))
  else if f7 = 0x42#7 ∧ r1 = 0x0#5 then some (.vfclass rd f3 r2)
  else if f7.extractLsb' 1 6 = 0x22#6 ∧ rd.extractLsb' 3 2 = 0x0#2 then some (.vfeq (rd.extractLsb' 0 3) f3 r1 r2 (f7.extractLsb' 0 1))
  else if f7.extractLsb' 1 6 = 0x23#6 ∧ rd.extractLsb' 3 2 = 0x0#2 then some (.vflt (rd.extractLsb' 0 3) f3 r1 r2 (f7.extractLsb' 0 1))
  else if f7.extractLsb' 1 6 = 0x24#6 ∧ rd.extractLsb' 3 2 = 0x0#2 then some (.vfle (rd.extractLsb' 0 3) f3 r1 r2 (f7.extractLsb' 0 1))
  else if f7.extractLsb' 1 6 = 0x25#6 ∧ r2 = 0x0#5 then some (.vmv rd f3 r1 (f7.extractLsb' 0 1))
  else if f7 = 0x4c#7 ∧ r1 = 0x0#5 ∧ f3 = 0x0#3 then some (.vmvxs rd r2)
  else if f7.extractLsb' 1 6 = 0x27#6 then some (.vmerge rd f3 r1 r2 (f7.extractLsb' 0 1))
  else if f7 = 0x51#7 then some (.vslideup rd f3 r1 r2)
  else if f7 = 0x53#7 then some (.vslidedn rd f3 r1 r2)
  else if f7 = 0x54#7 then some (.vperm rd f3 r1 r2)
  else if f7 = 0x56#7 ∧ r1 = 0x0#5 then some (.vcompress rd f3 r2)
  else if f7 = 0x58#7 ∧ r2 = 0x0#5 ∧ r1 = 0x0#5 then some (.vid rd f3)
  else if f7 = 0x5a#7 ∧ r2 = 0x0#5 ∧ r1 = 0x0#5 then some (.viota rd f3)
  else if f7 = 0x5c#7 then some (.vredsum rd f3 r1 r2)
  else if f7 = 0x5e#7 then some (.vredosum rd f3 r1 r2)
  else if f7 = 0x60#7 then some (.vredmin rd f3 r1 r2)
  else if f7 = 0x62#7 then some (.vredmax rd f3 r1 r2)
  else if f7 = 0x64#7 then some (.vfredsum rd f3 r1 r2)
  else if f7 = 0x66#7 then some (.vfredosum rd f3 r1 r2)
  else if f7 = 0x68#7 then some (.vfredmin rd f3 r1 r2)
  else if f7 = 0x6a#7 then some (.vfredmax rd f3 r1 r2)
  else if f7 = 0x6c#7 ∧ r2.extractLsb' 3 2 = 0x0#2 ∧ r1.extractLsb' 3 2 = 0x0#2 ∧ f3 = 0x0#3 ∧ rd.extractLsb' 3 2 = 0x0#2 then some (.kand (rd.extractLsb' 0 3) (r1.extractLsb' 0 3) (r2.extractLsb' 0 3))
  else if f7 = 0x6e#7 ∧ r2.extractLsb' 3 2 = 0x0#2 ∧ r1.extractLsb' 3 2 = 0x0#2 ∧ f3 = 0x0#3 ∧ rd.extractLsb' 3 2 = 0x0#2 then some (.kor (rd.extractLsb' 0 3) (r1.extractLsb' 0 3) (r2.extractLsb' 0 3))
  else if f7 = 0x70#7 ∧ r2.extractLsb' 3 2 = 0x0#2 ∧ r1.extractLsb' 3 2 = 0x0#2 ∧ f3 = 0x0#3 ∧ rd.extractLsb' 3 2 = 0x0#2 then some (.kxor (rd.extractLsb' 0 3) (r1.extractLsb' 0 3) (r2.extractLsb' 0 3))
  else if f7 = 0x72#7 ∧ r2.extractLsb' 3 2 = 0x0#2 ∧ r1 = 0x0#5 ∧ f3 = 0x0#3 then some (.kpopc rd (r2.extractLsb' 0 3))
  else if f7 = 0x74#7 ∧ r2.extractLsb' 3 2 = 0x0#2 ∧ r1 = 0x0#5 ∧ f3 = 0x0#3 then some (.kfirst rd (r2.extractLsb' 0 3))
  else if f7 = 0x76#7 ∧ r2.extractLsb' 3 2 = 0x0#2 ∧ r1 = 0x0#5 ∧ f3 = 0x0#3 ∧ rd.extractLsb' 3 2 = 0x0#2 then some (.kmv (rd.extractLsb' 0 3) (r2.extractLsb' 0 3))
  else if f7 = 0x78#7 ∧ r1.extractLsb' 2 3 = 0x0#3 ∧ f3 = 0x0#3 then some (.vbvrd rd (r1.extractLsb' 0 2) r2)
  else if f7 = 0x7b#7 ∧ r2.extractLsb' 2 3 = 0x0#3 ∧ f3 = 0x0#3 then some (.vbvwr rd r1 (r2.extractLsb' 0 2))
  else if f7 = 0x7c#7 ∧ r1.extractLsb' 4 1 = 0x0#1 then some (.vcvt rd f3 (r1.extractLsb' 0 4) r2)
  else none

/-- Major opcode 0x5b (Table 2-1). -/
noncomputable def decodeCustom2 (f7 : BitVec 7) (r2 r1 : BitVec 5) (f3 : BitVec 3) (rd : BitVec 5) : Option Instr :=
  if f7.extractLsb' 1 6 = 0x0#6 ∧ r2 = 0x0#5 then some (.vld rd f3 r1 (f7.extractLsb' 0 1))
  else if f7.extractLsb' 1 6 = 0x1#6 ∧ r2 = 0x0#5 then some (.vst rd f3 r1 (f7.extractLsb' 0 1))
  else if f7.extractLsb' 1 6 = 0x2#6 then some (.vlds rd f3 r1 r2 (f7.extractLsb' 0 1))
  else if f7.extractLsb' 1 6 = 0x3#6 then some (.vsts rd f3 r1 r2 (f7.extractLsb' 0 1))
  else if f7.extractLsb' 1 6 = 0x4#6 then some (.vldx rd f3 r1 r2 (f7.extractLsb' 0 1))
  else if f7.extractLsb' 1 6 = 0x5#6 then some (.vstx rd f3 r1 r2 (f7.extractLsb' 0 1))
  else if f7.extractLsb' 1 6 = 0x6#6 ∧ r2 = 0x0#5 ∧ f3 = 0x0#3 ∧ rd = 0x0#5 then some (.vpref r1 (f7.extractLsb' 0 1))
  else if f7 = 0xe#7 ∧ r2 = 0x0#5 then some (.vldfe rd f3 r1)
  else if f7 = 0x10#7 ∧ r2 = 0x0#5 then some (.vstfe rd f3 r1)
  else if f7 = 0x12#7 ∧ r2.extractLsb' 4 1 = 0x0#1 ∧ f3 = 0x0#3 then some (.vqld rd r1 (r2.extractLsb' 0 4))
  else if f7.extractLsb' 1 6 = 0xa#6 ∧ f3 = 0x0#3 then some (.vqst rd r1 (r2.extractLsb' 0 4) ((f7.extractLsb' 0 1) ++ (r2.extractLsb' 4 1)))
  else if f7 = 0x16#7 then some (.vamoadd rd f3 r1 r2)
  else if f7 = 0x18#7 then some (.vamomin rd f3 r1 r2)
  else if f7 = 0x1a#7 then some (.vamomax rd f3 r1 r2)
  else if f7 = 0x1c#7 ∧ r2 = 0x0#5 ∧ f3 = 0x0#3 then some (.vsend rd r1)
  else if f7 = 0x1e#7 ∧ r2 = 0x0#5 ∧ f3 = 0x0#3 then some (.vrecv rd r1)
  else none

/-- Major opcode 0x7b (Table 2-1). -/
noncomputable def decodeCustom3 (f7 : BitVec 7) (r2 r1 : BitVec 5) (f3 : BitVec 3) (rd : BitVec 5) : Option Instr :=
  if f7.extractLsb' 0 2 = 0x0#2 ∧ f3 = 0x0#3 then some (.vmmaE4e4 rd r1 r2 (f7.extractLsb' 2 5))
  else if f7.extractLsb' 0 2 = 0x1#2 ∧ f3 = 0x0#3 then some (.vmmaE5e4 rd r1 r2 (f7.extractLsb' 2 5))
  else if f7.extractLsb' 0 2 = 0x2#2 ∧ f3 = 0x0#3 then some (.vmmaBf16 rd r1 r2 (f7.extractLsb' 2 5))
  else if f7.extractLsb' 0 2 = 0x3#2 ∧ f3 = 0x0#3 then some (.vmmaE4q rd r1 r2 (f7.extractLsb' 2 5))
  else if f7 = 0x0#7 ∧ r2 = 0x0#5 ∧ r1 = 0x0#5 ∧ f3 = 0x1#3 then some (.mlease rd)
  else if f7 = 0x1#7 ∧ r2 = 0x0#5 ∧ r1 = 0x0#5 ∧ f3 = 0x1#3 ∧ rd = 0x0#5 then some (.mrel)
  else if f7 = 0x2#7 ∧ f3 = 0x1#3 ∧ rd = 0x0#5 then some (.mwld r1 r2)
  else if f7 = 0x3#7 ∧ r2 = 0x0#5 ∧ r1 = 0x0#5 ∧ f3 = 0x1#3 ∧ rd.extractLsb' 2 3 = 0x0#3 then some (.mzero (rd.extractLsb' 0 2))
  else if f7 = 0x4#7 ∧ r2 = 0x0#5 ∧ f3 = 0x1#3 ∧ rd.extractLsb' 2 3 = 0x0#3 then some (.mld (rd.extractLsb' 0 2) r1)
  else if f7 = 0x5#7 ∧ f3 = 0x1#3 ∧ rd.extractLsb' 3 2 = 0x0#2 then some (.mst (rd.extractLsb' 0 2) (rd.extractLsb' 2 1) r1 (r2.extractLsb' 0 3) (r2.extractLsb' 3 2))
  else if f7.extractLsb' 6 1 = 0x0#1 ∧ f7.extractLsb' 0 4 = 0x6#4 ∧ f3 = 0x1#3 then some (.mmacE4e4 (rd.extractLsb' 0 2) r1 r2 ((f7.extractLsb' 4 2) ++ (rd.extractLsb' 2 3)))
  else if f7.extractLsb' 6 1 = 0x0#1 ∧ f7.extractLsb' 0 4 = 0x7#4 ∧ f3 = 0x1#3 then some (.mmacE5e4 (rd.extractLsb' 0 2) r1 r2 ((f7.extractLsb' 4 2) ++ (rd.extractLsb' 2 3)))
  else if f7.extractLsb' 6 1 = 0x0#1 ∧ f7.extractLsb' 0 4 = 0x8#4 ∧ f3 = 0x1#3 then some (.mmacE4e5 (rd.extractLsb' 0 2) r1 r2 ((f7.extractLsb' 4 2) ++ (rd.extractLsb' 2 3)))
  else if f7.extractLsb' 6 1 = 0x0#1 ∧ f7.extractLsb' 0 4 = 0x9#4 ∧ f3 = 0x1#3 then some (.mmacE5e5 (rd.extractLsb' 0 2) r1 r2 ((f7.extractLsb' 4 2) ++ (rd.extractLsb' 2 3)))
  else if f7.extractLsb' 6 1 = 0x0#1 ∧ f7.extractLsb' 0 4 = 0xa#4 ∧ f3 = 0x1#3 then some (.mmacBf16 (rd.extractLsb' 0 2) r1 r2 ((f7.extractLsb' 4 2) ++ (rd.extractLsb' 2 3)))
  else if f7.extractLsb' 6 1 = 0x0#1 ∧ f7.extractLsb' 0 4 = 0xb#4 ∧ f3 = 0x1#3 then some (.mmacE4q (rd.extractLsb' 0 2) r1 r2 ((f7.extractLsb' 4 2) ++ (rd.extractLsb' 2 3)))
  else if f7.extractLsb' 6 1 = 0x0#1 ∧ f7.extractLsb' 0 4 = 0xc#4 ∧ f3 = 0x1#3 then some (.mmacF4 (rd.extractLsb' 0 2) r1 r2 ((f7.extractLsb' 4 2) ++ (rd.extractLsb' 2 3)))
  else if f7.extractLsb' 6 1 = 0x0#1 ∧ f7.extractLsb' 0 4 = 0xd#4 ∧ f3 = 0x1#3 then some (.mmacF4q (rd.extractLsb' 0 2) r1 r2 ((f7.extractLsb' 4 2) ++ (rd.extractLsb' 2 3)))
  else if f7 = 0x0#7 ∧ f3 = 0x2#3 then some (.rbox rd r1 r2)
  else if f7 = 0x1#7 ∧ f3 = 0x2#3 then some (.rtri rd r1 r2)
  else if f7 = 0x2#7 ∧ f3 = 0x2#3 then some (.rcand rd r1 r2)
  else if f7 = 0x3#7 ∧ r2 = 0x0#5 ∧ f3 = 0x2#3 then some (.racc rd r1)
  else if f7 = 0x4#7 ∧ r2 = 0x0#5 ∧ f3 = 0x2#3 then some (.rrej rd r1)
  else if f7 = 0x5#7 ∧ f3 = 0x2#3 then some (.qsph rd r1 r2)
  else if f7 = 0x6#7 ∧ f3 = 0x2#3 then some (.qknn rd r1 r2)
  else if f7 = 0x7#7 ∧ f3 = 0x2#3 then some (.qkey rd r1 r2)
  else if f7 = 0x0#7 ∧ f3 = 0x3#3 then some (.vedge rd r1 r2)
  else if f7 = 0x1#7 ∧ f3 = 0x3#3 then some (.tsamp rd r1 r2)
  else if f7 = 0x2#7 ∧ f3 = 0x3#3 then some (.tfetch rd r1 r2)
  else if f7 = 0x3#7 ∧ f3 = 0x3#3 then some (.tdecode rd r1 r2)
  else none

/-- The instruction that the fields stand for, reserved operand values not yet refused. -/
noncomputable def decodeFields (f : Fields) : Option Instr :=
  if f.op = 0x37#7 then decodeLui f.f7 f.r2 f.r1 f.f3 f.rd
  else if f.op = 0x17#7 then decodeAuipc f.f7 f.r2 f.r1 f.f3 f.rd
  else if f.op = 0x6f#7 then decodeJal f.f7 f.r2 f.r1 f.f3 f.rd
  else if f.op = 0x67#7 then decodeJalr f.f7 f.r2 f.r1 f.f3 f.rd
  else if f.op = 0x63#7 then decodeBranch f.f7 f.r2 f.r1 f.f3 f.rd
  else if f.op = 0x3#7 then decodeLoad f.f7 f.r2 f.r1 f.f3 f.rd
  else if f.op = 0x23#7 then decodeStore f.f7 f.r2 f.r1 f.f3 f.rd
  else if f.op = 0x13#7 then decodeOpImm f.f7 f.r2 f.r1 f.f3 f.rd
  else if f.op = 0x1b#7 then decodeOpImm32 f.f7 f.r2 f.r1 f.f3 f.rd
  else if f.op = 0x33#7 then decodeOp f.f7 f.r2 f.r1 f.f3 f.rd
  else if f.op = 0x3b#7 then decodeOp32 f.f7 f.r2 f.r1 f.f3 f.rd
  else if f.op = 0xf#7 then decodeMiscMem f.f7 f.r2 f.r1 f.f3 f.rd
  else if f.op = 0x73#7 then decodeSystem f.f7 f.r2 f.r1 f.f3 f.rd
  else if f.op = 0x2f#7 then decodeAmo f.f7 f.r2 f.r1 f.f3 f.rd
  else if f.op = 0x7#7 then decodeLoadFp f.f7 f.r2 f.r1 f.f3 f.rd
  else if f.op = 0x27#7 then decodeStoreFp f.f7 f.r2 f.r1 f.f3 f.rd
  else if f.op = 0x43#7 then decodeMadd f.f7 f.r2 f.r1 f.f3 f.rd
  else if f.op = 0x47#7 then decodeMsub f.f7 f.r2 f.r1 f.f3 f.rd
  else if f.op = 0x4b#7 then decodeNmsub f.f7 f.r2 f.r1 f.f3 f.rd
  else if f.op = 0x4f#7 then decodeNmadd f.f7 f.r2 f.r1 f.f3 f.rd
  else if f.op = 0x53#7 then decodeOpFp f.f7 f.r2 f.r1 f.f3 f.rd
  else if f.op = 0xb#7 then decodeCustom0 f.f7 f.r2 f.r1 f.f3 f.rd
  else if f.op = 0x2b#7 then decodeCustom1 f.f7 f.r2 f.r1 f.f3 f.rd
  else if f.op = 0x5b#7 then decodeCustom2 f.f7 f.r2 f.r1 f.f3 f.rd
  else if f.op = 0x7b#7 then decodeCustom3 f.f7 f.r2 f.r1 f.f3 f.rd
  else none

/-- The decoder: none is an illegal instruction (R27, R28, R31). -/
noncomputable def decode (w : BitVec 32) : Option Instr :=
  (decodeFields (Fields.ofWord w)).filter Instr.wellFormed

/-- The decoder on bytes in memory order, little-endian (R2, R26): an instruction and the bytes after it. -/
noncomputable def decodeBytes : List (BitVec 8) → Option (Instr × List (BitVec 8))
  | b0 :: b1 :: b2 :: b3 :: rest => (decode (b3 ++ b2 ++ b1 ++ b0)).map (fun i => (i, rest))
  | _ => none

/-! ## Which words are assigned (R31): the decoder answers for them and for no others -/

/-- Whether a word of major opcode 0x37 is assigned. -/
def assignedLui (f7 : BitVec 7) (r2 r1 : BitVec 5) (f3 : BitVec 3) (rd : BitVec 5) : Bool :=
  true

/-- Whether a word of major opcode 0x17 is assigned. -/
def assignedAuipc (f7 : BitVec 7) (r2 r1 : BitVec 5) (f3 : BitVec 3) (rd : BitVec 5) : Bool :=
  true

/-- Whether a word of major opcode 0x6f is assigned. -/
def assignedJal (f7 : BitVec 7) (r2 r1 : BitVec 5) (f3 : BitVec 3) (rd : BitVec 5) : Bool :=
  true

/-- Whether a word of major opcode 0x67 is assigned. -/
def assignedJalr (f7 : BitVec 7) (r2 r1 : BitVec 5) (f3 : BitVec 3) (rd : BitVec 5) : Bool :=
  if f3 = 0x0#3 then true
  else false

/-- Whether a word of major opcode 0x63 is assigned. -/
def assignedBranch (f7 : BitVec 7) (r2 r1 : BitVec 5) (f3 : BitVec 3) (rd : BitVec 5) : Bool :=
  if f3 = 0x0#3 then true
  else if f3 = 0x1#3 then true
  else if f3 = 0x4#3 then true
  else if f3 = 0x5#3 then true
  else if f3 = 0x6#3 then true
  else if f3 = 0x7#3 then true
  else false

/-- Whether a word of major opcode 0x03 is assigned. -/
def assignedLoad (f7 : BitVec 7) (r2 r1 : BitVec 5) (f3 : BitVec 3) (rd : BitVec 5) : Bool :=
  if f3 = 0x0#3 then true
  else if f3 = 0x1#3 then true
  else if f3 = 0x2#3 then true
  else if f3 = 0x3#3 then true
  else if f3 = 0x4#3 then true
  else if f3 = 0x5#3 then true
  else if f3 = 0x6#3 then true
  else false

/-- Whether a word of major opcode 0x23 is assigned. -/
def assignedStore (f7 : BitVec 7) (r2 r1 : BitVec 5) (f3 : BitVec 3) (rd : BitVec 5) : Bool :=
  if f3 = 0x0#3 then true
  else if f3 = 0x1#3 then true
  else if f3 = 0x2#3 then true
  else if f3 = 0x3#3 then true
  else false

/-- Whether a word of major opcode 0x13 is assigned. -/
def assignedOpImm (f7 : BitVec 7) (r2 r1 : BitVec 5) (f3 : BitVec 3) (rd : BitVec 5) : Bool :=
  if f3 = 0x0#3 then true
  else if f3 = 0x2#3 then true
  else if f3 = 0x3#3 then true
  else if f3 = 0x4#3 then true
  else if f3 = 0x6#3 then true
  else if f3 = 0x7#3 then true
  else if f7.extractLsb' 1 6 = 0x0#6 ∧ f3 = 0x1#3 then true
  else if f7.extractLsb' 1 6 = 0x0#6 ∧ f3 = 0x5#3 then true
  else if f7.extractLsb' 1 6 = 0x10#6 ∧ f3 = 0x5#3 then true
  else false

/-- Whether a word of major opcode 0x1b is assigned. -/
def assignedOpImm32 (f7 : BitVec 7) (r2 r1 : BitVec 5) (f3 : BitVec 3) (rd : BitVec 5) : Bool :=
  if f3 = 0x0#3 then true
  else if f7 = 0x0#7 ∧ f3 = 0x1#3 then true
  else if f7 = 0x0#7 ∧ f3 = 0x5#3 then true
  else if f7 = 0x20#7 ∧ f3 = 0x5#3 then true
  else false

/-- Whether a word of major opcode 0x33 is assigned. -/
def assignedOp (f7 : BitVec 7) (r2 r1 : BitVec 5) (f3 : BitVec 3) (rd : BitVec 5) : Bool :=
  if f7 = 0x0#7 ∧ f3 = 0x0#3 then true
  else if f7 = 0x20#7 ∧ f3 = 0x0#3 then true
  else if f7 = 0x0#7 ∧ f3 = 0x1#3 then true
  else if f7 = 0x0#7 ∧ f3 = 0x2#3 then true
  else if f7 = 0x0#7 ∧ f3 = 0x3#3 then true
  else if f7 = 0x0#7 ∧ f3 = 0x4#3 then true
  else if f7 = 0x0#7 ∧ f3 = 0x5#3 then true
  else if f7 = 0x20#7 ∧ f3 = 0x5#3 then true
  else if f7 = 0x0#7 ∧ f3 = 0x6#3 then true
  else if f7 = 0x0#7 ∧ f3 = 0x7#3 then true
  else if f7 = 0x1#7 ∧ f3 = 0x0#3 then true
  else if f7 = 0x1#7 ∧ f3 = 0x1#3 then true
  else if f7 = 0x1#7 ∧ f3 = 0x2#3 then true
  else if f7 = 0x1#7 ∧ f3 = 0x3#3 then true
  else if f7 = 0x1#7 ∧ f3 = 0x4#3 then true
  else if f7 = 0x1#7 ∧ f3 = 0x5#3 then true
  else if f7 = 0x1#7 ∧ f3 = 0x6#3 then true
  else if f7 = 0x1#7 ∧ f3 = 0x7#3 then true
  else false

/-- Whether a word of major opcode 0x3b is assigned. -/
def assignedOp32 (f7 : BitVec 7) (r2 r1 : BitVec 5) (f3 : BitVec 3) (rd : BitVec 5) : Bool :=
  if f7 = 0x0#7 ∧ f3 = 0x0#3 then true
  else if f7 = 0x20#7 ∧ f3 = 0x0#3 then true
  else if f7 = 0x0#7 ∧ f3 = 0x1#3 then true
  else if f7 = 0x0#7 ∧ f3 = 0x5#3 then true
  else if f7 = 0x20#7 ∧ f3 = 0x5#3 then true
  else if f7 = 0x1#7 ∧ f3 = 0x0#3 then true
  else if f7 = 0x1#7 ∧ f3 = 0x4#3 then true
  else if f7 = 0x1#7 ∧ f3 = 0x5#3 then true
  else if f7 = 0x1#7 ∧ f3 = 0x6#3 then true
  else if f7 = 0x1#7 ∧ f3 = 0x7#3 then true
  else false

/-- Whether a word of major opcode 0x0f is assigned. -/
def assignedMiscMem (f7 : BitVec 7) (r2 r1 : BitVec 5) (f3 : BitVec 3) (rd : BitVec 5) : Bool :=
  if f7 = 0x0#7 ∧ r2 = 0x10#5 ∧ r1 = 0x0#5 ∧ f3 = 0x0#3 ∧ rd = 0x0#5 then true
  else if f7 = 0x41#7 ∧ r2 = 0x13#5 ∧ f3 = 0x0#3 then true
  else if f3 = 0x0#3 then !((f7.extractLsb' 3 4) = 0x8#4 && ((f7.extractLsb' 0 3) ++ (r2.extractLsb' 4 1)) = 0x3#4 && (r2.extractLsb' 0 4) = 0x3#4) && !(rd = 0#5 && r1 = 0#5 && (r2.extractLsb' 0 4) = 0#4 && ((f7.extractLsb' 0 3) ++ (r2.extractLsb' 4 1)) = 1#4 && (f7.extractLsb' 3 4) = 0#4)
  else if f3 = 0x1#3 then true
  else false

/-- Whether a word of major opcode 0x73 is assigned. -/
def assignedSystem (f7 : BitVec 7) (r2 r1 : BitVec 5) (f3 : BitVec 3) (rd : BitVec 5) : Bool :=
  if f7 = 0x0#7 ∧ r2 = 0x0#5 ∧ r1 = 0x0#5 ∧ f3 = 0x0#3 ∧ rd = 0x0#5 then true
  else if f7 = 0x0#7 ∧ r2 = 0x1#5 ∧ r1 = 0x0#5 ∧ f3 = 0x0#3 ∧ rd = 0x0#5 then true
  else if f3 = 0x1#3 then true
  else if f3 = 0x2#3 then true
  else if f3 = 0x3#3 then true
  else if f3 = 0x5#3 then true
  else if f3 = 0x6#3 then true
  else if f3 = 0x7#3 then true
  else if f7 = 0x8#7 ∧ r2 = 0x2#5 ∧ r1 = 0x0#5 ∧ f3 = 0x0#3 ∧ rd = 0x0#5 then true
  else if f7 = 0x18#7 ∧ r2 = 0x2#5 ∧ r1 = 0x0#5 ∧ f3 = 0x0#3 ∧ rd = 0x0#5 then true
  else if f7 = 0x8#7 ∧ r2 = 0x5#5 ∧ r1 = 0x0#5 ∧ f3 = 0x0#3 ∧ rd = 0x0#5 then true
  else if f7 = 0x9#7 ∧ f3 = 0x0#3 ∧ rd = 0x0#5 then true
  else false

/-- Whether a word of major opcode 0x2f is assigned. -/
def assignedAmo (f7 : BitVec 7) (r2 r1 : BitVec 5) (f3 : BitVec 3) (rd : BitVec 5) : Bool :=
  if f7.extractLsb' 2 5 = 0x2#5 ∧ r2 = 0x0#5 ∧ f3 = 0x2#3 then true
  else if f7.extractLsb' 2 5 = 0x2#5 ∧ r2 = 0x0#5 ∧ f3 = 0x3#3 then true
  else if f7.extractLsb' 2 5 = 0x3#5 ∧ f3 = 0x2#3 then true
  else if f7.extractLsb' 2 5 = 0x3#5 ∧ f3 = 0x3#3 then true
  else if f7.extractLsb' 2 5 = 0x1#5 ∧ f3 = 0x2#3 then true
  else if f7.extractLsb' 2 5 = 0x1#5 ∧ f3 = 0x3#3 then true
  else if f7.extractLsb' 2 5 = 0x0#5 ∧ f3 = 0x2#3 then true
  else if f7.extractLsb' 2 5 = 0x0#5 ∧ f3 = 0x3#3 then true
  else if f7.extractLsb' 2 5 = 0x4#5 ∧ f3 = 0x2#3 then true
  else if f7.extractLsb' 2 5 = 0x4#5 ∧ f3 = 0x3#3 then true
  else if f7.extractLsb' 2 5 = 0xc#5 ∧ f3 = 0x2#3 then true
  else if f7.extractLsb' 2 5 = 0xc#5 ∧ f3 = 0x3#3 then true
  else if f7.extractLsb' 2 5 = 0x8#5 ∧ f3 = 0x2#3 then true
  else if f7.extractLsb' 2 5 = 0x8#5 ∧ f3 = 0x3#3 then true
  else if f7.extractLsb' 2 5 = 0x10#5 ∧ f3 = 0x2#3 then true
  else if f7.extractLsb' 2 5 = 0x10#5 ∧ f3 = 0x3#3 then true
  else if f7.extractLsb' 2 5 = 0x14#5 ∧ f3 = 0x2#3 then true
  else if f7.extractLsb' 2 5 = 0x14#5 ∧ f3 = 0x3#3 then true
  else if f7.extractLsb' 2 5 = 0x18#5 ∧ f3 = 0x2#3 then true
  else if f7.extractLsb' 2 5 = 0x18#5 ∧ f3 = 0x3#3 then true
  else if f7.extractLsb' 2 5 = 0x1c#5 ∧ f3 = 0x2#3 then true
  else if f7.extractLsb' 2 5 = 0x1c#5 ∧ f3 = 0x3#3 then true
  else false

/-- Whether a word of major opcode 0x07 is assigned. -/
def assignedLoadFp (f7 : BitVec 7) (r2 r1 : BitVec 5) (f3 : BitVec 3) (rd : BitVec 5) : Bool :=
  if f3 = 0x2#3 then true
  else false

/-- Whether a word of major opcode 0x27 is assigned. -/
def assignedStoreFp (f7 : BitVec 7) (r2 r1 : BitVec 5) (f3 : BitVec 3) (rd : BitVec 5) : Bool :=
  if f3 = 0x2#3 then true
  else false

/-- Whether a word of major opcode 0x43 is assigned. -/
def assignedMadd (f7 : BitVec 7) (r2 r1 : BitVec 5) (f3 : BitVec 3) (rd : BitVec 5) : Bool :=
  if f7.extractLsb' 0 2 = 0x0#2 then rmLegal f3
  else false

/-- Whether a word of major opcode 0x47 is assigned. -/
def assignedMsub (f7 : BitVec 7) (r2 r1 : BitVec 5) (f3 : BitVec 3) (rd : BitVec 5) : Bool :=
  if f7.extractLsb' 0 2 = 0x0#2 then rmLegal f3
  else false

/-- Whether a word of major opcode 0x4b is assigned. -/
def assignedNmsub (f7 : BitVec 7) (r2 r1 : BitVec 5) (f3 : BitVec 3) (rd : BitVec 5) : Bool :=
  if f7.extractLsb' 0 2 = 0x0#2 then rmLegal f3
  else false

/-- Whether a word of major opcode 0x4f is assigned. -/
def assignedNmadd (f7 : BitVec 7) (r2 r1 : BitVec 5) (f3 : BitVec 3) (rd : BitVec 5) : Bool :=
  if f7.extractLsb' 0 2 = 0x0#2 then rmLegal f3
  else false

/-- Whether a word of major opcode 0x53 is assigned. -/
def assignedOpFp (f7 : BitVec 7) (r2 r1 : BitVec 5) (f3 : BitVec 3) (rd : BitVec 5) : Bool :=
  if f7 = 0x0#7 then rmLegal f3
  else if f7 = 0x4#7 then rmLegal f3
  else if f7 = 0x8#7 then rmLegal f3
  else if f7 = 0xc#7 then rmLegal f3
  else if f7 = 0x2c#7 ∧ r2 = 0x0#5 then rmLegal f3
  else if f7 = 0x10#7 ∧ f3 = 0x0#3 then true
  else if f7 = 0x10#7 ∧ f3 = 0x1#3 then true
  else if f7 = 0x10#7 ∧ f3 = 0x2#3 then true
  else if f7 = 0x14#7 ∧ f3 = 0x0#3 then true
  else if f7 = 0x14#7 ∧ f3 = 0x1#3 then true
  else if f7 = 0x60#7 ∧ r2 = 0x0#5 then rmLegal f3
  else if f7 = 0x60#7 ∧ r2 = 0x1#5 then rmLegal f3
  else if f7 = 0x60#7 ∧ r2 = 0x2#5 then rmLegal f3
  else if f7 = 0x60#7 ∧ r2 = 0x3#5 then rmLegal f3
  else if f7 = 0x68#7 ∧ r2 = 0x0#5 then rmLegal f3
  else if f7 = 0x68#7 ∧ r2 = 0x1#5 then rmLegal f3
  else if f7 = 0x68#7 ∧ r2 = 0x2#5 then rmLegal f3
  else if f7 = 0x68#7 ∧ r2 = 0x3#5 then rmLegal f3
  else if f7 = 0x70#7 ∧ r2 = 0x0#5 ∧ f3 = 0x0#3 then true
  else if f7 = 0x70#7 ∧ r2 = 0x0#5 ∧ f3 = 0x1#3 then true
  else if f7 = 0x50#7 ∧ f3 = 0x2#3 then true
  else if f7 = 0x50#7 ∧ f3 = 0x1#3 then true
  else if f7 = 0x50#7 ∧ f3 = 0x0#3 then true
  else if f7 = 0x78#7 ∧ r2 = 0x0#5 ∧ f3 = 0x0#3 then true
  else false

/-- Whether a word of major opcode 0x0b is assigned. -/
def assignedCustom0 (f7 : BitVec 7) (r2 r1 : BitVec 5) (f3 : BitVec 3) (rd : BitVec 5) : Bool :=
  if f7 = 0x2#7 ∧ r2 = 0x0#5 ∧ r1 = 0x0#5 ∧ f3 = 0x2#3 ∧ rd.extractLsb' 3 2 = 0x0#2 then true
  else if r2.extractLsb' 2 3 = 0x0#3 ∧ f3 = 0x0#3 then r1 != 0#5
  else if f7 = 0x0#7 ∧ r2 = 0x0#5 ∧ f3 = 0x1#3 ∧ rd.extractLsb' 2 3 = 0x0#3 then true
  else if f7 = 0x1#7 ∧ r2 = 0x0#5 ∧ f3 = 0x1#3 then true
  else if f7 = 0x2#7 ∧ r2.extractLsb' 4 1 = 0x0#1 ∧ f3 = 0x1#3 then typeDefined (r2.extractLsb' 0 4)
  else if f7 = 0x3#7 ∧ r2 = 0x0#5 ∧ f3 = 0x1#3 ∧ rd.extractLsb' 2 3 = 0x0#3 then true
  else if f7 = 0x4#7 ∧ r2 = 0x0#5 ∧ r1 = 0x0#5 ∧ f3 = 0x1#3 ∧ rd.extractLsb' 2 3 = 0x0#3 then true
  else if f7 = 0x5#7 ∧ r2.extractLsb' 2 3 = 0x0#3 ∧ r1 = 0x0#5 ∧ f3 = 0x1#3 then true
  else if f7 = 0x6#7 ∧ r2 = 0x0#5 ∧ f3 = 0x1#3 ∧ rd.extractLsb' 2 3 = 0x0#3 then true
  else if f7 = 0x7#7 ∧ r2.extractLsb' 1 4 = 0x0#4 ∧ f3 = 0x1#3 then true
  else if f7 = 0x0#7 ∧ r2 = 0x0#5 ∧ f3 = 0x2#3 then true
  else if f7 = 0x1#7 ∧ f3 = 0x2#3 ∧ rd = 0x0#5 then true
  else if f7 = 0x2#7 ∧ r2 = 0x0#5 ∧ f3 = 0x2#3 ∧ rd.extractLsb' 3 2 = 0x0#2 then r1 != 0#5
  else if f7 = 0x3#7 ∧ r2.extractLsb' 3 2 = 0x0#2 ∧ f3 = 0x2#3 then true
  else if f7 = 0x4#7 ∧ r2.extractLsb' 3 2 = 0x0#2 ∧ r1 = 0x0#5 ∧ f3 = 0x2#3 then true
  else if f7 = 0x5#7 ∧ r2 = 0x0#5 ∧ f3 = 0x2#3 ∧ rd.extractLsb' 3 2 = 0x0#2 then true
  else if f7 = 0x6#7 ∧ r2.extractLsb' 3 2 = 0x0#2 ∧ f3 = 0x2#3 then true
  else if f7 = 0x7#7 ∧ f3 = 0x2#3 ∧ rd.extractLsb' 2 3 = 0x0#3 then r2.toNat < 7
  else if f7 = 0x8#7 ∧ r2.extractLsb' 2 3 = 0x0#3 ∧ r1 = 0x0#5 ∧ f3 = 0x2#3 then true
  else if f7 = 0x9#7 ∧ r2.extractLsb' 2 3 = 0x0#3 ∧ r1 = 0x0#5 ∧ f3 = 0x2#3 then true
  else if f7 = 0xa#7 ∧ f3 = 0x2#3 ∧ rd.extractLsb' 2 3 = 0x0#3 then true
  else if f7 = 0xb#7 ∧ r2 = 0x0#5 ∧ f3 = 0x2#3 then true
  else if f7 = 0xc#7 ∧ r2 = 0x0#5 ∧ f3 = 0x2#3 ∧ rd = 0x0#5 then true
  else if f7 = 0xd#7 ∧ f3 = 0x2#3 then true
  else if f7 = 0x0#7 ∧ f3 = 0x3#3 then true
  else if f7 = 0x1#7 ∧ f3 = 0x3#3 then true
  else if f7 = 0x2#7 ∧ f3 = 0x3#3 ∧ rd = 0x0#5 then r2.toNat < 5
  else if f7 = 0x3#7 ∧ r2 = 0x0#5 ∧ r1 = 0x0#5 ∧ f3 = 0x3#3 ∧ rd = 0x0#5 then true
  else if f7 = 0x4#7 ∧ f3 = 0x3#3 ∧ rd = 0x0#5 then true
  else if f7 = 0x5#7 ∧ f3 = 0x3#3 ∧ rd = 0x0#5 then true
  else if f7 = 0x6#7 ∧ r2 = 0x0#5 ∧ f3 = 0x3#3 ∧ rd = 0x0#5 then true
  else if f7 = 0x7#7 ∧ f3 = 0x3#3 ∧ rd = 0x0#5 then true
  else if f7 = 0x8#7 ∧ f3 = 0x3#3 ∧ rd = 0x0#5 then true
  else if f7.extractLsb' 3 4 = 0x0#4 ∧ r2 = 0x0#5 ∧ r1 = 0x0#5 ∧ f3 = 0x4#3 ∧ rd = 0x0#5 then (f7.extractLsb' 0 3).toNat < 6
  else if f7.extractLsb' 3 4 = 0x1#4 ∧ r2 = 0x0#5 ∧ r1 = 0x0#5 ∧ f3 = 0x4#3 ∧ rd = 0x0#5 then (f7.extractLsb' 0 3).toNat < 6
  else if f7.extractLsb' 3 4 = 0x2#4 ∧ r2 = 0x0#5 ∧ r1 = 0x0#5 ∧ f3 = 0x4#3 ∧ rd = 0x0#5 then (f7.extractLsb' 0 3).toNat < 6
  else if f7.extractLsb' 3 4 = 0x3#4 ∧ f3 = 0x4#3 then (f7.extractLsb' 0 3).toNat < 6
  else if f7.extractLsb' 3 4 = 0x4#4 ∧ f3 = 0x4#3 then (f7.extractLsb' 0 3).toNat < 6
  else if f7.extractLsb' 3 4 = 0x5#4 ∧ r2 = 0x0#5 ∧ f3 = 0x4#3 ∧ rd = 0x0#5 then (f7.extractLsb' 0 3).toNat < 3
  else if f7.extractLsb' 3 4 = 0x6#4 ∧ r2 = 0x0#5 ∧ f3 = 0x4#3 ∧ rd = 0x0#5 then (f7.extractLsb' 0 3).toNat < 3
  else if f7.extractLsb' 3 4 = 0x7#4 ∧ r2 = 0x0#5 ∧ r1 = 0x0#5 ∧ f3 = 0x4#3 then (f7.extractLsb' 0 3).toNat < 3
  else if f7 = 0x40#7 ∧ r2 = 0x0#5 ∧ f3 = 0x4#3 then true
  else if f7 = 0x0#7 ∧ r2 = 0x0#5 ∧ r1 = 0x0#5 ∧ f3 = 0x5#3 ∧ rd = 0x0#5 then true
  else if f7 = 0x1#7 ∧ r2 = 0x0#5 ∧ f3 = 0x5#3 then true
  else if f7 = 0x2#7 ∧ f3 = 0x5#3 ∧ rd = 0x0#5 then true
  else if f7 = 0x3#7 ∧ r2 = 0x0#5 ∧ f3 = 0x5#3 ∧ rd = 0x0#5 then true
  else if f7 = 0x4#7 ∧ f3 = 0x5#3 then true
  else if f7 = 0x5#7 ∧ r2 = 0x0#5 ∧ f3 = 0x5#3 ∧ rd = 0x0#5 then true
  else if f7 = 0x6#7 ∧ r2 = 0x0#5 ∧ f3 = 0x5#3 ∧ rd = 0x0#5 then true
  else if f7 = 0x7#7 ∧ f3 = 0x5#3 ∧ rd = 0x0#5 then true
  else false

/-- Whether a word of major opcode 0x2b is assigned. -/
def assignedCustom1 (f7 : BitVec 7) (r2 r1 : BitVec 5) (f3 : BitVec 3) (rd : BitVec 5) : Bool :=
  if f7.extractLsb' 1 6 = 0x0#6 then true
  else if f7.extractLsb' 1 6 = 0x1#6 then true
  else if f7.extractLsb' 1 6 = 0x2#6 then true
  else if f7.extractLsb' 1 6 = 0x3#6 then true
  else if f7.extractLsb' 1 6 = 0x4#6 then true
  else if f7.extractLsb' 1 6 = 0x5#6 then true
  else if f7.extractLsb' 1 6 = 0x6#6 then true
  else if f7.extractLsb' 1 6 = 0x7#6 then true
  else if f7.extractLsb' 1 6 = 0x8#6 then true
  else if f7.extractLsb' 1 6 = 0x9#6 then true
  else if f7.extractLsb' 1 6 = 0xa#6 then true
  else if f7.extractLsb' 1 6 = 0xb#6 then true
  else if f7.extractLsb' 1 6 = 0xc#6 then true
  else if f7.extractLsb' 1 6 = 0xd#6 then true
  else if f7.extractLsb' 1 6 = 0xe#6 then true
  else if f7.extractLsb' 1 6 = 0xf#6 then true
  else if f7.extractLsb' 1 6 = 0x10#6 ∧ rd.extractLsb' 3 2 = 0x0#2 then true
  else if f7.extractLsb' 1 6 = 0x11#6 ∧ rd.extractLsb' 3 2 = 0x0#2 then true
  else if f7.extractLsb' 1 6 = 0x12#6 ∧ rd.extractLsb' 3 2 = 0x0#2 then true
  else if f7.extractLsb' 1 6 = 0x13#6 ∧ rd.extractLsb' 3 2 = 0x0#2 then true
  else if f7.extractLsb' 1 6 = 0x14#6 ∧ rd.extractLsb' 3 2 = 0x0#2 then true
  else if f7.extractLsb' 1 6 = 0x15#6 ∧ rd.extractLsb' 3 2 = 0x0#2 then true
  else if f7.extractLsb' 1 6 = 0x16#6 then true
  else if f7.extractLsb' 1 6 = 0x17#6 then true
  else if f7.extractLsb' 1 6 = 0x18#6 then true
  else if f7.extractLsb' 1 6 = 0x19#6 then true
  else if f7 = 0x34#7 ∧ r1 = 0x0#5 then true
  else if f7.extractLsb' 1 6 = 0x1b#6 then true
  else if f7.extractLsb' 1 6 = 0x1c#6 then true
  else if f7.extractLsb' 1 6 = 0x1d#6 then true
  else if f7.extractLsb' 1 6 = 0x1e#6 then true
  else if f7.extractLsb' 1 6 = 0x1f#6 then true
  else if f7.extractLsb' 1 6 = 0x20#6 then true
  else if f7 = 0x42#7 ∧ r1 = 0x0#5 then true
  else if f7.extractLsb' 1 6 = 0x22#6 ∧ rd.extractLsb' 3 2 = 0x0#2 then true
  else if f7.extractLsb' 1 6 = 0x23#6 ∧ rd.extractLsb' 3 2 = 0x0#2 then true
  else if f7.extractLsb' 1 6 = 0x24#6 ∧ rd.extractLsb' 3 2 = 0x0#2 then true
  else if f7.extractLsb' 1 6 = 0x25#6 ∧ r2 = 0x0#5 then true
  else if f7 = 0x4c#7 ∧ r1 = 0x0#5 ∧ f3 = 0x0#3 then true
  else if f7.extractLsb' 1 6 = 0x27#6 then true
  else if f7 = 0x51#7 then true
  else if f7 = 0x53#7 then true
  else if f7 = 0x54#7 then true
  else if f7 = 0x56#7 ∧ r1 = 0x0#5 then true
  else if f7 = 0x58#7 ∧ r2 = 0x0#5 ∧ r1 = 0x0#5 then true
  else if f7 = 0x5a#7 ∧ r2 = 0x0#5 ∧ r1 = 0x0#5 then true
  else if f7 = 0x5c#7 then true
  else if f7 = 0x5e#7 then true
  else if f7 = 0x60#7 then true
  else if f7 = 0x62#7 then true
  else if f7 = 0x64#7 then true
  else if f7 = 0x66#7 then true
  else if f7 = 0x68#7 then true
  else if f7 = 0x6a#7 then true
  else if f7 = 0x6c#7 ∧ r2.extractLsb' 3 2 = 0x0#2 ∧ r1.extractLsb' 3 2 = 0x0#2 ∧ f3 = 0x0#3 ∧ rd.extractLsb' 3 2 = 0x0#2 then true
  else if f7 = 0x6e#7 ∧ r2.extractLsb' 3 2 = 0x0#2 ∧ r1.extractLsb' 3 2 = 0x0#2 ∧ f3 = 0x0#3 ∧ rd.extractLsb' 3 2 = 0x0#2 then true
  else if f7 = 0x70#7 ∧ r2.extractLsb' 3 2 = 0x0#2 ∧ r1.extractLsb' 3 2 = 0x0#2 ∧ f3 = 0x0#3 ∧ rd.extractLsb' 3 2 = 0x0#2 then true
  else if f7 = 0x72#7 ∧ r2.extractLsb' 3 2 = 0x0#2 ∧ r1 = 0x0#5 ∧ f3 = 0x0#3 then true
  else if f7 = 0x74#7 ∧ r2.extractLsb' 3 2 = 0x0#2 ∧ r1 = 0x0#5 ∧ f3 = 0x0#3 then true
  else if f7 = 0x76#7 ∧ r2.extractLsb' 3 2 = 0x0#2 ∧ r1 = 0x0#5 ∧ f3 = 0x0#3 ∧ rd.extractLsb' 3 2 = 0x0#2 then true
  else if f7 = 0x78#7 ∧ r1.extractLsb' 2 3 = 0x0#3 ∧ f3 = 0x0#3 then true
  else if f7 = 0x7b#7 ∧ r2.extractLsb' 2 3 = 0x0#3 ∧ f3 = 0x0#3 then true
  else if f7 = 0x7c#7 ∧ r1.extractLsb' 4 1 = 0x0#1 then typeDefined (r1.extractLsb' 0 4)
  else false

/-- Whether a word of major opcode 0x5b is assigned. -/
def assignedCustom2 (f7 : BitVec 7) (r2 r1 : BitVec 5) (f3 : BitVec 3) (rd : BitVec 5) : Bool :=
  if f7.extractLsb' 1 6 = 0x0#6 ∧ r2 = 0x0#5 then true
  else if f7.extractLsb' 1 6 = 0x1#6 ∧ r2 = 0x0#5 then true
  else if f7.extractLsb' 1 6 = 0x2#6 then true
  else if f7.extractLsb' 1 6 = 0x3#6 then true
  else if f7.extractLsb' 1 6 = 0x4#6 then true
  else if f7.extractLsb' 1 6 = 0x5#6 then true
  else if f7.extractLsb' 1 6 = 0x6#6 ∧ r2 = 0x0#5 ∧ f3 = 0x0#3 ∧ rd = 0x0#5 then true
  else if f7 = 0xe#7 ∧ r2 = 0x0#5 then true
  else if f7 = 0x10#7 ∧ r2 = 0x0#5 then true
  else if f7 = 0x12#7 ∧ r2.extractLsb' 4 1 = 0x0#1 ∧ f3 = 0x0#3 then (r2.extractLsb' 0 4).toNat < 6
  else if f7.extractLsb' 1 6 = 0xa#6 ∧ f3 = 0x0#3 then (r2.extractLsb' 0 4).toNat < 6
  else if f7 = 0x16#7 then true
  else if f7 = 0x18#7 then true
  else if f7 = 0x1a#7 then true
  else if f7 = 0x1c#7 ∧ r2 = 0x0#5 ∧ f3 = 0x0#3 then true
  else if f7 = 0x1e#7 ∧ r2 = 0x0#5 ∧ f3 = 0x0#3 then true
  else false

/-- Whether a word of major opcode 0x7b is assigned. -/
def assignedCustom3 (f7 : BitVec 7) (r2 r1 : BitVec 5) (f3 : BitVec 3) (rd : BitVec 5) : Bool :=
  if f7.extractLsb' 0 2 = 0x0#2 ∧ f3 = 0x0#3 then ((f7.extractLsb' 2 5) = 0#5 || (f7.extractLsb' 2 5) = 16#5)
  else if f7.extractLsb' 0 2 = 0x1#2 ∧ f3 = 0x0#3 then ((f7.extractLsb' 2 5) = 0#5 || (f7.extractLsb' 2 5) = 16#5)
  else if f7.extractLsb' 0 2 = 0x2#2 ∧ f3 = 0x0#3 then ((f7.extractLsb' 2 5) = 0#5 || (f7.extractLsb' 2 5) = 16#5)
  else if f7.extractLsb' 0 2 = 0x3#2 ∧ f3 = 0x0#3 then ((f7.extractLsb' 2 5) = 0#5 || (f7.extractLsb' 2 5) = 16#5)
  else if f7 = 0x0#7 ∧ r2 = 0x0#5 ∧ r1 = 0x0#5 ∧ f3 = 0x1#3 then true
  else if f7 = 0x1#7 ∧ r2 = 0x0#5 ∧ r1 = 0x0#5 ∧ f3 = 0x1#3 ∧ rd = 0x0#5 then true
  else if f7 = 0x2#7 ∧ f3 = 0x1#3 ∧ rd = 0x0#5 then true
  else if f7 = 0x3#7 ∧ r2 = 0x0#5 ∧ r1 = 0x0#5 ∧ f3 = 0x1#3 ∧ rd.extractLsb' 2 3 = 0x0#3 then true
  else if f7 = 0x4#7 ∧ r2 = 0x0#5 ∧ f3 = 0x1#3 ∧ rd.extractLsb' 2 3 = 0x0#3 then true
  else if f7 = 0x5#7 ∧ f3 = 0x1#3 ∧ rd.extractLsb' 3 2 = 0x0#2 then (r2.extractLsb' 0 3).toNat < 6
  else if f7.extractLsb' 6 1 = 0x0#1 ∧ f7.extractLsb' 0 4 = 0x6#4 ∧ f3 = 0x1#3 then true
  else if f7.extractLsb' 6 1 = 0x0#1 ∧ f7.extractLsb' 0 4 = 0x7#4 ∧ f3 = 0x1#3 then true
  else if f7.extractLsb' 6 1 = 0x0#1 ∧ f7.extractLsb' 0 4 = 0x8#4 ∧ f3 = 0x1#3 then true
  else if f7.extractLsb' 6 1 = 0x0#1 ∧ f7.extractLsb' 0 4 = 0x9#4 ∧ f3 = 0x1#3 then true
  else if f7.extractLsb' 6 1 = 0x0#1 ∧ f7.extractLsb' 0 4 = 0xa#4 ∧ f3 = 0x1#3 then true
  else if f7.extractLsb' 6 1 = 0x0#1 ∧ f7.extractLsb' 0 4 = 0xb#4 ∧ f3 = 0x1#3 then true
  else if f7.extractLsb' 6 1 = 0x0#1 ∧ f7.extractLsb' 0 4 = 0xc#4 ∧ f3 = 0x1#3 then true
  else if f7.extractLsb' 6 1 = 0x0#1 ∧ f7.extractLsb' 0 4 = 0xd#4 ∧ f3 = 0x1#3 then true
  else if f7 = 0x0#7 ∧ f3 = 0x2#3 then true
  else if f7 = 0x1#7 ∧ f3 = 0x2#3 then true
  else if f7 = 0x2#7 ∧ f3 = 0x2#3 then true
  else if f7 = 0x3#7 ∧ r2 = 0x0#5 ∧ f3 = 0x2#3 then true
  else if f7 = 0x4#7 ∧ r2 = 0x0#5 ∧ f3 = 0x2#3 then true
  else if f7 = 0x5#7 ∧ f3 = 0x2#3 then true
  else if f7 = 0x6#7 ∧ f3 = 0x2#3 then true
  else if f7 = 0x7#7 ∧ f3 = 0x2#3 then true
  else if f7 = 0x0#7 ∧ f3 = 0x3#3 then true
  else if f7 = 0x1#7 ∧ f3 = 0x3#3 then true
  else if f7 = 0x2#7 ∧ f3 = 0x3#3 then true
  else if f7 = 0x3#7 ∧ f3 = 0x3#3 then true
  else false

/-- Whether the fields are those of an instruction with legal operand values. -/
def assignedFields (f : Fields) : Bool :=
  if f.op = 0x37#7 then assignedLui f.f7 f.r2 f.r1 f.f3 f.rd
  else if f.op = 0x17#7 then assignedAuipc f.f7 f.r2 f.r1 f.f3 f.rd
  else if f.op = 0x6f#7 then assignedJal f.f7 f.r2 f.r1 f.f3 f.rd
  else if f.op = 0x67#7 then assignedJalr f.f7 f.r2 f.r1 f.f3 f.rd
  else if f.op = 0x63#7 then assignedBranch f.f7 f.r2 f.r1 f.f3 f.rd
  else if f.op = 0x3#7 then assignedLoad f.f7 f.r2 f.r1 f.f3 f.rd
  else if f.op = 0x23#7 then assignedStore f.f7 f.r2 f.r1 f.f3 f.rd
  else if f.op = 0x13#7 then assignedOpImm f.f7 f.r2 f.r1 f.f3 f.rd
  else if f.op = 0x1b#7 then assignedOpImm32 f.f7 f.r2 f.r1 f.f3 f.rd
  else if f.op = 0x33#7 then assignedOp f.f7 f.r2 f.r1 f.f3 f.rd
  else if f.op = 0x3b#7 then assignedOp32 f.f7 f.r2 f.r1 f.f3 f.rd
  else if f.op = 0xf#7 then assignedMiscMem f.f7 f.r2 f.r1 f.f3 f.rd
  else if f.op = 0x73#7 then assignedSystem f.f7 f.r2 f.r1 f.f3 f.rd
  else if f.op = 0x2f#7 then assignedAmo f.f7 f.r2 f.r1 f.f3 f.rd
  else if f.op = 0x7#7 then assignedLoadFp f.f7 f.r2 f.r1 f.f3 f.rd
  else if f.op = 0x27#7 then assignedStoreFp f.f7 f.r2 f.r1 f.f3 f.rd
  else if f.op = 0x43#7 then assignedMadd f.f7 f.r2 f.r1 f.f3 f.rd
  else if f.op = 0x47#7 then assignedMsub f.f7 f.r2 f.r1 f.f3 f.rd
  else if f.op = 0x4b#7 then assignedNmsub f.f7 f.r2 f.r1 f.f3 f.rd
  else if f.op = 0x4f#7 then assignedNmadd f.f7 f.r2 f.r1 f.f3 f.rd
  else if f.op = 0x53#7 then assignedOpFp f.f7 f.r2 f.r1 f.f3 f.rd
  else if f.op = 0xb#7 then assignedCustom0 f.f7 f.r2 f.r1 f.f3 f.rd
  else if f.op = 0x2b#7 then assignedCustom1 f.f7 f.r2 f.r1 f.f3 f.rd
  else if f.op = 0x5b#7 then assignedCustom2 f.f7 f.r2 f.r1 f.f3 f.rd
  else if f.op = 0x7b#7 then assignedCustom3 f.f7 f.r2 f.r1 f.f3 f.rd
  else false

/-- Whether a word is an instruction's. -/
def assigned (w : BitVec 32) : Bool := assignedFields (Fields.ofWord w)

/-- The fields of an instruction; an event has none. -/
def Instr.fields : Instr → Option Fields
  | .lui rd imm => some (fieldsLui rd imm)
  | .auipc rd imm => some (fieldsAuipc rd imm)
  | .jal rd off => some (fieldsJal rd off)
  | .jalr rd rs1 imm => some (fieldsJalr rd rs1 imm)
  | .beq rs1 rs2 off => some (fieldsBeq rs1 rs2 off)
  | .bne rs1 rs2 off => some (fieldsBne rs1 rs2 off)
  | .blt rs1 rs2 off => some (fieldsBlt rs1 rs2 off)
  | .bge rs1 rs2 off => some (fieldsBge rs1 rs2 off)
  | .bltu rs1 rs2 off => some (fieldsBltu rs1 rs2 off)
  | .bgeu rs1 rs2 off => some (fieldsBgeu rs1 rs2 off)
  | .lb rd rs1 imm => some (fieldsLb rd rs1 imm)
  | .lh rd rs1 imm => some (fieldsLh rd rs1 imm)
  | .lw rd rs1 imm => some (fieldsLw rd rs1 imm)
  | .ld rd rs1 imm => some (fieldsLd rd rs1 imm)
  | .lbu rd rs1 imm => some (fieldsLbu rd rs1 imm)
  | .lhu rd rs1 imm => some (fieldsLhu rd rs1 imm)
  | .lwu rd rs1 imm => some (fieldsLwu rd rs1 imm)
  | .sb rs1 rs2 imm => some (fieldsSb rs1 rs2 imm)
  | .sh rs1 rs2 imm => some (fieldsSh rs1 rs2 imm)
  | .sw rs1 rs2 imm => some (fieldsSw rs1 rs2 imm)
  | .sd rs1 rs2 imm => some (fieldsSd rs1 rs2 imm)
  | .addi rd rs1 imm => some (fieldsAddi rd rs1 imm)
  | .slti rd rs1 imm => some (fieldsSlti rd rs1 imm)
  | .sltiu rd rs1 imm => some (fieldsSltiu rd rs1 imm)
  | .xori rd rs1 imm => some (fieldsXori rd rs1 imm)
  | .ori rd rs1 imm => some (fieldsOri rd rs1 imm)
  | .andi rd rs1 imm => some (fieldsAndi rd rs1 imm)
  | .slli rd rs1 shamt => some (fieldsSlli rd rs1 shamt)
  | .srli rd rs1 shamt => some (fieldsSrli rd rs1 shamt)
  | .srai rd rs1 shamt => some (fieldsSrai rd rs1 shamt)
  | .addiw rd rs1 imm => some (fieldsAddiw rd rs1 imm)
  | .slliw rd rs1 shamt => some (fieldsSlliw rd rs1 shamt)
  | .srliw rd rs1 shamt => some (fieldsSrliw rd rs1 shamt)
  | .sraiw rd rs1 shamt => some (fieldsSraiw rd rs1 shamt)
  | .add rd rs1 rs2 => some (fieldsAdd rd rs1 rs2)
  | .sub rd rs1 rs2 => some (fieldsSub rd rs1 rs2)
  | .sll rd rs1 rs2 => some (fieldsSll rd rs1 rs2)
  | .slt rd rs1 rs2 => some (fieldsSlt rd rs1 rs2)
  | .sltu rd rs1 rs2 => some (fieldsSltu rd rs1 rs2)
  | .xor rd rs1 rs2 => some (fieldsXor rd rs1 rs2)
  | .srl rd rs1 rs2 => some (fieldsSrl rd rs1 rs2)
  | .sra rd rs1 rs2 => some (fieldsSra rd rs1 rs2)
  | .or rd rs1 rs2 => some (fieldsOr rd rs1 rs2)
  | .and rd rs1 rs2 => some (fieldsAnd rd rs1 rs2)
  | .addw rd rs1 rs2 => some (fieldsAddw rd rs1 rs2)
  | .subw rd rs1 rs2 => some (fieldsSubw rd rs1 rs2)
  | .sllw rd rs1 rs2 => some (fieldsSllw rd rs1 rs2)
  | .srlw rd rs1 rs2 => some (fieldsSrlw rd rs1 rs2)
  | .sraw rd rs1 rs2 => some (fieldsSraw rd rs1 rs2)
  | .fence rd rs1 succ pred fm => some (fieldsFence rd rs1 succ pred fm)
  | .fenceTso rd rs1 => some (fieldsFenceTso rd rs1)
  | .pause => some (fieldsPause)
  | .fenceI rd rs1 imm => some (fieldsFenceI rd rs1 imm)
  | .ecall => some (fieldsEcall)
  | .ebreak => some (fieldsEbreak)
  | .mul rd rs1 rs2 => some (fieldsMul rd rs1 rs2)
  | .mulh rd rs1 rs2 => some (fieldsMulh rd rs1 rs2)
  | .mulhsu rd rs1 rs2 => some (fieldsMulhsu rd rs1 rs2)
  | .mulhu rd rs1 rs2 => some (fieldsMulhu rd rs1 rs2)
  | .div rd rs1 rs2 => some (fieldsDiv rd rs1 rs2)
  | .divu rd rs1 rs2 => some (fieldsDivu rd rs1 rs2)
  | .rem rd rs1 rs2 => some (fieldsRem rd rs1 rs2)
  | .remu rd rs1 rs2 => some (fieldsRemu rd rs1 rs2)
  | .mulw rd rs1 rs2 => some (fieldsMulw rd rs1 rs2)
  | .divw rd rs1 rs2 => some (fieldsDivw rd rs1 rs2)
  | .divuw rd rs1 rs2 => some (fieldsDivuw rd rs1 rs2)
  | .remw rd rs1 rs2 => some (fieldsRemw rd rs1 rs2)
  | .remuw rd rs1 rs2 => some (fieldsRemuw rd rs1 rs2)
  | .lrW rd rs1 rl aq => some (fieldsLrW rd rs1 rl aq)
  | .lrD rd rs1 rl aq => some (fieldsLrD rd rs1 rl aq)
  | .scW rd rs1 rs2 rl aq => some (fieldsScW rd rs1 rs2 rl aq)
  | .scD rd rs1 rs2 rl aq => some (fieldsScD rd rs1 rs2 rl aq)
  | .amoswapW rd rs1 rs2 rl aq => some (fieldsAmoswapW rd rs1 rs2 rl aq)
  | .amoswapD rd rs1 rs2 rl aq => some (fieldsAmoswapD rd rs1 rs2 rl aq)
  | .amoaddW rd rs1 rs2 rl aq => some (fieldsAmoaddW rd rs1 rs2 rl aq)
  | .amoaddD rd rs1 rs2 rl aq => some (fieldsAmoaddD rd rs1 rs2 rl aq)
  | .amoxorW rd rs1 rs2 rl aq => some (fieldsAmoxorW rd rs1 rs2 rl aq)
  | .amoxorD rd rs1 rs2 rl aq => some (fieldsAmoxorD rd rs1 rs2 rl aq)
  | .amoandW rd rs1 rs2 rl aq => some (fieldsAmoandW rd rs1 rs2 rl aq)
  | .amoandD rd rs1 rs2 rl aq => some (fieldsAmoandD rd rs1 rs2 rl aq)
  | .amoorW rd rs1 rs2 rl aq => some (fieldsAmoorW rd rs1 rs2 rl aq)
  | .amoorD rd rs1 rs2 rl aq => some (fieldsAmoorD rd rs1 rs2 rl aq)
  | .amominW rd rs1 rs2 rl aq => some (fieldsAmominW rd rs1 rs2 rl aq)
  | .amominD rd rs1 rs2 rl aq => some (fieldsAmominD rd rs1 rs2 rl aq)
  | .amomaxW rd rs1 rs2 rl aq => some (fieldsAmomaxW rd rs1 rs2 rl aq)
  | .amomaxD rd rs1 rs2 rl aq => some (fieldsAmomaxD rd rs1 rs2 rl aq)
  | .amominuW rd rs1 rs2 rl aq => some (fieldsAmominuW rd rs1 rs2 rl aq)
  | .amominuD rd rs1 rs2 rl aq => some (fieldsAmominuD rd rs1 rs2 rl aq)
  | .amomaxuW rd rs1 rs2 rl aq => some (fieldsAmomaxuW rd rs1 rs2 rl aq)
  | .amomaxuD rd rs1 rs2 rl aq => some (fieldsAmomaxuD rd rs1 rs2 rl aq)
  | .flw rd rs1 imm => some (fieldsFlw rd rs1 imm)
  | .fsw rs1 rs2 imm => some (fieldsFsw rs1 rs2 imm)
  | .fmaddS rd rm rs1 rs2 rs3 => some (fieldsFmaddS rd rm rs1 rs2 rs3)
  | .fmsubS rd rm rs1 rs2 rs3 => some (fieldsFmsubS rd rm rs1 rs2 rs3)
  | .fnmsubS rd rm rs1 rs2 rs3 => some (fieldsFnmsubS rd rm rs1 rs2 rs3)
  | .fnmaddS rd rm rs1 rs2 rs3 => some (fieldsFnmaddS rd rm rs1 rs2 rs3)
  | .faddS rd rm rs1 rs2 => some (fieldsFaddS rd rm rs1 rs2)
  | .fsubS rd rm rs1 rs2 => some (fieldsFsubS rd rm rs1 rs2)
  | .fmulS rd rm rs1 rs2 => some (fieldsFmulS rd rm rs1 rs2)
  | .fdivS rd rm rs1 rs2 => some (fieldsFdivS rd rm rs1 rs2)
  | .fsqrtS rd rm rs1 => some (fieldsFsqrtS rd rm rs1)
  | .fsgnjS rd rs1 rs2 => some (fieldsFsgnjS rd rs1 rs2)
  | .fsgnjnS rd rs1 rs2 => some (fieldsFsgnjnS rd rs1 rs2)
  | .fsgnjxS rd rs1 rs2 => some (fieldsFsgnjxS rd rs1 rs2)
  | .fminS rd rs1 rs2 => some (fieldsFminS rd rs1 rs2)
  | .fmaxS rd rs1 rs2 => some (fieldsFmaxS rd rs1 rs2)
  | .fcvtWS rd rm rs1 => some (fieldsFcvtWS rd rm rs1)
  | .fcvtWuS rd rm rs1 => some (fieldsFcvtWuS rd rm rs1)
  | .fcvtLS rd rm rs1 => some (fieldsFcvtLS rd rm rs1)
  | .fcvtLuS rd rm rs1 => some (fieldsFcvtLuS rd rm rs1)
  | .fcvtSW rd rm rs1 => some (fieldsFcvtSW rd rm rs1)
  | .fcvtSWu rd rm rs1 => some (fieldsFcvtSWu rd rm rs1)
  | .fcvtSL rd rm rs1 => some (fieldsFcvtSL rd rm rs1)
  | .fcvtSLu rd rm rs1 => some (fieldsFcvtSLu rd rm rs1)
  | .fmvXW rd rs1 => some (fieldsFmvXW rd rs1)
  | .fclassS rd rs1 => some (fieldsFclassS rd rs1)
  | .feqS rd rs1 rs2 => some (fieldsFeqS rd rs1 rs2)
  | .fltS rd rs1 rs2 => some (fieldsFltS rd rs1 rs2)
  | .fleS rd rs1 rs2 => some (fieldsFleS rd rs1 rs2)
  | .fmvWX rd rs1 => some (fieldsFmvWX rd rs1)
  | .csrrw rd rs1 csr => some (fieldsCsrrw rd rs1 csr)
  | .csrrs rd rs1 csr => some (fieldsCsrrs rd rs1 csr)
  | .csrrc rd rs1 csr => some (fieldsCsrrc rd rs1 csr)
  | .csrrwi rd u csr => some (fieldsCsrrwi rd u csr)
  | .csrrsi rd u csr => some (fieldsCsrrsi rd u csr)
  | .csrrci rd u csr => some (fieldsCsrrci rd u csr)
  | .sret => some (fieldsSret)
  | .mret => some (fieldsMret)
  | .wfi => some (fieldsWfi)
  | .sfenceVma rs1 rs2 => some (fieldsSfenceVma rs1 rs2)
  | .vloop xc slot off => some (fieldsVloop xc slot off)
  | .vloopcfg slot rs1 => some (fieldsVloopcfg slot rs1)
  | .vcfg rd rs1 => some (fieldsVcfg rd rs1)
  | .vsetlen rd rs1 ty => some (fieldsVsetlen rd rs1 ty)
  | .lycfg ly rs1 => some (fieldsLycfg ly rs1)
  | .lyclr ly => some (fieldsLyclr ly)
  | .lysave d ly => some (fieldsLysave d ly)
  | .lyload ly v1 => some (fieldsLyload ly v1)
  | .flsc rd rs1 sf => some (fieldsFlsc rd rs1 sf)
  | .ldfe rd rs1 => some (fieldsLdfe rd rs1)
  | .stfe rs1 rs2 => some (fieldsStfe rs1 rs2)
  | .ringset ring rs1 => some (fieldsRingset ring rs1)
  | .ringsetWithdraw ring => some (fieldsRingsetWithdraw ring)
  | .ringacq rd rs1 ring => some (fieldsRingacq rd rs1 ring)
  | .ringrel rd ring => some (fieldsRingrel rd ring)
  | .ringexp ring rs1 => some (fieldsRingexp ring rs1)
  | .ringtst rd rs1 ring => some (fieldsRingtst rd rs1 ring)
  | .cpset ch rs1 sel => some (fieldsCpset ch rs1 sel)
  | .cplaunch rd ch => some (fieldsCplaunch rd ch)
  | .cpstat rd ch => some (fieldsCpstat rd ch)
  | .waitc na nb nc nd => some (fieldsWaitc na nb nc nd)
  | .strmopen rd rs1 => some (fieldsStrmopen rd rs1)
  | .strmclose rs1 => some (fieldsStrmclose rs1)
  | .tack rd rs1 rs2 => some (fieldsTack rd rs1 rs2)
  | .qpush rd rs1 rs2 => some (fieldsQpush rd rs1 rs2)
  | .qpop rd rs1 rs2 => some (fieldsQpop rd rs1 rs2)
  | .exit rs1 cnt => some (fieldsExit rs1 cnt)
  | .yield => some (fieldsYield)
  | .wdq rs1 rs2 => some (fieldsWdq rs1 rs2)
  | .tcommit rs1 rs2 => some (fieldsTcommit rs1 rs2)
  | .tskip rs1 => some (fieldsTskip rs1)
  | .tcfg rs1 rs2 => some (fieldsTcfg rs1 rs2)
  | .gangarm rs1 rs2 => some (fieldsGangarm rs1 rs2)
  | .fenceSv scope => some (fieldsFenceSv scope)
  | .fenceVs scope => some (fieldsFenceVs scope)
  | .fenceVv scope => some (fieldsFenceVv scope)
  | .amoaddf rd rs1 rs2 scope => some (fieldsAmoaddf rd rs1 rs2 scope)
  | .amomaxf rd rs1 rs2 scope => some (fieldsAmomaxf rd rs1 rs2 scope)
  | .bwcfg rs1 wire => some (fieldsBwcfg rs1 wire)
  | .bwarr rs1 wire => some (fieldsBwarr rs1 wire)
  | .bwtst rd wire => some (fieldsBwtst rd wire)
  | .wev rd rs1 => some (fieldsWev rd rs1)
  | .upret => some (fieldsUpret)
  | .fqpop rd rs1 => some (fieldsFqpop rd rs1)
  | .vstupd rs1 rs2 => some (fieldsVstupd rs1 rs2)
  | .kill rs1 => some (fieldsKill rs1)
  | .islctl rd rs1 rs2 => some (fieldsIslctl rd rs1 rs2)
  | .vsave rs1 => some (fieldsVsave rs1)
  | .vrestore rs1 => some (fieldsVrestore rs1)
  | .wayset rs1 rs2 => some (fieldsWayset rs1 rs2)
  | .vadd d k v1 v2 s => some (fieldsVadd d k v1 v2 s)
  | .vsub d k v1 v2 s => some (fieldsVsub d k v1 v2 s)
  | .vmul d k v1 v2 s => some (fieldsVmul d k v1 v2 s)
  | .vmulh d k v1 v2 s => some (fieldsVmulh d k v1 v2 s)
  | .vmulhu d k v1 v2 s => some (fieldsVmulhu d k v1 v2 s)
  | .vmacc d k v1 v2 s => some (fieldsVmacc d k v1 v2 s)
  | .vand d k v1 v2 s => some (fieldsVand d k v1 v2 s)
  | .vor d k v1 v2 s => some (fieldsVor d k v1 v2 s)
  | .vxor d k v1 v2 s => some (fieldsVxor d k v1 v2 s)
  | .vsll d k v1 v2 s => some (fieldsVsll d k v1 v2 s)
  | .vsrl d k v1 v2 s => some (fieldsVsrl d k v1 v2 s)
  | .vsra d k v1 v2 s => some (fieldsVsra d k v1 v2 s)
  | .vmin d k v1 v2 s => some (fieldsVmin d k v1 v2 s)
  | .vminu d k v1 v2 s => some (fieldsVminu d k v1 v2 s)
  | .vmax d k v1 v2 s => some (fieldsVmax d k v1 v2 s)
  | .vmaxu d k v1 v2 s => some (fieldsVmaxu d k v1 v2 s)
  | .vseq d k v1 v2 s => some (fieldsVseq d k v1 v2 s)
  | .vsne d k v1 v2 s => some (fieldsVsne d k v1 v2 s)
  | .vslt d k v1 v2 s => some (fieldsVslt d k v1 v2 s)
  | .vsltu d k v1 v2 s => some (fieldsVsltu d k v1 v2 s)
  | .vsle d k v1 v2 s => some (fieldsVsle d k v1 v2 s)
  | .vsleu d k v1 v2 s => some (fieldsVsleu d k v1 v2 s)
  | .vfadd d k v1 v2 s => some (fieldsVfadd d k v1 v2 s)
  | .vfsub d k v1 v2 s => some (fieldsVfsub d k v1 v2 s)
  | .vfmul d k v1 v2 s => some (fieldsVfmul d k v1 v2 s)
  | .vfdiv d k v1 v2 s => some (fieldsVfdiv d k v1 v2 s)
  | .vfsqrt d k v2 => some (fieldsVfsqrt d k v2)
  | .vfmacc d k v1 v2 s => some (fieldsVfmacc d k v1 v2 s)
  | .vfnmacc d k v1 v2 s => some (fieldsVfnmacc d k v1 v2 s)
  | .vfmsac d k v1 v2 s => some (fieldsVfmsac d k v1 v2 s)
  | .vfmin d k v1 v2 s => some (fieldsVfmin d k v1 v2 s)
  | .vfmax d k v1 v2 s => some (fieldsVfmax d k v1 v2 s)
  | .vfsgnj d k v1 v2 s => some (fieldsVfsgnj d k v1 v2 s)
  | .vfclass d k v2 => some (fieldsVfclass d k v2)
  | .vfeq d k v1 v2 s => some (fieldsVfeq d k v1 v2 s)
  | .vflt d k v1 v2 s => some (fieldsVflt d k v1 v2 s)
  | .vfle d k v1 v2 s => some (fieldsVfle d k v1 v2 s)
  | .vmv d k v1 s => some (fieldsVmv d k v1 s)
  | .vmvxs d v2 => some (fieldsVmvxs d v2)
  | .vmerge d k v1 v2 s => some (fieldsVmerge d k v1 v2 s)
  | .vslideup d k v1 v2 => some (fieldsVslideup d k v1 v2)
  | .vslidedn d k v1 v2 => some (fieldsVslidedn d k v1 v2)
  | .vperm d k v1 v2 => some (fieldsVperm d k v1 v2)
  | .vcompress d k v2 => some (fieldsVcompress d k v2)
  | .vid d k => some (fieldsVid d k)
  | .viota d k => some (fieldsViota d k)
  | .vredsum d k v1 v2 => some (fieldsVredsum d k v1 v2)
  | .vredosum d k v1 v2 => some (fieldsVredosum d k v1 v2)
  | .vredmin d k v1 v2 => some (fieldsVredmin d k v1 v2)
  | .vredmax d k v1 v2 => some (fieldsVredmax d k v1 v2)
  | .vfredsum d k v1 v2 => some (fieldsVfredsum d k v1 v2)
  | .vfredosum d k v1 v2 => some (fieldsVfredosum d k v1 v2)
  | .vfredmin d k v1 v2 => some (fieldsVfredmin d k v1 v2)
  | .vfredmax d k v1 v2 => some (fieldsVfredmax d k v1 v2)
  | .kand d v1 v2 => some (fieldsKand d v1 v2)
  | .kor d v1 v2 => some (fieldsKor d v1 v2)
  | .kxor d v1 v2 => some (fieldsKxor d v1 v2)
  | .kpopc d v2 => some (fieldsKpopc d v2)
  | .kfirst d v2 => some (fieldsKfirst d v2)
  | .kmv d v2 => some (fieldsKmv d v2)
  | .vbvrd d w v2 => some (fieldsVbvrd d w v2)
  | .vbvwr d rs1 w => some (fieldsVbvwr d rs1 w)
  | .vcvt d k ty v2 => some (fieldsVcvt d k ty v2)
  | .vld d k rs1 nt => some (fieldsVld d k rs1 nt)
  | .vst d k rs1 nt => some (fieldsVst d k rs1 nt)
  | .vlds d k rs1 rs2 nt => some (fieldsVlds d k rs1 rs2 nt)
  | .vsts d k rs1 rs2 nt => some (fieldsVsts d k rs1 rs2 nt)
  | .vldx d k rs1 v2 nt => some (fieldsVldx d k rs1 v2 nt)
  | .vstx d k rs1 v2 nt => some (fieldsVstx d k rs1 v2 nt)
  | .vpref rs1 nt => some (fieldsVpref rs1 nt)
  | .vldfe d k rs1 => some (fieldsVldfe d k rs1)
  | .vstfe d k rs1 => some (fieldsVstfe d k rs1)
  | .vqld d rs1 fmt => some (fieldsVqld d rs1 fmt)
  | .vqst d rs1 fmt ly => some (fieldsVqst d rs1 fmt ly)
  | .vamoadd d k rs1 v2 => some (fieldsVamoadd d k rs1 v2)
  | .vamomin d k rs1 v2 => some (fieldsVamomin d k rs1 v2)
  | .vamomax d k rs1 v2 => some (fieldsVamomax d k rs1 v2)
  | .vsend d rs1 => some (fieldsVsend d rs1)
  | .vrecv d rs1 => some (fieldsVrecv d rs1)
  | .vmmaE4e4 d v1 v2 fs3 => some (fieldsVmmaE4e4 d v1 v2 fs3)
  | .vmmaE5e4 d v1 v2 fs3 => some (fieldsVmmaE5e4 d v1 v2 fs3)
  | .vmmaBf16 d v1 v2 fs3 => some (fieldsVmmaBf16 d v1 v2 fs3)
  | .vmmaE4q d v1 v2 fs3 => some (fieldsVmmaE4q d v1 v2 fs3)
  | .mlease d => some (fieldsMlease d)
  | .mrel => some (fieldsMrel)
  | .mwld rs1 rs2 => some (fieldsMwld rs1 rs2)
  | .mzero z => some (fieldsMzero z)
  | .mld z rs1 => some (fieldsMld z rs1)
  | .mst z dir rs1 fmt ly => some (fieldsMst z dir rs1 fmt ly)
  | .mmacE4e4 z rs1 rs2 kf => some (fieldsMmacE4e4 z rs1 rs2 kf)
  | .mmacE5e4 z rs1 rs2 kf => some (fieldsMmacE5e4 z rs1 rs2 kf)
  | .mmacE4e5 z rs1 rs2 kf => some (fieldsMmacE4e5 z rs1 rs2 kf)
  | .mmacE5e5 z rs1 rs2 kf => some (fieldsMmacE5e5 z rs1 rs2 kf)
  | .mmacBf16 z rs1 rs2 kf => some (fieldsMmacBf16 z rs1 rs2 kf)
  | .mmacE4q z rs1 rs2 kf => some (fieldsMmacE4q z rs1 rs2 kf)
  | .mmacF4 z rs1 rs2 kf => some (fieldsMmacF4 z rs1 rs2 kf)
  | .mmacF4q z rs1 rs2 kf => some (fieldsMmacF4q z rs1 rs2 kf)
  | .rbox d v1 rs2 => some (fieldsRbox d v1 rs2)
  | .rtri d v1 rs2 => some (fieldsRtri d v1 rs2)
  | .rcand d v1 v2 => some (fieldsRcand d v1 v2)
  | .racc d v1 => some (fieldsRacc d v1)
  | .rrej d v1 => some (fieldsRrej d v1)
  | .qsph d v1 rs2 => some (fieldsQsph d v1 rs2)
  | .qknn d v1 rs2 => some (fieldsQknn d v1 rs2)
  | .qkey d v1 rs2 => some (fieldsQkey d v1 rs2)
  | .vedge d v1 rs2 => some (fieldsVedge d v1 rs2)
  | .tsamp d v1 rs2 => some (fieldsTsamp d v1 rs2)
  | .tfetch d v1 rs2 => some (fieldsTfetch d v1 rs2)
  | .tdecode d v1 rs2 => some (fieldsTdecode d v1 rs2)
  | .storeBufferDrain _ _ => none
  | .scalarLoadReturn _ _ => none
  | .pageTableWalk _ _ => none
  | .adUpdate _ => none
  | .spanEntryFetch _ _ => none
  | .streamDetectorExpiry _ _ => none
  | .vectorGroupIssue _ _ => none
  | .vectorAccessComplete _ _ => none
  | .noticeUpcall _ => none
  | .vcfgReconfigure _ => none
  | .leewayConfigApply _ => none
  | .ldfeWake _ => none
  | .feTimeout _ _ => none
  | .ringArrival _ _ => none
  | .ringConsumerRelease _ _ => none
  | .copyMove _ _ _ _ => none
  | .copyComplete _ _ _ => none
  | .channelResetDone _ => none
  | .waitcRelease _ => none
  | .fenceVsRelease _ => none
  | .streamGroupArrival _ _ => none
  | .streamProbeSend _ => none
  | .streamProbeHop _ => none
  | .linkTurnBegin _ => none
  | .linkTurnDrained _ => none
  | .linkTurnDone _ => none
  | .waysetComplete _ => none
  | .wdqAnswer _ => none
  | .dispatch _ => none
  | .gangTick _ => none
  | .queueAging _ => none
  | .candidateReservation _ _ => none
  | .batchWaitExpiry _ => none
  | .exitPerform _ => none
  | .issueLoweringEnd _ => none
  | .ticketApply _ _ => none
  | .unitRetry _ => none
  | .barrierPhaseComplete _ _ => none
  | .wevReturn _ => none
  | .barrierTimeout _ => none
  | .leaseGrant _ => none
  | .leaseBudgetEnd _ => none
  | .tileParkDone _ => none
  | .tileRestoreDone _ => none
  | .arrayCommandStart _ => none
  | .arrayCommandComplete _ _ => none
  | .weightBufferClearDone _ => none
  | .preemptTaken _ => none
  | .interruptTaken _ => none
  | .wfiWake _ => none
  | .pauseEnd _ => none
  | .yieldEnd _ => none
  | .alarmInterrupt _ => none
  | .killComplete _ => none
  | .vstupdComplete _ => none
  | .shootdownComplete => none
  | .homeTableChangeDone => none
  | .contextResidentDone _ => none
  | .vsaveWrite _ => none
  | .vrestoreLoad _ => none
  | .islandClockDone _ _ => none
  | .islandOffDone _ _ => none
  | .islandOnDone _ _ => none
  | .governorSample _ _ => none
  | .thermalTrip => none
  | .thermalClear => none
  | .ethernetLinkChange _ _ => none
  | .linkReplay _ => none
  | .dieLinkError _ _ => none
  | .eccError _ _ => none
  | .dieWarmReset _ => none
  | .dieReadmit _ => none
  | .powerGood _ => none
  | .dieAdmit _ => none
  | .memoryTrained => none
  | .rdmaWriteIn _ _ _ _ => none
  | .rdmaReadIn _ _ _ _ => none
  | .rdmaSendIn _ _ => none
  | .remoteQpush _ _ _ _ => none
  | .remoteResponse _ _ _ => none
  | .qpAckTimeout _ => none
  | .ptpMessage _ => none
  | .homeTableWrite _ => none
  | .shootCmdWrite _ => none
  | .pgdoneWrite _ => none
  | .arrbindWrite _ => none
  | .tsaveWrite _ => none
  | .qctlWrite _ => none
  | .preemptRequest _ => none
  | .preemptCancel _ => none
  | .eventCounterClear _ => none
  | .chronadjWrite _ => none
  | .chronstepWrite _ => none
  | .linkevRead _ => none
  | .contextMakeResident _ => none
  | .contextRelease _ => none
  | .alarmWrite _ => none
  | .qpcmdApply _ => none
  | .qpcmdFetch _ => none
  | .qpcmdApplyDone => none
  | .deviceRegisterWrite _ => none
  | .illegalInstruction _ _ => none
  | .instructionFetchFault _ => none
  | .vaqGroupLanded _ => none
  | .invalidRequestNak _ => none

/-- The encoder: the word of an instruction. An event has no word; the all-zero word stands for it, which is illegal
(R26). -/
def encode (i : Instr) : BitVec 32 := (i.fields.map Fields.toWord).getD 0#32

/-- The host's question: the instruction my decoder reads from a row's word laid out in memory (little-endian). -/
noncomputable def decodeTableWord (nbits w : Nat) : Option Instr :=
  if nbits ≤ 32 then
    let v := BitVec.ofNat 32 w
    (decodeBytes [v.extractLsb' 0 8, v.extractLsb' 8 8, v.extractLsb' 16 8, v.extractLsb' 24 8]).map (·.1)
  else none

end Sys2Proof
end

