-- ==== Sys2Proof/Machine/Bits.lean ====
section
/-!
DEFINITION. Bit fields, sign extension and byte order (R2): the helpers every meaning uses.
-/
namespace Sys2Proof.Machine

/-- The field of n bits from bit lo, as a number. -/
def fld {w : Nat} (v : BitVec w) (lo n : Nat) : Nat := (v.toNat >>> lo) % 2 ^ n

/-- Bit i. -/
def bit {w : Nat} (v : BitVec w) (i : Nat) : Bool := v.getLsbD i

/-- Replace the field of n bits from bit lo. -/
def setFld {w : Nat} (v : BitVec w) (lo n x : Nat) : BitVec w :=
  (v &&& ~~~(BitVec.ofNat w ((2 ^ n - 1) <<< lo))) ||| BitVec.ofNat w ((x % 2 ^ n) <<< lo)

/-- Replace one bit. -/
def setBit {w : Nat} (v : BitVec w) (i : Nat) (b : Bool) : BitVec w := setFld v i 1 b.toNat

/-- A number as a 64-bit word. -/
def word (n : Nat) : Word := BitVec.ofNat 64 n

/-- A Bool as a register value. -/
def wordOfBool (b : Bool) : Word := if b then 1 else 0

/-- The low n bits of a number, as a signed integer. -/
def toInt (n : Nat) (v : Nat) : Int :=
  if (v % 2 ^ n) * 2 < 2 ^ n then (v % 2 ^ n : Nat) else ((v % 2 ^ n : Nat) : Int) - (2 ^ n : Nat)

/-- The low n bits of an integer, two's complement. -/
def ofInt (n : Nat) (i : Int) : Nat := (i % ((2 ^ n : Nat) : Int)).toNat

/-- SX(v, n) of R4, as a 64-bit word. -/
def sx (n v : Nat) : Word := BitVec.ofInt 64 (toInt n v)

/-- The n low bytes of a number in memory order, little-endian (R2). -/
def bytesOf : Nat → Nat → List Byte
  | 0, _ => []
  | n + 1, v => BitVec.ofNat 8 v :: bytesOf n (v / 256)

/-- The number that bytes in memory order stand for (R2). -/
def ofBytes : List Byte → Nat
  | [] => 0
  | b :: r => b.toNat + 256 * ofBytes r

/-- Floor division rounded up. -/
def ceilDiv (a b : Nat) : Nat := (a + b - 1) / b

/-- Whether the ranges of n bytes from a and m bytes from b share a byte. -/
def overlap (a n b m : Nat) : Bool := decide (a < b + m) && decide (b < a + n)

/-- Whether the ranges touch a common 32-byte granule (R115); no bytes touch none. -/
def shareGranule (a n b m : Nat) : Bool :=
  decide (0 < n) && decide (0 < m) && decide (a / 32 ≤ (b + m - 1) / 32) && decide (b / 32 ≤ (a + n - 1) / 32)

/-- Insert by key into a list sorted by a Nat key, after the entries of the same key (a stable sort's step). -/
def insertBy {α : Type} (key : α → Nat) (a : α) : List α → List α
  | [] => [a]
  | b :: r => if key a < key b then a :: b :: r else b :: insertBy key a r

/-- A stable sort by a Nat key. -/
def sortBy {α : Type} (key : α → Nat) (l : List α) : List α := l.foldl (fun r a => insertBy key a r) []

/-- The first of the smallest by a Nat key. -/
def leastBy {α : Type} (key : α → Nat) : List α → Option α
  | [] => none
  | a :: r => match leastBy key r with
    | none => some a
    | some b => if key b < key a then some b else some a

/-- Drop the n-th of a list. -/
def dropAt {α : Type} : List α → Nat → List α
  | [], _ => []
  | _ :: r, 0 => r
  | a :: r, n + 1 => a :: dropAt r n

end Sys2Proof.Machine
end

