-- ==== Sys2Proof/Config.lean ====
section
/-!
DEFINITION. What the part fixes and the spec does not state: mimpid, the silicon revision (R310), whose value no rule
gives (assumption log 5), and the data of a load that is never answered (log 30). They are uninterpreted constants, so no
proof can rest on a value of them.
-/
namespace Sys2Proof.Config

/-- The silicon revision that mimpid reads (R310). DESIGN CHOICE (log 5): a free value, the spec states none. -/
opaque mimpid : Word

/-- What the register of a scalar load of a remote window holds once its queue pair has been put into reset or error before
the answer (R330): a free value, applied to the count of State.freeCount (log 30). -/
opaque lostLoad : Nat → Word

end Sys2Proof.Config
end

