-- ==== Sys2Proof/Machine/State.lean ====
section
/-!
DEFINITION. The machine's state, all of it plain data: every piece of state the spec gives the part, the agenda of turns
to come (the model's own), the reasons a step can stop, and the state after reset. Names follow the spec's.
-/
namespace Sys2Proof.Machine

/-- The privilege modes (R308). -/
inductive Mode where
  | u | s | m
  deriving DecidableEq, Repr

/-- Integer element operations, codes 0 to 15 of Table 2-5 (R86). -/
inductive IntOp where
  | add | sub | mul | mulh | mulhu | macc | and | or | xor | sll | srl | sra | min | minu | max | maxu
  deriving DecidableEq, Repr

/-- Compares, codes 16 to 21 and 34 to 36 (R87, R89). -/
inductive CmpOp where
  | seq | sne | slt | sltu | sle | sleu | feq | flt | fle
  deriving DecidableEq, Repr

/-- Floating-point element operations, codes 22 to 33 (R88). -/
inductive FpOp where
  | add | sub | mul | div | sqrt | macc | nmacc | msac | min | max | sgnj | class
  deriving DecidableEq, Repr

/-- Reductions, codes 46 to 53 (R94). -/
inductive RedOp where
  | sum | osum | min | max | fsum | fosum | fmin | fmax
  deriving DecidableEq, Repr

/-- Mask operations of two masks (R96). -/
inductive MaskOp where
  | and | or | xor
  deriving DecidableEq, Repr

/-- Vector atomics (R111). -/
inductive AmoOp where
  | add | min | max
  deriving DecidableEq, Repr

/-- The vmma forms (R175). -/
inductive MmaOp where
  | e4e4 | e5e4 | bf16 | e4q
  deriving DecidableEq, Repr

/-- The ray, tree-query, raster and texture instructions (chapter 12). -/
inductive RayOp where
  | rbox | rtri | rcand | racc | rrej | qsph | qknn | qkey | vedge | tsamp | tfetch | tdecode
  deriving DecidableEq, Repr

/-- How a vector access forms its addresses (Table 5-2). -/
inductive AddrForm where
  | unit | stride | index
  deriving DecidableEq, Repr

/-- What stands in a vector queue: the operation and its register numbers (R77). -/
inductive VOp where
  | int (f : IntOp) (s : Bool) (vd v2 v1 k : Nat)
  | cmp (f : CmpOp) (s : Bool) (kd v2 v1 k : Nat)
  | fp (f : FpOp) (s : Bool) (vd v2 v1 k : Nat)
  | mv (s : Bool) (vd v1 k : Nat)
  | mvxs (xd v2 : Nat)
  | merge (s : Bool) (vd v2 v1 k : Nat)
  | slideup (vd v2 k : Nat)
  | slidedn (vd v2 k : Nat)
  | perm (vd v2 v1 k : Nat)
  | compress (vd v2 k : Nat)
  | vid (vd k : Nat)
  | viota (vd k : Nat)
  | red (f : RedOp) (vd v2 v1 k : Nat)
  | mask (f : MaskOp) (kd k2 k1 : Nat)
  | kpopc (xd k2 : Nat)
  | kfirst (xd k2 : Nat)
  | kmv (kd k2 : Nat)
  | bvrd (xd v2 w : Nat)
  | bvwr (vd w : Nat)
  | cvt (vd v2 : Nat) (ty : BitVec 4) (k : Nat)
  | ld (a : AddrForm) (nt : Bool) (vd v2 k : Nat)
  | st (a : AddrForm) (nt : Bool) (vs v2 k : Nat)
  | pref (nt : Bool)
  | ldfe (vd k : Nat)
  | stfe (vs k : Nat)
  | qld (vd fmt : Nat)
  | qst (vs fmt ly : Nat)
  | amo (f : AmoOp) (vs v2 k : Nat)
  | send (vs : Nat)
  | recv (vd : Nat)
  | lysave (vd ly : Nat)
  | lyload (ly vs : Nat)
  | fence (sys : Bool)
  | mma (f : MmaOp) (vd v1 v2 : Nat)
  | ray (f : RayOp) (vd v1 v2 : Nat)
  deriving DecidableEq, Repr

/-- The kind of one element access of a begun vector group (R107); `fill` sets a line's full/empty bit (R202). -/
inductive AccKind where
  | load | store | nibble (high : Bool) | amo (f : AmoOp) (ty : BitVec 4) (frm : BitVec 3) | tail (lo width : Nat) | fill
  deriving DecidableEq, Repr

/-- One element access of a begun group that has not been performed (R107, R164). For a tail, `lo` and `width` are the
bit field of the superblock's tail that the block's scale takes. -/
structure Acc where
  group : Nat
  idx : Nat
  va : Nat
  pa : Nat
  width : Nat
  kind : AccKind
  val : BitVec 64
  nt : Bool
  deriving DecidableEq, Repr

/-- A datum a load group has read and not yet written to its register. -/
structure Got where
  group : Nat
  idx : Nat
  val : BitVec 64
  ok : Bool
  deriving DecidableEq, Repr

/-- One instruction in a vector queue with what it captured at its scalar retirement (R72, R77, R175). -/
structure VEntry where
  seq : Nat
  /-- its place in the strand's program order -/
  pos : Nat
  /-- the place from which it is queued: its own, or where the resume state that held it was reinstated (R101) -/
  entered : Nat
  q : VQueue
  op : VOp
  word : BitVec 32
  x1 : BitVec 64
  x2 : BitVec 64
  fv : BitVec 32
  scales : List (BitVec 32)
  vl : Nat
  ty : BitVec 4
  frm : BitVec 3
  ncode : Nat
  slip : Nat
  /-- the next group to begin -/
  next : Nat
  /-- begun accesses not performed -/
  pend : List Acc
  /-- elements loaded by a group whose accesses are not all performed -/
  got : List Got
  /-- by physical address, the data its loads have read, so that every element of one address gets the same (R110) -/
  seen : Tab (BitVec 64)
  /-- the x result that VAQ returns (R91) -/
  res : Option (BitVec 64)
  /-- since when the group waits on a full/empty bit, a stream or a credit (R201, R222) -/
  since : Option Nat
  /-- when the wait last sent a probe (R222) -/
  probed : Option Nat
  deriving DecidableEq, Repr

/-- A record of the resume state (R99): what was captured, and the group to go on from; with its place in program order,
the model's own. -/
structure Resume where
  pos : Nat
  word : BitVec 32
  x1 : BitVec 64
  x2 : BitVec 64
  fv : BitVec 32
  scales : List (BitVec 32)
  vl : Nat
  ty : BitVec 4
  frm : BitVec 3
  ncode : Nat
  index : Nat
  deriving DecidableEq, Repr

/-- A trap or an upcall taken while a resume state is held (R101): the return that ends it, 0 upret, 1 sret, 2 mret, and the
mode and pc that it interrupted. -/
structure Frame where
  kind : Nat
  mode : Mode
  pc : BitVec 64
  deriving DecidableEq, Repr

/-- A vector register: 8 KiB at most, its validity field, dirty bit and extent in groups (R24, R84, R103). -/
structure VReg where
  bits : BitVec 65536
  valid : BitVec 256
  dirty : Bool
  ext : Nat
  deriving DecidableEq, Repr

/-- A leeway register: 256 residues, C, p and NS (R160). -/
structure Leeway where
  res : Tab (BitVec 32)
  c : Nat
  p : Nat
  ns : Bool
  deriving DecidableEq, Repr

/-- A loop slot: its configuration word, previous count, miss count and recorded count register (R73, R74, R147). -/
structure LoopSlot where
  cfg : BitVec 64
  prev : Option (BitVec 64)
  miss : Nat
  creg : Option Nat
  deriving DecidableEq, Repr

/-- A retired scalar store in the store buffer (R66, R67); `fe` marks an stfe (R203), `code` is the home code of its line
where that is memory of type PMA (R118). -/
structure Store where
  pos : Nat
  va : Nat
  pa : Nat
  width : Nat
  val : BitVec 64
  fe : Bool
  code : Option Nat
  deriving DecidableEq, Repr

/-- A scalar load whose data have not returned (R126); `isF` names an f register. -/
structure Load where
  pos : Nat
  rd : Nat
  isF : Bool
  pa : Nat
  width : Nat
  signed : Bool
  deriving DecidableEq, Repr

/-- A remote access not yet answered (R266, R329). -/
structure Remote where
  pos : Nat
  va : Nat
  /-- the context of the task that made it (R323) -/
  ctx : Option Nat
  load : Option Load
  /-- the word of a vrestore's image, or of what an exit reads, that a load is for (R237, R319) -/
  img : Option Nat
  window : Nat
  qp : Nat
  deriving DecidableEq, Repr

/-- A store of a strand to a stage, a ring release posted and not yet in effect (R208). -/
structure Release where
  ring : Nat
  stage : Nat
  producer : Bool
  pos : Nat
  deriving DecidableEq, Repr

/-- A ring slot of a strand: the ring, the role, the sequence numbers acquired (R205, R207), and those it has released
and that the rose pointer has not passed (log 36). -/
structure RingSlot where
  ring : Nat
  consumer : Bool
  acq : List Nat
  left : List Nat
  deriving DecidableEq, Repr

/-- A copy's endpoint in a ring window, as captured at the launch: the ring and R, and where its stages stand (R206). -/
structure RingEp where
  id : Nat
  r : Nat
  basePa : Nat
  z : Nat
  n : Nat
  deriving DecidableEq, Repr

/-- A launched copy (R213 to R215): shadow registers as captured, R of a ring endpoint as captured, the address space
it was launched in, the pieces moved, the stages counted, and the request tag it waits on with the absent address. -/
structure Xfer where
  id : BitVec 32
  src : Nat
  dst : Nat
  len : Nat
  dims : List (Nat × Int × Int)
  zero : Bool
  full : Bool
  noAlloc : Bool
  srcRing : Option RingEp
  dstRing : Option RingEp
  hart : Nat
  ctx : Nat
  mode : Mode
  pos : Nat
  satp : BitVec 64
  mstatus : BitVec 64
  moved : List Nat
  stagesDone : List Nat
  tag : Option (Nat × Nat)
  deriving DecidableEq, Repr

/-- A copy channel (R213, R216). -/
structure Chan where
  sh : Tab (BitVec 64)
  nextId : BitVec 32
  wm : BitVec 32
  err : Bool
  xfers : List Xfer
  /-- identifiers completed above the watermark -/
  above : List (BitVec 32)
  deriving DecidableEq, Repr

/-- A channel detached by vsave (R318): the physical addresses of the image's cpstat word and of its request tags, the
channel's number, and the channel as it stood. -/
structure Detached where
  image : Nat
  head : Nat
  num : Nat
  chan : Chan
  deriving DecidableEq, Repr

/-- One element group of a stream message in a receive buffer (R221). -/
structure MsgGroup where
  first : Nat
  vl : Nat
  ebits : Nat
  data : List (BitVec 8)
  valid : BitVec 256
  last : Bool
  deriving DecidableEq, Repr

/-- Whether an endpoint has met its peer's (R220, R221): not yet, joined to that endpoint of the peer, or closed by it. -/
inductive EpLink where
  | alone | joined (ep : Nat) | closed
  deriving DecidableEq, Repr

/-- A stream endpoint (R220, R221): the context of the task that holds it and, while that task is off its core, the
address of its image (R223). `skip`: the rest of a longer message is to be discarded. -/
structure Endpoint where
  ctx : Nat
  parked : Option Nat
  peer : Nat
  recv : Bool
  link : EpLink
  buf : List MsgGroup
  skip : Bool
  deriving DecidableEq, Repr

/-- The endpoint of the peer that an endpoint has met. -/
def EpLink.ep (l : EpLink) : Option Nat := match l with | .joined k => some k | _ => none

/-- A stream probe in flight (R222), on its way to a strand and the endpoint of it that the stream has met. -/
structure Probe where
  origin : Nat
  at_ : Nat
  ep : Option Nat
  hops : Nat
  due : Nat
  deriving DecidableEq, Repr

/-- A pending notice of a request tag (R145). -/
structure Notice where
  tag : Nat
  starved : Bool
  granules : Nat
  deriving DecidableEq, Repr

/-- The task a strand runs (R20, R21, R228, R327). -/
structure Task where
  ctx : Nat
  cls : Nat
  prio : Nat
  slot : Option Nat
  coord : BitVec 64
  deriving DecidableEq, Repr

/-- The array commands (R189). -/
inductive AOp where
  | mwld | mzero (z : Nat) | mld (z : Nat) | mst (z fmt ly : Nat) (col : Bool) | mmac (f z kf : Nat)
  deriving DecidableEq, Repr

/-- An accepted array command: its operands, and its memory range in physical pieces (start, length), resolved at its
acceptance (R188, R206). -/
structure ACmd where
  hart : Nat
  pos : Nat
  op : AOp
  word : BitVec 32
  x1 : BitVec 64
  x2 : BitVec 64
  range : List (Nat × Nat)
  va : Nat
  since : Nat
  deriving DecidableEq, Repr

/-- A successor of an exit, as its block read at the exit's retirement: the block's address, its key and queue, and
the physical address of its join counter where J = 1 (R237, R238). -/
structure ExitEdge where
  block : Nat
  key : Nat
  queue : Nat
  join : Option Nat
  deriving DecidableEq, Repr

/-- What holds a strand's issue (R66): the stall, what it will do when it ends, and since when it waits. -/
inductive Wait where
  | none
  | ldfe (rd pa : Nat) (va : BitVec 64) (since : Nat)
  | waitc (a b c d : Nat)
  | fenceVs (sys : Bool)
  | wev (rd mask since : Nat)
  | wfi
  | pause (til : Nat)
  | yield_ (til : Nat) (others : List Nat)
  | vcfg (rd ncode slip : Nat)
  | lycfg (ly : Nat) (val : BitVec 64)
  | lyclr (ly : Nat)
  /-- an exit that has words still to read: its base register, count and list (R237) -/
  | exitRead (base cnt : Nat) (list : BitVec 64)
  | exit (edges : List ExitEdge)
  | unit (word : BitVec 32) (x1 x2 : BitVec 64) (retry : Nat)
  | kill (c : Nat)
  | vstupd (c frame : Nat)
  | wayset (core : Nat)
  | homeStore
  | ctxStore (c : Nat)
  /-- an fqpop between its stores: the context, the result's register, the stores still to make (R315) -/
  | fqpop (ctx rd : Nat) (rest : List Store)
  | vsave (image : Nat) (t : Bool)
  | vrestore (image : Nat) (t : Bool)
  | remoteSave
  | cpReset (ch : Nat)
  | strmclose (ep : Nat)
  | gang (tick : BitVec 64)
  deriving DecidableEq, Repr

/-- The privileged CSRs of one hart (R310). -/
structure Csrs where
  mstatus : BitVec 64
  medeleg : BitVec 64
  mideleg : BitVec 64
  mie : BitVec 64
  mipSw : BitVec 64
  mtvec : BitVec 64
  mcounteren : BitVec 64
  menvcfg : BitVec 64
  mscratch : BitVec 64
  mepc : BitVec 64
  mcause : BitVec 64
  mtval : BitVec 64
  stvec : BitVec 64
  scounteren : BitVec 64
  senvcfg : BitVec 64
  sscratch : BitVec 64
  sepc : BitVec 64
  scause : BitVec 64
  stval : BitVec 64
  satp : BitVec 64
  he : Bool
  upvec : BitVec 64
  upepc : BitVec 64
  upcause : BitVec 64
  upstat : BitVec 64
  deriving DecidableEq, Repr

/-- The vector side of a strand (R24, R68 to R103). -/
structure Vec where
  ncode : Nat
  slip : Nat
  vl : Nat
  vetype : BitVec 4
  vgrant : Nat
  v : Tab VReg
  k : Tab (BitVec 8192)
  ly : Tab Leeway
  loops : Tab LoopSlot
  queue : List VEntry
  nextSeq : Nat
  /-- fence.sv marks: the fence's place in program order and whether it is of system scope (R263) -/
  svMarks : List (Nat × Bool)
  resume : List Resume
  /-- the traps and upcalls between the held resume state and where the strand stands, innermost first; none while none is
  held (R101) -/
  frames : List Frame
  /-- the oldest instruction that a vrestore put back into its queue: sequence number and recorded index (R319) -/
  restored : Option (Nat × Nat)
  deriving DecidableEq, Repr

/-- The staging units of a strand (chapter 9) and its requests to the pager (chapter 6). -/
structure Staging where
  rings : Tab RingSlot
  releases : List Release
  chans : Tab Chan
  detached : List Detached
  eps : Tab Endpoint
  probe : Option Probe
  tags : List Nat
  notices : List Notice
  async : List Nat
  deriving DecidableEq, Repr

/-- The array side of a strand (R180 to R184, R197). -/
structure ArraySide where
  req : Bool
  /-- the cy in which the request was posted (R182) -/
  reqAt : Nat
  area : Option Nat
  mask : Nat
  resume : List ACmd
  /-- suspended by a pre-emption (R197): 0 no, 1 it had a request posted, 2 it held the lease -/
  susp : Nat
  /-- resumed, and its lease, tiles and recorded commands not yet back: the strand issues nothing (R197) -/
  back : Bool
  deriving DecidableEq, Repr

/-- One hart: a strand or a management hart (R10, R24). -/
structure Hart where
  on : Bool
  pc : BitVec 64
  mode : Mode
  x : Tab (BitVec 64)
  f : Tab (BitVec 32)
  fflags : BitVec 5
  frm : BitVec 3
  csr : Csrs
  instret : BitVec 64
  resv : Option (Nat × Nat)
  /-- the place in program order of the next instruction (the model's own) -/
  pos : Nat
  stores : List Store
  loads : List Load
  remotes : List Remote
  /-- the words that a waiting instruction has had from a remote window: those of its image for a vrestore, none before it
  asks (R319); for an exit, by address ÷ 8, those from device registers too (R237) -/
  imageIn : Option (Tab (BitVec 64))
  fetchBuf : Tab (BitVec 32)
  /-- stream detector: expected line, count, when last advanced (R124) -/
  detector : List (Nat × Nat × Nat)
  wait : Wait
  task : Option Task
  preempt : Bool
  alarm : BitVec 64
  vec : Vec
  stg : Staging
  arr : ArraySide
  deriving DecidableEq, Repr

/-- A translation buffer entry (R133). -/
structure TlbEntry where
  vpn : Nat
  /-- page size as a power of two: 12, 16 or 21 -/
  bits : Nat
  asid : Nat
  global : Bool
  pte : BitVec 64
  ptePa : Nat
  deriving DecidableEq, Repr

/-- A walk-cache entry: level, the VPNs down to that level, the entry (R133). -/
structure WalkEntry where
  asid : Nat
  level : Nat
  prefix_ : Nat
  pte : BitVec 64
  deriving DecidableEq, Repr

/-- A walk in progress (R133): the hart and the address space it began in, the address, the level to read next, the
table's base, and the entries it will install where it reaches a leaf (R134). -/
structure Walk where
  hart : Nat
  asid : Nat
  va : Nat
  level : Nat
  base : Nat
  entries : List WalkEntry
  deriving DecidableEq, Repr

/-- The state of one barrier wire at a core (R273). -/
structure Wire where
  part : Option Nat
  /-- the image of the participant's task while that task is off its core (R280) -/
  parked : Option Nat
  ctx : Nat
  cols : BitVec 16
  rows : BitVec 8
  or_ : Bool
  bound : Nat
  count : Nat
  done : Bool
  vote : Bool
  /-- an arrival outstanding: its vote, and its place in the strand's program order (R275) -/
  arrival : Option (Bool × Nat)
  /-- the participant's votes for the phases that are over here, by phase (R276, log 25) -/
  votes : Tab Bool
  /-- arrivals that members made for this participant's phases in configurations since released: core, phase, vote
  (R276, log 25) -/
  heard : List (Nat × Nat × Bool)
  deriving DecidableEq, Repr

/-- A queued draw of a tile (R251). `seen` lists primitive serials posted, `applied` those applied. -/
structure Draw where
  ctx : Nat
  serial : Nat
  np : Nat
  pi : Nat
  cls : Nat
  blend : Nat
  full : Bool
  off : Nat
  seen : List (Nat × Nat)
  applied : Nat
  appliedList : List (Nat × Nat)
  deriving DecidableEq, Repr

/-- A tile with state (R249). -/
structure Tile where
  tile : Nat
  draws : List Draw
  deriving DecidableEq, Repr

/-- A posted ticket that is not wholly applied (R252, R255). -/
structure Ticket where
  tile : Nat
  draw : Nat
  prim : Nat
  run : Nat
  packet : Option (BitVec 64 × List (BitVec 8))
  ctx : Nat
  deriving DecidableEq, Repr

/-- A 256-byte line of device memory in a cache way of a slice (R122): its address, the home code it was homed by, the
way that holds it, the sectors of 32 bytes present, those written and not yet written back, and its pseudo-LRU bit. -/
structure SliceLine where
  addr : Nat
  code : Nat
  way : Nat
  sectors : BitVec 8
  dirty : BitVec 8
  used : Bool
  deriving DecidableEq, Repr

/-- One core (R13). -/
structure Core where
  tlb : List TlbEntry
  walks : List WalkEntry
  walking : List Walk
  /-- span buffer: context, granule, entry (R137) -/
  span : List (Nat × Nat × BitVec 32)
  /-- addresses of 32-byte lines of which L1 holds a copy (R121) -/
  l1 : List Nat
  /-- those of them whose pseudo-LRU bit is set -/
  l1used : List Nat
  /-- the lines in the cache ways of the core's slice (R122) -/
  slice : List SliceLine
  icache : Tab (BitVec 32)
  wires : Tab Wire
  tiles : List Tile
  tickets : List Ticket
  /-- issue lowered: context, until which cy (R233) -/
  lowered : List (Nat × Nat)
  /-- way roles of the core's slice, two bits a way (R122) -/
  ways : BitVec 32
  /-- a wayset under way: the new roles (R219) -/
  waysNew : Option (BitVec 32)
  deriving DecidableEq, Repr

/-- The state of a ring stage with a given sequence number (R206). -/
structure Stage where
  seq : Nat
  exp : Nat
  arr : Nat
  complete : Bool
  released : Nat
  deriving DecidableEq, Repr

/-- A ring of a cluster's ring unit (R205, R206). -/
structure Ring where
  id : Nat
  /-- the group that shares it: context and group serial (R205) -/
  group : Nat × Nat
  desc : BitVec 256
  vault : Bool
  basePa : Nat
  z : Nat
  n : Nat
  d : Nat
  p : Nat
  q : Nat
  prods : Nat
  cons : Nat
  formed : Bool
  r : Nat
  stages : List Stage
  pendExp : Nat
  deriving DecidableEq, Repr

/-- One of a cluster's two islands (R324): the change in progress is the operation and the new clock code. -/
structure Island where
  on : Bool
  code : Nat
  change : Option (Nat × Nat)
  /-- clock cycles counted in units of 1/96, up to the cy in the second place (R62) -/
  cyc : Nat × Nat
  deriving DecidableEq, Repr

/-- The lease of a cluster's array (R181, R182). -/
structure Lease where
  holder : Option Nat
  /-- the holder's accepted commands are still to complete and its tiles to park or discard -/
  ending : Option (Nat × Bool)
  last : Nat
  cmds : Nat
  /-- the cy in which the cy budget started, once it runs -/
  start : Option Nat
  restoring : Bool
  parking : Option (Nat × Nat)
  /-- the cy in which it became free (R182) -/
  freed : Nat
  deriving DecidableEq, Repr

/-- One cluster (R13). -/
structure Cluster where
  arrbind : BitVec 5
  clearing : Bool
  weights : Tab (BitVec 8)
  tiles : Tab (BitVec 32)
  live : Nat
  lease : Lease
  cmdq : List ACmd
  executing : Option ACmd
  fills : List ACmd
  throttle : Nat
  tsave : Tab (BitVec 8)
  /-- tile save areas in use, by entry number, with the tiles they hold -/
  areas : Tab (Tab (BitVec 32))
  rings : List Ring
  /-- the number of the next ring created (the model's own) -/
  ringSerial : Nat
  coreIsland : Island
  arrayIsland : Island
  /-- dispatcher: the queue last served at each level (R244) -/
  served : Tab Nat
  /-- dispatcher: the queue and the record's number of the candidate that holds the reservation (R245) -/
  reserved : Option (Nat × Nat)
  deriving DecidableEq, Repr

/-- A record of a queue (R229): its 64 bytes, the cy it arrived in, its poster's rank within that cy (R231: 0 the RoCEv2
engine, else the hart identifier and 1), whether it stands in overflow, and its number in the queue (the model's own). -/
structure Record where
  data : BitVec 512
  at_ : Nat
  rank : Nat
  overflow : Bool
  serial : Nat
  deriving DecidableEq, Repr

/-- One hardware queue (R230, R245). -/
structure Queue where
  qctl : BitVec 64
  qlim : BitVec 64
  qovf : BitVec 64
  qovn : BitVec 64
  qcons : BitVec 64
  qbat : BitVec 64
  recs : List Record
  /-- the number of the next record (the model's own) -/
  serial : Nat
  ovPos : Nat
  eligible : Option Nat
  aged : Nat
  /-- by cluster, the candidate that is passed over there, by its record's number, and since when (R245) -/
  passed : Tab (Nat × Nat)
  deriving DecidableEq, Repr

/-- The descriptor of a context, its stack slots, fault queue and bookkeeping (R313, R327). -/
structure Context where
  ctl : BitVec 64
  pager : BitVec 64
  upvec : BitVec 64
  stkb : BitVec 64
  stks : BitVec 64
  vst : Tab (BitVec 64)
  slots : List Nat
  groupSerial : Nat
  fqbase : BitVec 64
  fqctl : BitVec 64
  fqhead : Nat
  fqtail : Nat
  fqlost : Nat
  pendLoss : Nat
  undelivered : Bool
  killing : Bool
  /-- killed since it became resident: inbound requests that name it are refused (R323) -/
  killed : Bool
  /-- a change to resident in progress (R327) -/
  entering : Bool
  deriving DecidableEq, Repr

/-- A work-distributor query in flight (R241). -/
structure Query where
  hart : Nat
  ctx : Nat
  counter : Nat
  pa : Nat
  pos : Nat
  /-- the value handed out, once the distributor has taken the query -/
  answer : Option (BitVec 64)
  deriving DecidableEq, Repr

/-- A physical die link (R8, R9, R224, R225). `out` counts the groups turned outward from the lower-numbered die, or from
the compute die of a link to the IOD. -/
structure Link where
  out : Nat
  fifo : List (Option Nat × Nat)
  /-- a turn under way: new split, and when its groups had drained -/
  turning : Option (Nat × Option Nat)
  lastChange : Option Nat
  down : Bool
  deriving DecidableEq, Repr

/-- The device units beside the cores (chapter 13). -/
structure Device where
  home : Tab (BitVec 64)
  homeChange : Option (Nat × BitVec 64)
  shootVa : BitVec 64
  shoot : Option (BitVec 64)
  /-- the places in program order whose older accesses a shootdown waits for (R135) -/
  shootPos : Tab Nat
  vst : Tab (BitVec 32)
  counters : Tab (BitVec 64)
  gangs : List (Nat × Nat × BitVec 64)
  queries : List Query
  links : Tab Link
  chron : Nat
  chronAdj : BitVec 32
  chronFrac : Int
  cy : Nat
  pwrcap : BitVec 64
  events : Tab (BitVec 64)
  linkev : List (BitVec 64)
  linkevLost : Bool
  bnmbox : Tab (BitVec 8)
  qpidx : BitVec 64
  qpwin : Tab (BitVec 64)
  qpBusy : Option (BitVec 64 × List (BitVec 64))
  qpRefused : Bool
  qps : Tab (List (BitVec 64))
  windows : Tab (List (BitVec 64))
  regions : Tab (List (BitVec 64))
  recvPos : Tab Nat
  lanes : BitVec 8
  portUp : Bool
  powered : Bool
  locked : Bool
  trained : Bool
  admitted : Tab Bool
  offline : Tab Bool
  /-- VST writes a die in warm reset has still to take (R139) -/
  vstLate : List (Nat × Nat × BitVec 32)
  tripped : Bool
  /-- ranges with an error that ECC cannot correct: start and length (R336) -/
  poison : List (Nat × Nat)
  deriving DecidableEq, Repr

/-- What vsave with T = 1 keeps of a task beside its image, by the image's physical address: the task, its array
suspension, the sequence numbers of its ASYNC_ERROR notices, the save area that holds its tiles (cluster, entry), the memory
ranges of its recorded array commands, as accepted (R188), and whether the task is off its core still (the model's own,
log 14). -/
structure Parked where
  image : Nat
  task : Task
  susp : Nat
  async : List Nat
  area : Option (Nat × Nat)
  ranges : List (List (Nat × Nat))
  held : Bool
  deriving DecidableEq, Repr

/-- Something that an unseen choice removes from a cache or buffer (R121, R133, R137, R59): the model's own (log 7). -/
inductive Evict where
  | l1 (core line : Nat) | slice (core line : Nat) | tlb (core n : Nat) | walk (core n : Nat) | span (core n : Nat) | icache (core pa : Nat)
  | fetch (hart va : Nat)
  deriving DecidableEq, Repr

/-- A turn of the agenda (the model's own, log 1). -/
inductive Turn where
  | hart (h : Nat)
  /-- a ready strand issues before the work around it goes on (R66) -/
  | issue (h : Nat)
  | event (i : Instr)
  | elapse (cy ns : Nat)
  | evict (e : Evict)
  deriving DecidableEq, Repr

/-- The whole machine. -/
structure State where
  /-- the turns to come (the model's own, log 1) -/
  agenda : List Turn
  /-- the hart that moves when the agenda lists nothing (the model's own, log 1) -/
  cur : Nat
  mem : List Host.Cell
  /-- full/empty bits, by the number of the scratch line (R199); an unlisted line is empty -/
  fe : Tab Bool
  harts : Tab Hart
  cores : Tab Core
  clusters : Tab Cluster
  queues : Tab Queue
  ctxs : Tab Context
  dev : Device
  parked : List Parked
  /-- messages and answers the RoCEv2 engine has sent (log 12): kind, queue pair, bytes -/
  sent : List (Nat × Nat × List (BitVec 8))
  /-- how many free values have been taken (the model's own, log 30) -/
  freeCount : Nat
  deriving DecidableEq, Repr

/-- The reasons a step stops with a fault. -/
inductive Fault where
  /-- The agenda names as an event an instruction that has a word (raised by step only; safe: the model stops where
  nothing of the spec happens, since only the model's own agenda can name such a turn). -/
  | notAnEvent
  deriving DecidableEq, Repr

/-- The reasons a step is refused. -/
inductive Refusal where
  /-- The instruction has no meaning in this model (raised by Dispatch only; safe: the machine stops). -/
  | notModelled (mnemonic : String)
  deriving DecidableEq, Repr

/-- The answer of one step of this machine. -/
abbrev Out := Host.Outcome State Fault Refusal

/-! ## Reset -/

/-- A vector register at task start (Table 1-8). -/
def VReg.start : VReg := { bits := 0, valid := BitVec.allOnes 256, dirty := false, ext := 0 }

/-- A leeway register at task start (Table 1-8). -/
def Leeway.start : Leeway := { res := [], c := 1, p := 0, ns := false }

/-- An empty loop slot. -/
def LoopSlot.empty : LoopSlot := { cfg := 0, prev := none, miss := 0, creg := none }

/-- A copy channel at task start. -/
def Chan.start : Chan := { sh := [], nextId := 0, wm := 0, err := false, xfers := [], above := [] }

/-- The vector side at task start (Table 1-8, R69). vgrant 32 is a DESIGN CHOICE at reset (log 2). -/
def Vec.start (vgrant : Nat) : Vec :=
  { ncode := 2, slip := 15, vl := 0, vetype := 2, vgrant := vgrant, v := [], k := [], ly := [], loops := [],
    queue := [], nextSeq := 0, svMarks := [], resume := [], frames := [], restored := none }

/-- The staging units with nothing in them. -/
def Staging.start : Staging :=
  { rings := [], releases := [], chans := [], detached := [], eps := [], probe := none, tags := [], notices := [],
    async := [] }

/-- The array side of a strand that holds nothing. -/
def ArraySide.start : ArraySide := { req := false, reqAt := 0, area := none, mask := 0, resume := [], susp := 0, back := false }

/-- The privileged CSRs at reset (PRESUMED, log 3: the RISC-V privileged architecture resets mstatus.MIE and MPRV to 0;
zero elsewhere; UXL = SXL = 2). Once Binnacle has started the part it has set medeleg, mideleg and mie (R308). -/
def Csrs.reset (powered : Bool) : Csrs :=
  { mstatus := 0x0000000A00000000, medeleg := if powered then 0x00000000FF00B1FF else 0,
    mideleg := if powered then 0x00000000000F0222 else 0, mie := if powered then 0x0000000000020000 else 0, mipSw := 0,
    mtvec := 0, mcounteren := 0, menvcfg := 0, mscratch := 0, mepc := 0, mcause := 0, mtval := 0, stvec := 0,
    scounteren := 0, senvcfg := 0, sscratch := 0, sepc := 0, scause := 0, stval := 0, satp := 0, he := false,
    upvec := 0, upepc := 0, upcause := 0, upstat := 0 }

/-- A hart at reset. -/
def Hart.reset (powered : Bool) : Hart :=
  { on := false, pc := 0, mode := .m, x := [], f := [], fflags := 0, frm := 0, csr := Csrs.reset powered, instret := 0,
    resv := none, pos := 0, stores := [], loads := [], remotes := [], imageIn := none, fetchBuf := [], detector := [], wait := .none,
    task := none, preempt := false, alarm := BitVec.allOnes 64, vec := Vec.start 32,
    stg := Staging.start, arr := ArraySide.start }

/-- An unconfigured wire state (R273). -/
def Wire.reset : Wire :=
  { part := none, parked := none, ctx := 0, cols := 0, rows := 0, or_ := false, bound := 0, count := 0, done := true, vote := false,
    arrival := none, votes := [], heard := [] }

/-- A core at reset: every way is cache (R122). -/
def Core.reset : Core :=
  { tlb := [], walks := [], walking := [], span := [], l1 := [], l1used := [], slice := [], icache := [], wires := [], tiles := [], tickets := [],
    lowered := [], ways := 0, waysNew := none }

/-- An island at reset: on at 1.2 GHz, code 48 (DESIGN CHOICE, log 2). -/
def Island.reset : Island := { on := true, code := 48, change := none, cyc := (0, 0) }

/-- A lease that nobody has held: the rotation starts after place 15 (R182). -/
def Lease.reset : Lease :=
  { holder := none, ending := none, last := 15, cmds := 0, start := none, restoring := false, parking := none, freed := 0 }

/-- A cluster at reset: no array is bound, every TSAVE entry invalid (R179, R184). -/
def Cluster.reset : Cluster :=
  { arrbind := 0, clearing := false, weights := [], tiles := [], live := 0, lease := Lease.reset, cmdq := [],
    executing := none, fills := [], throttle := 16, tsave := [], areas := [], rings := [], ringSerial := 0, coreIsland := Island.reset,
    arrayIsland := Island.reset, served := [], reserved := none }

/-- A queue that is not valid. -/
def Queue.reset : Queue :=
  { qctl := 0, qlim := 0, qovf := 0, qovn := 0, qcons := 0, qbat := 0, recs := [], serial := 0, ovPos := 0, eligible := none,
    aged := 0, passed := [] }

/-- A context that is not resident. -/
def Context.reset : Context :=
  { ctl := 0, pager := 0, upvec := 0, stkb := 0, stks := 0, vst := [], slots := [], groupSerial := 0, fqbase := 0,
    fqctl := 0, fqhead := 0, fqtail := 0, fqlost := 0, pendLoss := 0, undelivered := false, killing := false,
    killed := false, entering := false }

/-- Link number l, 0 to 3 to the IOD from die l, 4 and 5 horizontal, 6 and 7 vertical, at the even split (R9): up where its
die is admitted from the first (R335). -/
def Link.reset (l : Nat) : Link :=
  { out := if l < 4 then 16 else 8, fifo := [], turning := none, lastChange := none, down := decide (l ≠ 0) }

/-- The device units at reset. Only CD0 serves before the other dies are admitted, device memory is not trained, and
lanes 0 and 1 carry the port (R335). -/
def Device.reset : Device :=
  { home := [], homeChange := none, shootVa := 0, shoot := none, shootPos := [], vst := [], counters := [], gangs := [], queries := [],
    links := [], chron := 0, chronAdj := 0, chronFrac := 0, cy := 0, pwrcap := 1400, events := [], linkev := [],
    linkevLost := false, bnmbox := [], qpidx := 0, qpwin := [], qpBusy := none, qpRefused := false, qps := [],
    windows := [], regions := [], recvPos := [], lanes := 3, portUp := true, powered := false, locked := false,
    trained := false, admitted := [(0, true)], offline := [], vstLate := [], tripped := false, poison := [] }

/-- The machine right after reset. -/
def State.reset : State :=
  { agenda := [], cur := 0, mem := [], fe := [], harts := [], cores := [], clusters := [], queues := [], ctxs := [],
    dev := Device.reset, parked := [], sent := [], freeCount := 0 }

end Sys2Proof.Machine
end

