-- ==== Sys2Proof/Machine/Ops.lean ====
section
/-!
DEFINITION. The named operations over the state: memory bytes, registers, places of harts and cores, the physical map,
the fault queue, link events, taking an exception and returning from one.
-/
namespace Sys2Proof.Machine

/-! ## Places (R11, R12) -/

/-- The first management hart (R10). -/
def mgmtBase : Nat := 2048

/-- Whether a hart number names a hart (R10, R11). -/
def isHart (h : Nat) : Bool := decide (h < 2056)

/-- Whether the hart is a management hart (R10). -/
def isMgmt (h : Nat) : Bool := decide (2048 ≤ h)

/-- The core of a strand, die·128 + n (R11). -/
def coreOf (h : Nat) : Nat := h / 4

/-- The die of a core (R11). -/
def dieOfCore (c : Nat) : Nat := c / 128

/-- The column of a core (R11). -/
def colOf (c : Nat) : Nat := c % 128 % 16

/-- The row of a core (R11). -/
def rowOf (c : Nat) : Nat := c % 128 / 16

/-- The device cluster of a core, die·32 + c (R12). -/
def clusterOf (c : Nat) : Nat := c / 128 * 32 + rowOf c / 2 * 8 + colOf c / 2

/-- The place of a core in its cluster (R12). -/
def quarterOf (c : Nat) : Nat := rowOf c % 2 * 2 + colOf c % 2

/-- The core at place q of a device cluster (R12). -/
def coreAt (cl q : Nat) : Nat :=
  cl / 32 * 128 + (cl % 32 / 8 * 2 + q / 2) * 16 + (cl % 8 * 2 + q % 2)

/-- The cluster of a strand. -/
def clOf (h : Nat) : Nat := clusterOf (coreOf h)

/-- The place of a strand in its cluster's rotation, q·4 + strand (R182). -/
def placeOf (h : Nat) : Nat := quarterOf (coreOf h) * 4 + h % 4

/-- The strand at a place of a cluster (R182). -/
def strandAt (cl i : Nat) : Nat := coreAt cl (i / 4) * 4 + i % 4

/-! ## Parts of the state -/

/-- Hart h; a hart not listed stands as at reset. -/
def State.hart (s : State) (h : Nat) : Hart := (s.harts.find h).getD (Hart.reset s.dev.powered)

/-- Put hart h. -/
def State.setHart (s : State) (h : Nat) (v : Hart) : State := { s with harts := s.harts.ins h v }

/-- Change hart h. -/
def State.onHart (s : State) (h : Nat) (f : Hart → Hart) : State := s.setHart h (f (s.hart h))

/-- Core c. -/
def State.core (s : State) (c : Nat) : Core := s.cores.get Core.reset c

/-- Change core c. -/
def State.onCore (s : State) (c : Nat) (f : Core → Core) : State := { s with cores := s.cores.ins c (f (s.core c)) }

/-- Cluster cl. -/
def State.cluster (s : State) (cl : Nat) : Cluster := s.clusters.get Cluster.reset cl

/-- Change cluster cl. -/
def State.onCluster (s : State) (cl : Nat) (f : Cluster → Cluster) : State :=
  { s with clusters := s.clusters.ins cl (f (s.cluster cl)) }

/-- Queue q. -/
def State.queue (s : State) (q : Nat) : Queue := s.queues.get Queue.reset q

/-- Change queue q. -/
def State.onQueue (s : State) (q : Nat) (f : Queue → Queue) : State :=
  { s with queues := s.queues.ins q (f (s.queue q)) }

/-- Context c. -/
def State.ctx (s : State) (c : Nat) : Context := s.ctxs.get Context.reset c

/-- Change context c. -/
def State.onCtx (s : State) (c : Nat) (f : Context → Context) : State :=
  { s with ctxs := s.ctxs.ins c (f (s.ctx c)) }

/-- Change the device units. -/
def State.onDev (s : State) (f : Device → Device) : State := { s with dev := f s.dev }

/-- Change the vector side of hart h. -/
def State.onVec (s : State) (h : Nat) (f : Vec → Vec) : State := s.onHart h (fun t => { t with vec := f t.vec })

/-- Change the staging units of hart h. -/
def State.onStg (s : State) (h : Nat) (f : Staging → Staging) : State := s.onHart h (fun t => { t with stg := f t.stg })

/-- Change the CSRs of hart h. -/
def State.onCsr (s : State) (h : Nat) (f : Csrs → Csrs) : State := s.onHart h (fun t => { t with csr := f t.csr })

/-- Die link l. -/
def State.link (s : State) (l : Nat) : Link := s.dev.links.get (Link.reset l) l

/-- Change die link l. -/
def State.onLink (s : State) (l : Nat) (f : Link → Link) : State :=
  s.onDev (fun d => { d with links := d.links.ins l (f (s.link l)) })

/-- The wire state of kind w at core c (R273). -/
def State.wire (s : State) (c w : Nat) : Wire := (s.core c).wires.get Wire.reset w

/-- Put the wire state of kind w at core c. -/
def State.setWire (s : State) (c w : Nat) (v : Wire) : State :=
  s.onCore c (fun k => { k with wires := k.wires.ins w v })

/-- The harts of the part. -/
def allHarts : List Nat := List.range 2056

/-- The context of the task a hart runs (R23). -/
def State.ctxOf (s : State) (h : Nat) : Option Nat := (s.hart h).task.map Task.ctx

/-! ## Registers -/

/-- X[n]: x0 reads 0 (R24). -/
def State.x (s : State) (h n : Nat) : Word := if n = 0 then 0 else (s.hart h).x.get 0 n

/-- X[n] := v; a write to x0 is discarded (R24, R30). -/
def State.setX (s : State) (h n : Nat) (v : Word) : State :=
  if n = 0 then s else s.onHart h (fun t => { t with x := t.x.put 0 n v })

/-- F[n] (R24). -/
def State.f (s : State) (h n : Nat) : Half := (s.hart h).f.get 0 n

/-- mstatus.FS becomes Dirty, and SD with it (R61). -/
def Csrs.dirtyFs (c : Csrs) : Csrs := { c with mstatus := setBit (setFld c.mstatus 13 2 3) 63 true }

/-- F[n] := v; FS becomes Dirty (R61). -/
def State.setF (s : State) (h n : Nat) (v : Half) : State :=
  s.onHart h (fun t => { t with f := t.f.put 0 n v, csr := t.csr.dirtyFs })

/-- Go on to an address. -/
def State.setPc (s : State) (h : Nat) (v : Word) : State := s.onHart h (fun t => { t with pc := v })

/-- An instruction of hart h retires and the hart goes on at `v`: instret counts it (R62), and the program-order place
of the next instruction rises. -/
def State.retireTo (s : State) (h : Nat) (v : Word) : State :=
  s.onHart h (fun t => { t with pc := v, instret := t.instret + 1, pos := t.pos + 1, wait := .none })

/-- An instruction of hart h retires and the hart goes on at the next word. -/
def State.retire (s : State) (h : Nat) : State := s.retireTo h ((s.hart h).pc + 4)

/-- Hart h's issue is held by its instruction (R66); the pc stays at it. -/
def State.hold (s : State) (h : Nat) (w : Wait) : State := s.onHart h (fun t => { t with wait := w })

/-- The mask register i as it stands bits: k0 reads all ones (R24). -/
def Vec.mask (v : Vec) (i : Nat) : BitVec 8192 := if i = 0 then BitVec.allOnes 8192 else v.k.get 0 i

/-! ## Clocks (R3, R62, R324) -/

/-- The clock code at which an island runs: the lower of old and new during a change. -/
def Island.speed (i : Island) : Nat := match i.change with | some (1, f) => min i.code f | _ => i.code

/-- The clock cycles counted by a cy, in units of 1/96: 0.6 GHz + f·12.5 MHz is (48 + f)/96 of 1.2 GHz. -/
def Island.cycles (i : Island) (now : Nat) : Nat := if i.on then i.cyc.1 + (now - i.cyc.2) * (48 + i.speed) else i.cyc.1

/-- The count brought up to a cy, before the clock changes. -/
def Island.settled (i : Island) (now : Nat) : Island := { i with cyc := (i.cycles now, now) }

/-! ## Memory bytes -/

/-- What a byte of memory that nothing has written reads as: 0 (DESIGN CHOICE, log 4). -/
def memDefault : Byte := 0

/-- The byte at a physical address. -/
def State.byte (s : State) (a : Nat) : Byte := Tab.get memDefault s.mem a

/-- Store one byte at a physical address; the list keeps its canonical form. -/
def State.setByte (s : State) (a : Nat) (b : Byte) : State := { s with mem := Tab.put memDefault s.mem a b }

/-- The n bytes from a physical address, in memory order. -/
def State.bytes (s : State) (a : Nat) : Nat → List Byte
  | 0 => []
  | n + 1 => s.byte a :: s.bytes (a + 1) n

/-- Store bytes from a physical address on. -/
def State.setBytes (s : State) (a : Nat) : List Byte → State
  | [] => s
  | b :: r => (s.setByte a b).setBytes (a + 1) r

/-- The little-endian number of n bytes at a physical address (R2). -/
def State.mem64 (s : State) (a n : Nat) : Nat := ofBytes (s.bytes a n)

/-- The canonical form of the memory list. -/
def Memory.wf (s : State) : Bool := Tab.wf memDefault s.mem

/-! ## The physical map (R14 to R16) -/

/-- Where a physical address lies (Table 1-6). -/
inductive Region where
  | dram
  | vault (core way : Nat)
  | scratch (core off : Nat)
  | reg (off : Nat)
  | remote (w off : Nat)
  | nothing
  deriving DecidableEq, Repr

/-- The row of Table 1-6 that holds a physical address. -/
def regionOf (pa : Nat) : Region :=
  if pa < 0x7735940000 then .dram
  else if 0x010000000000 ≤ pa ∧ pa < 0x010100000000 then
    let o := pa - 0x010000000000
    .vault (coreAt (o / 0x2000000) (o / 0x800000 % 4)) (o / 0x80000 % 16)
  else if 0x010100000000 ≤ pa ∧ pa < 0x010140000000 then
    let o := pa - 0x010100000000
    let n := o / 0x100000 % 256
    if n < 128 ∧ o % 0x100000 < 0xC0000 then .scratch (o / 0x10000000 * 128 + n) (o % 0x100000) else .nothing
  else if 0x018000000000 ≤ pa ∧ pa < 0x018100000000 then .reg (pa - 0x018000000000)
  else if 0x800000000000 ≤ pa ∧ pa < 0x1000000000000 then
    let o := pa - 0x800000000000
    .remote (o / 0x10000000000) (o % 0x10000000000)
  else .nothing

/-- The physical base of a core's scratchpad (Table 1-6). -/
def scratchBase (core : Nat) : Nat := 0x010100000000 + core / 128 * 0x10000000 + core % 128 * 0x100000

/-- The physical base of a cluster's vault (Table 1-6). -/
def vaultBase (cl : Nat) : Nat := 0x010000000000 + cl * 0x2000000

/-- The role of way w of a core's slice (R122). -/
def State.wayRole (s : State) (core w : Nat) : Nat := fld (s.core core).ways (2 * w) 2

/-- Whether the way counts as vault for a check: a way leaving the role counts as not vault at once (R14, R219). -/
def State.wayVault (s : State) (core w : Nat) : Bool :=
  decide (s.wayRole core w = 1) &&
    (match (s.core core).waysNew with | none => true | some n => decide (fld n (2 * w) 2 = 1))

/-- Whether a die answers: admitted and not in warm reset (R335, R338). -/
def State.dieUp (s : State) (d : Nat) : Bool := s.dev.admitted.get false d && !s.dev.offline.get false d

/-- Whether the scratchpads of a cluster are backed: the core island is on and no off or on is under way (R324). -/
def Island.backed (i : Island) : Bool := i.on && (match i.change with | some (op, _) => decide (op = 1) | none => true)

/-- How a physical address answers (R14 to R16, R324, R339). -/
inductive Backing where
  | ok | unbacked | offline
  deriving DecidableEq, Repr

/-- Whether the address is backed now. Device memory answers DIE_OFFLINE until it is trained (R335). -/
def State.backing (s : State) (pa : Nat) : Backing :=
  match regionOf pa with
  | .dram => if s.dev.trained then .ok else .offline
  | .vault c w => if !s.dieUp (dieOfCore c) then .offline else if s.wayVault c w then .ok else .unbacked
  | .scratch c _ =>
    if !s.dieUp (dieOfCore c) then .offline
    else if (s.cluster (clusterOf c)).coreIsland.backed then .ok else .unbacked
  | .reg _ => .ok
  | .remote _ _ => .ok
  | .nothing => .unbacked

/-- Whether n bytes hold an error that ECC cannot correct (R336). -/
def State.poisoned (s : State) (pa n : Nat) : Bool := s.dev.poison.any (fun p => overlap p.1 p.2 pa n)

/-- Bytes written over every byte of an erroneous range make its checks good again (log 52). -/
def State.heal (s : State) (pa n : Nat) : State :=
  if s.dev.poison.isEmpty then s
  else s.onDev (fun d => { d with poison := d.poison.filter (fun p => !(decide (pa ≤ p.1) && decide (p.1 + p.2 ≤ pa + n))) })

/-! ## Home codes (R118 to R120) -/

/-- Whether a home code names a usable entry: code 0 always, else kind 01 or a group with a member, reserved fields 0
(Table 5-7). -/
def State.homeOk (s : State) (code : Nat) : Bool :=
  if code = 0 then true
  else
    let e := s.dev.home.get 0 code
    let kind := fld e 62 2
    if kind = 1 then decide (fld e 9 53 = 0)
    else if kind = 2 then
      decide (fld e 48 14 = 0) && decide (fld e 18 6 = 0) && decide (fld e 0 16 = 0) &&
        decide (fld e 32 16 ≠ 0) && decide (fld e 24 8 ≠ 0)
    else false

/-- The online die that serves in place of die d: the next in ascending order, modulo 4 (R338). -/
def State.serving (s : State) (d : Nat) : Nat :=
  if s.dieUp d then d else if s.dieUp ((d + 1) % 4) then (d + 1) % 4
  else if s.dieUp ((d + 2) % 4) then (d + 2) % 4 else (d + 3) % 4

/-- The home core of a device-memory line under a home code (R119, R338). -/
def State.homeOf (s : State) (code pa : Nat) : Nat :=
  let hsh := ((pa / 2 ^ 8) % 512) ^^^ ((pa / 2 ^ 17) % 512) ^^^ ((pa / 2 ^ 26) % 512)
  if code = 0 then s.serving (hsh / 128) * 128 + hsh % 128
  else
    let e := s.dev.home.get 0 code
    if fld e 62 2 = 1 then fld e 0 9
    else
      let ms := (List.range 128).filter (fun n => bit e (32 + n % 16) && bit e (24 + n / 16))
      fld e 16 2 * 128 + ms.getD (hsh % (max ms.length 1)) 0

/-! ## Reservations and read copies -/

/-- Every other hart's reservation on a granule the bytes touch is lost; with `also` the writer's own as well (R57). -/
def State.breakResv (s : State) (also : Bool) (h pa n : Nat) : State :=
  { s with harts := s.harts.map (fun p =>
      match p.2.resv with
      | none => p
      | some (a, _) =>
        if (also || p.1 != h) && shareGranule (a / 32 * 32) 32 pa n then (p.1, { p.2 with resv := none }) else p) }

/-- The sectors of a line that n bytes touch. -/
def SliceLine.touched (x : SliceLine) (pa n : Nat) : BitVec 8 :=
  (List.range 8).foldl (fun (b : BitVec 8) i => if shareGranule (x.addr + 32 * i) 32 pa n then setBit b i true else b) 0

/-- A write at the home: the sectors present that it touches are dirty in the slice (R122). A line that is absent stays
absent (log 57). -/
def SliceLine.written (x : SliceLine) (pa n : Nat) : SliceLine :=
  { x with dirty := x.dirty ||| (x.sectors &&& x.touched pa n) }

/-- A line leaves an L1. -/
def Core.noL1 (k : Core) (gone : Nat → Bool) : Core :=
  { k with l1 := k.l1.filter (fun l => !gone l), l1used := k.l1used.filter (fun l => !gone l) }

/-- Every L1 copy in other cores of the lines that the bytes touch goes, before the store performs (R121). -/
def State.dropL1 (s : State) (core : Option Nat) (pa n : Nat) : State :=
  { s with cores := s.cores.map (fun p =>
      if some p.1 = core then p else (p.1, p.2.noL1 (fun l => shareGranule l 32 pa n))) }

/-- The bytes are written where the home slices hold their lines (R122). -/
def State.writeSlices (s : State) (pa n : Nat) : State :=
  { s with cores := s.cores.map (fun p => (p.1, { p.2 with slice := p.2.slice.map (fun x => x.written pa n) })) }

/-- A store of an agent performs at its home: bytes, L1 copies, reservations (R57, R121, R259). `also`: the writing
strand's own reservation is lost too (vector stores, atomics and copies). -/
def State.perform (s : State) (also : Bool) (h : Nat) (core : Option Nat) (pa : Nat) (bs : List Byte) : State :=
  ((((s.setBytes pa bs).heal pa bs.length).dropL1 core pa bs.length).writeSlices pa bs.length).breakResv also h pa bs.length

/-! ## L1 and the slices (R121, R122; the policy: log 57) -/

/-- The ways of a core's slice that cache: role 00, and staying so. -/
def State.cacheWays (s : State) (core : Nat) : List Nat :=
  (List.range 16).filter (fun w => decide (s.wayRole core w = 0) &&
    (match (s.core core).waysNew with | none => true | some n => decide (fld n (2 * w) 2 = 0)))

/-- Lines leave a slice: written back, and with them every L1 copy of their sectors (R120, R121, R219). -/
def State.dropSlice (s : State) (core : Nat) (gone : SliceLine → Bool) : State :=
  let out := ((s.core core).slice.filter gone).map SliceLine.addr
  let s := s.onCore core (fun k => { k with slice := k.slice.filter (fun x => !gone x) })
  if out.isEmpty then s
  else { s with cores := s.cores.map (fun p => (p.1, p.2.noL1 (fun l => out.contains (l / 256 * 256)))) }

/-- Set the pseudo-LRU bit of one of a set's lines; as the last of them is set, the others are cleared. -/
def markUsed (set used : List Nat) (line : Nat) : List Nat :=
  let u := if used.contains line then used else used ++ [line]
  if set.all u.contains then u.filter (fun l => decide (l = line) || !set.contains l) else u

/-- Mark the slice line at an address as used. -/
def Core.sliceUsed (k : Core) (a : Nat) : Core :=
  let set := (k.slice.filter (fun x => x.addr / 256 % 2048 = a / 256 % 2048)).map SliceLine.addr
  let used := markUsed set ((k.slice.filter SliceLine.used).map SliceLine.addr) a
  { k with slice := k.slice.map (fun x => { x with used := used.contains x.addr }) }

/-- Sector `pa` comes into the line of a slice that holds it. -/
def Core.sliceSector (k : Core) (pa : Nat) : Core :=
  { k with slice := k.slice.map (fun x =>
      if x.addr = pa / 256 * 256 then { x with sectors := setBit x.sectors (pa / 32 % 8) true } else x) }

/-- Whether a slice holds the sector of an address. -/
def Core.hasSector (k : Core) (pa : Nat) : Bool :=
  k.slice.any (fun x => decide (x.addr = pa / 256 * 256) && bit x.sectors (pa / 32 % 8))

/-- A read of a sector at its home slice, which brings it in where `alloc`: into the line where the slice holds it, else
into a free cache way of its set, else in place of the line that the pseudo-LRU bits name (R122). -/
def State.sliceRead (s : State) (code pa : Nat) (alloc : Bool) : State :=
  let c := s.homeOf code pa
  let k := s.core c
  let a := pa / 256 * 256
  if k.slice.any (fun x => x.addr = a) then
    s.onCore c (fun k => (if alloc then k.sliceSector pa else k).sliceUsed a)
  else if !alloc then s
  else
    let set := k.slice.filter (fun x => x.addr / 256 % 2048 = a / 256 % 2048)
    let fresh := fun (s : State) (w : Nat) => s.onCore c (fun k =>
      ({ k with slice := k.slice ++
          [{ addr := a, code := code, way := w, sectors := setBit 0 (pa / 32 % 8) true, dirty := 0, used := false }] } : Core).sliceUsed a)
    match (s.cacheWays c).find? (fun w => !(set.map SliceLine.way).contains w) with
    | some w => fresh s w
    | none =>
      match (set.find? (fun x => !x.used)).orElse (fun _ => set.head?) with
      | some v => fresh (s.dropSlice c (fun x => x.addr = v.addr)) v.way
      | none => s

/-- A line that L1 holds is used: its pseudo-LRU bit. -/
def Core.l1Touch (k : Core) (line : Nat) : Core :=
  if k.l1.contains line then
    { k with l1used := markUsed (k.l1.filter (fun l => l / 32 % 2048 = line / 32 % 2048)) k.l1used line }
  else k

/-- A load is served from the L1 of hart h's core, where that holds the line. -/
def State.l1Touch (s : State) (h pa : Nat) : State :=
  if isMgmt h then s else s.onCore (coreOf h) (fun k => k.l1Touch (pa / 32 * 32))

/-- A line comes into an L1 that does not hold it, in place of the one that the pseudo-LRU bits name where its set of 8 is
full; it is used. -/
def Core.l1Fill (k : Core) (line : Nat) : Core :=
  let set := k.l1.filter (fun l => l / 32 % 2048 = line / 32 % 2048)
  let k' := if k.l1.contains line then k else if set.length < 8 then { k with l1 := k.l1 ++ [line] }
    else match (set.find? (fun l => !k.l1used.contains l)).orElse (fun _ => set.head?) with
      | some v => { k with l1 := k.l1.map (fun l => if l = v then line else l), l1used := k.l1used.filter (fun l => l != v) }
      | none => k
  k'.l1Touch line

/-! ## Full/empty lines (R199, R200) -/

/-- The number of the 128-byte line of a scratch byte. -/
def lineOf (pa : Nat) : Nat := pa / 128

/-- Whether a line is full. -/
def State.full (s : State) (l : Nat) : Bool := s.fe.get false l

/-- Set or clear a line's bit. -/
def State.setFull (s : State) (l : Nat) (b : Bool) : State := { s with fe := s.fe.put false l b }

/-- Set or clear the bits of n lines from l. -/
def State.setLines (s : State) (l : Nat) : Nat → Bool → State
  | 0, _ => s
  | n + 1, b => (s.setFull l b).setLines (l + 1) n b

/-- Count one in an event counter (R326): 0 SPEC_DROP, 1 FE_OVERFILL, 2 QDROP, 3 GANG_LATE, 4 FQ_LOST. -/
def State.count (s : State) (e n : Nat) : State :=
  s.onDev (fun d => { d with events := d.events.put 0 e (d.events.get 0 e + word n) })

/-- Set a line full as stfe does: an already full line counts FE_OVERFILL (R200). -/
def State.fill (s : State) (l : Nat) : State := if s.full l then s.count 1 1 else s.setFull l true

/-! ## The fault queue (R313, R314) -/

/-- N of a context's fault queue (Table 13-5). -/
def Context.fqSize (c : Context) : Nat := 2 ^ (fld c.fqctl 0 4 + 6)

/-- What a fault queue entry says (Table 13-7). -/
structure FqEntry where
  kind : Nat
  addr : Nat
  hart : Option Nat
  chan : Nat
  tile : Nat
  xfer : Nat
  cause : Nat
  deriving DecidableEq, Repr

/-- An entry with nothing but its kind, address and hart. -/
def FqEntry.mk3 (kind addr : Nat) (hart : Option Nat) : FqEntry :=
  { kind := kind, addr := addr, hart := hart, chan := 0, tile := 0, xfer := 0, cause := 0 }

/-- The 64 bytes of an entry (Table 13-7). -/
def FqEntry.bytes (e : FqEntry) (ctx seq lost : Nat) : List Byte :=
  bytesOf 2 e.kind ++ bytesOf 1 ctx ++ bytesOf 1 (if lost = 0 then 0 else 1) ++ bytesOf 4 seq ++ bytesOf 8 e.addr ++
    bytesOf 4 (e.hart.getD 0xFFFFFFFF) ++ bytesOf 4 (e.chan % 4 + e.tile % 16 * 4) ++ bytesOf 4 e.xfer ++
    bytesOf 4 e.cause ++ bytesOf 4 lost ++ List.replicate 28 0

/-- Write an entry at the tail of a context's fault queue, or count it lost, and deliver its notice (R314) (log 45). -/
def State.fqPost (s : State) (c : Nat) (e : FqEntry) : State :=
  let x := s.ctx c
  if !bit x.fqctl 30 || decide (x.fqSize ≤ x.fqtail - x.fqhead) then
    (s.onCtx c (fun x => { x with fqlost := x.fqlost + 1, pendLoss := x.pendLoss + 1 })).count 4 1
  else
    let seq := x.fqtail
    let a := (x.fqbase.toNat / 4096 * 4096) % 2 ^ 48 + 64 * (seq % x.fqSize)
    let s := s.perform true mgmtBase none a (e.bytes c (seq % 2 ^ 32) x.pendLoss)
    let s := s.onCtx c (fun x => { x with fqtail := x.fqtail + 1, pendLoss := 0 })
    let fs := fld x.fqctl 16 12
    if bit x.fqctl 28 && decide (s.ctxOf fs = some c) then
      s.onStg fs (fun g => { g with async := g.async ++ [seq] })
    else s.onCtx c (fun x => { x with undelivered := true })

/-- Post for a hart's context, where it has one. -/
def State.fqPostFor (s : State) (h : Nat) (e : FqEntry) : State :=
  match s.ctxOf h with
  | some c => s.fqPost c e
  | none => s

/-! ## Link and platform events (R332) -/

/-- Post an event to LINKEV; a full buffer discards it and marks the next (Table 13-11). -/
def State.linkevPost (s : State) (kind unit : Nat) (up : Bool) : State :=
  s.onDev (fun d =>
    if 64 ≤ d.linkev.length then { d with linkevLost := true }
    else
      { d with
        linkev := d.linkev ++ [word (kind % 256 + unit % 256 * 2 ^ 8 + up.toNat * 2 ^ 16 + d.linkevLost.toNat * 2 ^ 23 +
          d.chron / 2 ^ 10 % 2 ^ 40 * 2 ^ 24)],
        linkevLost := false })

/-! ## Taking an exception and returning from one (R65, R308) -/

/-- The number of a mode in MPP and SPP. -/
def Mode.code : Mode → Nat
  | .u => 0
  | .s => 1
  | .m => 3

/-- Whether a trap of a mode with a cause is taken in S-mode: delegated, and not from M-mode (R308). -/
def Csrs.toS (c : Csrs) (md : Mode) (intr : Bool) (code : Nat) : Bool :=
  decide (md ≠ .m) && bit (if intr then c.mideleg else c.medeleg) code

/-- Where the handler stands: the base, or base + 4·code for an interrupt under a vectored tvec. -/
def handlerPc (tvec : Word) (intr : Bool) (code : Nat) : Word :=
  let base := setFld tvec 0 2 0
  if intr && decide (fld tvec 0 2 = 1) then base + word (4 * code) else base

/-- The cause register's value: bit 63 marks an interrupt. -/
def causeWord (intr : Bool) (code : Nat) : Word := setBit (word code) 63 intr

/-- Taking an exception or an interrupt, the one operation every trap goes through: the pc is saved, cause and trap
value are written, the status stack is pushed, the mode changes and the pc goes to the handler (R65, R308, and the
privileged architecture of Table 0-3). The reservation is lost (R57), and what held the strand's issue is abandoned. -/
def Hart.trap (t : Hart) (intr : Bool) (code : Nat) (tval : Word) : Hart :=
  let c := t.csr
  if c.toS t.mode intr code then
    { t with
      csr := { c with
        sepc := t.pc, scause := causeWord intr code, stval := tval,
        mstatus := setBit (setBit (setBit c.mstatus 5 (bit c.mstatus 1)) 1 false) 8 (decide (t.mode = .s)) }
      mode := .s, pc := handlerPc c.stvec intr code, resv := none, wait := .none }
  else
    { t with
      csr := { c with
        mepc := t.pc, mcause := causeWord intr code, mtval := tval,
        mstatus := setFld (setBit (setBit c.mstatus 7 (bit c.mstatus 3)) 3 false) 11 2 t.mode.code }
      mode := .m, pc := handlerPc c.mtvec intr code, resv := none, wait := .none }

/-- A trap or an upcall is taken: while a resume state is held, the return that ends it is kept (R101). -/
def Vec.leave (v : Vec) (f : Frame) : Vec := if v.resume.isEmpty then v else { v with frames := f :: v.frames }

/-- The frames that are left after a return of a kind to a mode and pc: those up to the innermost with that mode and pc have
ended; where there is none, as after a handler that has moved the pc on, those up to the innermost with that mode that this
return ends (log 66). -/
def framesAfter (fs : List Frame) (kind : Nat) (md : Mode) (pc : Word) : List Frame :=
  match fs.dropWhile (fun f => !(decide (f.mode = md) && decide (f.pc = pc))) with
  | _ :: r => r
  | [] => match fs.dropWhile (fun f => !(decide (f.kind = kind) && decide (f.mode = md))) with
    | _ :: r => r
    | [] => fs

/-- The trap of hart h. -/
def State.trapEntry (s : State) (h : Nat) (intr : Bool) (code : Nat) (tval : Word) : State :=
  s.onHart h (fun t =>
    { t.trap intr code tval with
      vec := t.vec.leave { kind := if t.csr.toS t.mode intr code then 1 else 2, mode := t.mode, pc := t.pc } })

/-- Return from an S-mode trap: mode from SPP, SIE from SPIE, pc from sepc; MPRV is cleared, since the new mode is below
M (privileged architecture, Table 0-3). -/
def Hart.sret (t : Hart) : Hart :=
  let st := t.csr.mstatus
  { t with
    mode := if bit st 8 then .s else .u
    pc := t.csr.sepc
    csr := { t.csr with mstatus := setBit (setBit (setBit (setBit st 1 (bit st 5)) 5 true) 8 false) 17 false } }

/-- Return from an M-mode trap: mode from MPP, MIE from MPIE, pc from mepc; MPRV is cleared unless the new mode is M. -/
def Hart.mret (t : Hart) : Hart :=
  let st := t.csr.mstatus
  let md : Mode := if fld st 11 2 = 3 then .m else if fld st 11 2 = 1 then .s else .u
  { t with
    mode := md
    pc := t.csr.mepc
    csr := { t.csr with mstatus :=
      (if md = .m then id else fun w => setBit w 17 false) (setFld (setBit (setBit st 3 (bit st 7)) 7 true) 11 2 0) } }

/-! ## Remote windows (R329) -/

/-- The window, its queue pair, the remote address and the key of a physical address. -/
def State.remoteTo (s : State) (pa : Nat) : Nat × Nat × Word × Nat :=
  let w := (pa - 0x800000000000) / 0x10000000000
  let e := s.dev.windows.get [] w
  (w, fld (e.getD 0 0) 1 12, e.getD 1 0 + word (pa % 0x10000000000), fld (e.getD 2 0) 0 32)

/-- Send a message of a kind on a queue pair (log 12): 1 RDMA READ, 2 RDMA WRITE, 3 READ response, 4 ACK, 5 RNR NAK,
6 Remote Access Error, 7 Invalid Request, 8 retransmission, 9 SEND. -/
def State.send (s : State) (kind qp : Nat) (bs : List Byte) : State := { s with sent := s.sent ++ [(kind, qp, bs)] }

/-- Whether a queue pair sends: it is in state ready (R323, R330). -/
def State.qpSends (s : State) (qp : Nat) : Bool := decide (fld ((s.dev.qps.get [] qp).getD 0 0) 1 2 = 1)

end Sys2Proof.Machine
end

