-- ==== Sys2Proof/Machine/Lease.lean ====
section
/-!
DEFINITION. The lease of a cluster's array (R180 to R184): its requests, its end by budget and what then happens to its
tiles, and its grant.
-/
namespace Sys2Proof.Machine

/-! ## The lease (R180 to R184) -/

/-- Whether no accepted command of a cluster is left. -/
def Cluster.quiet (c : Cluster) : Bool := c.cmdq.isEmpty && c.executing.isNone && c.fills.isEmpty

/-- Whether the lease is free (R182). -/
def Cluster.leaseFree (c : Cluster) : Bool :=
  c.lease.holder.isNone && c.lease.ending.isNone && c.lease.parking.isNone && c.quiet

/-- Change the lease of a cluster. -/
def State.onLease (s : State) (cl : Nat) (f : Lease → Lease) : State :=
  s.onCluster cl (fun c => { c with lease := f c.lease })

/-- Change the array side of a hart. -/
def State.onArr (s : State) (h : Nat) (f : ArraySide → ArraySide) : State :=
  s.onHart h (fun t => { t with arr := f t.arr })

/-- The strands of a cluster with a request posted, but for one. -/
def State.requesters (s : State) (cl but : Nat) : List Nat :=
  ((List.range 16).map (strandAt cl)).filter (fun h => h != but && (s.hart h).arr.req)

/-- A free tile save area: the lowest valid entry that holds no tiles (R184). -/
def Cluster.freeArea (c : Cluster) : Option Nat :=
  (List.range 32).find? (fun k => decide (128 ≤ (c.tsave.get 0 k).toNat) && (c.areas.find k).isNone)

/-- Once the ended lease's commands are done, its tiles go: parking starts into a free area, or they are discarded, and the lease
is free from a cy on. A park without a free area waits. -/
def State.leaseSettleAt (s : State) (cl now : Nat) : State :=
  let c := s.cluster cl
  match c.lease.ending with
  | none => s
  | some (h, park) =>
    if !c.quiet || c.lease.restoring || c.lease.parking.isSome then s
    else if park && decide (c.live ≠ 0) then
      (match c.freeArea with
        | none => s
        | some k => s.onLease cl (fun l => { l with parking := some (h, k) }))
    else s.onCluster cl (fun c =>
      { c with tiles := [], live := 0, lease := { c.lease with ending := none, freed := now } })

/-- The same in this cy. -/
def State.leaseSettle (s : State) (cl : Nat) : State := s.leaseSettleAt cl s.dev.cy

/-- A strand's request is posted in a cy; one that is posted keeps its cy. -/
def ArraySide.ask (a : ArraySide) (now : Nat) : ArraySide := if a.req then a else { a with req := true, reqAt := now }

/-- The holder's lease reaches its end: renewed where no other strand asks, else revoked in the cy `at_`, its request posted
(R181). `now` is when the new budgets start. -/
def State.leaseEnd (s : State) (cl at_ now : Nat) : State :=
  match (s.cluster cl).lease.holder with
  | none => s
  | some h =>
    if (s.requesters cl h).isEmpty then
      s.onLease cl (fun l => { l with cmds := 256, start := l.start.map (fun _ => now) })
    else
      let s := s.onLease cl (fun l => { l with holder := none, ending := some (h, true), start := none })
      (s.onArr h (fun a => a.ask at_)).leaseSettleAt cl at_

/-- End the lease where its cy budget has run out. -/
def State.budgetOut (s : State) (cl : Nat) : State :=
  let l := (s.cluster cl).lease
  match l.holder, l.start with
  | some _, some t => if t + 16384 ≤ s.dev.cy then s.leaseEnd cl (t + 16384) (t + (s.dev.cy - t) / 16384 * 16384) else s
  | _, _ => s

/-! ## Grant (R182) -/

/-- The recorded commands of a resumed holder go back into the command queue and are charged (R197). -/
def State.reenter (s : State) (cl h : Nat) : State :=
  let rs := (s.hart h).arr.resume
  let s := s.onCluster cl (fun c =>
    { c with cmdq := c.cmdq ++ rs, lease := { c.lease with cmds := c.lease.cmds - rs.length } })
  s.onArr h (fun a => { a with resume := [], back := false })

/-- Grant the lease to a strand in a cy (R182): full budgets; its parked tiles are to be restored, its other tiles are +0.0. -/
def State.grantLease (s : State) (cl h now : Nat) : State :=
  let back := (s.hart h).arr.area.isSome
  let s := s.onArr h (fun a => { a with req := false })
  let s := s.onCluster cl (fun c =>
    { c with tiles := [], live := 0
             lease := { c.lease with holder := some h, ending := none, last := placeOf h, cmds := 256
                                     start := if back then none else some now, restoring := back } })
  if back then s else s.reenter cl h

/-- The strands of a cluster with a request posted, in the order of the rotation. -/
def State.asking (s : State) (cl : Nat) : List Nat :=
  let last := (s.cluster cl).lease.last
  ((List.range 16).map (fun i => strandAt cl ((last + 1 + i) % 16))).filter (fun h => (s.hart h).arr.req)

/-- The cy in which a free lease with requests posted is due to be granted: that in which it became free, or a later one in
which the first request was posted. -/
def State.grantDue (s : State) (cl : Nat) : Nat :=
  let first := leastBy id ((s.asking cl).map (fun h => (s.hart h).arr.reqAt))
  max (s.cluster cl).lease.freed (first.getD 0)

/-- Who is granted a free lease: of the strands that had posted their requests by the cy in which the grant is due, the one
whose place comes first after the last holder's. -/
def State.nextHolder (s : State) (cl : Nat) : Option Nat :=
  (s.asking cl).find? (fun h => decide ((s.hart h).arr.reqAt ≤ s.grantDue cl))

/-- The free lease is granted to the next requester, in the cy in which that is due. -/
def State.leaseGrant (s : State) (cl : Nat) : Option State :=
  if (s.cluster cl).leaseFree then (s.nextHolder cl).map (fun h => s.grantLease cl h (s.grantDue cl)) else none

/-- What has come to pass of a cluster's lease before this cy: its cy budget has run out, a grant that was due was made. -/
def State.leaseCheck (s : State) (cl : Nat) : State :=
  let s := s.budgetOut cl
  if s.grantDue cl < s.dev.cy then ((s.leaseGrant cl).getD s).budgetOut cl else s

/-- What has come to pass of every lease (R181, R182), before requests change. -/
def State.leaseChecks (s : State) : State := s.clusters.foldl (fun (s : State) (p : Nat × Cluster) => s.leaseCheck p.1) s

end Sys2Proof.Machine
end

