-- ==== Sys2Proof/Machine/QueueOps.lean ====
section
/-!
DEFINITION. The hardware queues (R229 to R236): records, limits, overflow, removal; the start of a context's kill; the
pager's requests and their upcall (R140 to R147).
-/
namespace Sys2Proof.Machine

/-- A queue's context. -/
def Queue.ctx (q : Queue) : Nat := fld q.qctl 0 4
/-- valid. -/
def Queue.valid (q : Queue) : Bool := bit q.qctl 4
/-- bound. -/
def Queue.bound (q : Queue) : Bool := bit q.qctl 10
/-- The high watermark W. -/
def Queue.wmark (q : Queue) : Nat := fld q.qlim 0 14
/-- The hard limit H. -/
def Queue.hard (q : Queue) : Nat := fld q.qlim 16 14
/-- The overflow capacity in records. -/
def Queue.ovCap (q : Queue) : Nat := fld q.qovn 0 32
/-- Records in overflow. -/
def Queue.inOverflow (q : Queue) : Nat := (q.recs.filter Record.overflow).length
/-- Records in pinned storage. -/
def Queue.pinned (q : Queue) : Nat := (q.recs.filter (fun r => !r.overflow)).length
/-- The address of the n-th overflow record after the oldest (the layout inside the area: log 9). -/
def Queue.ovAddr (q : Queue) (n : Nat) : Nat :=
  q.qovf.toNat / 256 * 256 % 2 ^ 48 + 64 * ((q.ovPos + n) % (max q.ovCap 1))

/-- The key of a record (Table 10-2). -/
def Record.key (r : Record) : Nat := fld r.data 0 32
/-- L: a launch record. -/
def Record.launch (r : Record) : Bool := bit r.data 56
/-- The launch block a launch record names. -/
def Record.block (r : Record) : Nat := fld r.data 64 64
/-- The gang number a launch record names. -/
def Record.gang (r : Record) : Nat := fld r.data 128 32

/-- The bytes of a record, in memory order. -/
def recBytes (d : BitVec 512) : List Byte := bytesOf 64 d.toNat

/-- A launch record (R238): key, L, block, gang 0. -/
def launchRecord (key block : Nat) : BitVec 512 :=
  BitVec.ofNat 512 (key % 2 ^ 32 + 2 ^ 56 + block % 2 ^ 64 * 2 ^ 64)

/-- The queue's home core (R230). -/
def queueHome (q : Nat) : Nat := q / 256 * 128 + q % 256 / 2

/-- A record's S bit (Table 10-2). -/
def setS (d : BitVec 512) (b : Bool) : BitVec 512 := setBit d 57 b

/-- The copy engines abandon the transfers of context c, those of detached channels too (R323, step 3). -/
def Staging.abandon (g : Staging) (c : Nat) : Staging :=
  let keep := fun (k : Chan) => { k with xfers := k.xfers.filter (fun x => x.ctx != c) }
  { g with
    chans := g.chans.map (fun (q : Nat × Chan) => (q.1, keep q.2))
    detached := (g.detached.map (fun d => { d with chan := keep d.chan })).filter (fun d => !d.chan.xfers.isEmpty) }

/-- The queue records and gang entries of context c go (R248, R323). -/
def State.discardQueues (s : State) (c : Nat) : State :=
  ({ s with queues := s.queues.map (fun (p : Nat × Queue) =>
      if p.2.valid && decide (p.2.ctx = c) then (p.1, { p.2 with recs := [] }) else p) }).onDev (fun d =>
    { d with gangs := d.gangs.filter (fun g => g.1 != c) })

/-- A kill of context c begins (R323, steps 1 to 3): its strands stop at this boundary, their queued vector
instructions, resume states and notices go, its dispatch stops, and every queue record and gang entry of it goes. -/
def State.beginKill (s : State) (c : Nat) : State :=
  let s := s.leaseChecks.onCtx c (fun x => { x with killing := true })
  let s := { s with
    harts := s.harts.map (fun (p : Nat × Hart) =>
      if (p.2.task.map Task.ctx) = some c then
        (p.1, { p.2 with
          wait := .none, resv := none
          vec := { p.2.vec with queue := [], resume := [], svMarks := [], frames := [] }
          stg := { p.2.stg.abandon c with notices := [], async := [], tags := [], probe := none, releases := [] }
          arr := { p.2.arr with req := false, resume := [], susp := 0, back := false } })
      else (p.1, { p.2 with stg := p.2.stg.abandon c })) }
  (s.discardQueues c).onDev (fun d => { d with queries := d.queries.filter (fun q => q.ctx != c) })

/-- The index of the record of lowest key among the n oldest that satisfy a test, ties to the older. -/
def Queue.lowest (q : Queue) (n : Nat) (ok : Record → Bool) : Option Nat :=
  let l := (q.recs.take n).zipIdx.filter (fun p => ok p.1)
  (leastBy (fun p => p.1.key) l).map (·.2)

/-- Whether a gang number needs no arming or is armed (R242). -/
def State.gangArmed (s : State) (c g : Nat) : Bool := decide (g = 0) || s.dev.gangs.any (fun (e : Nat × Nat × Word) => e.1 = c && e.2.1 = g)

/-- The candidate of an unbound queue: among its 64 oldest, the launch record of lowest key whose gang is armed (R243). -/
def State.candidate (s : State) (q : Nat) : Option Nat :=
  (s.queue q).lowest 64 (fun r => r.launch && s.gangArmed (s.queue q).ctx r.gang)

/-- B, the batch size of a bound queue. -/
def Queue.batch (q : Queue) : Nat := fld q.qctl 11 8 + 1

/-- Whether a bound queue's oldest record has waited its batch wait by a cy (R243). -/
def Queue.waited (q : Queue) (now : Nat) : Bool :=
  match q.recs with
  | [] => false
  | r :: _ => decide (r.at_ + 2 ^ (10 + fld q.qctl 19 4) ≤ now)

/-- Whether a queue is eligible (R243): it holds a candidate, and its context is not being killed and has not been
(R248, R323). -/
def State.eligible (s : State) (q : Nat) : Bool :=
  let x := s.queue q
  x.valid && !(s.ctx x.ctx).killing && !(s.ctx x.ctx).killed &&
    (if x.bound then decide (x.batch ≤ x.recs.length) || x.waited s.dev.cy else (s.candidate q).isSome)

/-- Keep account of since when a queue is eligible (R245). -/
def State.track (s : State) (q : Nat) : State :=
  if s.eligible q then (if (s.queue q).eligible.isSome then s else s.onQueue q (fun x => { x with eligible := some s.dev.cy }))
  else if (s.queue q).eligible.isSome ∨ (s.queue q).aged ≠ 0 ∨ (s.queue q).passed ≠ [] then
    s.onQueue q (fun x => { x with eligible := none, aged := 0, passed := [] })
  else s

/-- Which limits a push meets (Table 10-4). -/
inductive PushKind where
  | user | successor | pager
  deriving DecidableEq, Repr

/-- How many records stand before one that arrives now with a rank (R231): those of earlier cy, and of this cy those of
no higher rank. -/
def Queue.place (q : Queue) (now rank : Nat) : Nat :=
  (q.recs.takeWhile (fun r => decide (r.at_ < now) || decide (r.rank ≤ rank))).length

/-- How many records in overflow stand before the i-th of all. -/
def Queue.ovBefore (q : Queue) (i : Nat) : Nat := ((q.recs.take i).filter Record.overflow).length

/-- The bytes of the i-th oldest record: pinned, or in the overflow area. -/
def State.record (s : State) (q i : Nat) : BitVec 512 :=
  let x := s.queue q
  match x.recs[i]? with
  | none => 0
  | some r => if r.overflow then BitVec.ofNat 512 (s.mem64 (x.ovAddr (x.ovBefore i)) 64) else r.data

/-- Write the records of a queue that stand in overflow to their places in the area, from the n-th on. -/
def State.putOverflow (s : State) (q h n : Nat) (ds : List (BitVec 512)) : State :=
  (ds.zipIdx.drop n).foldl (fun (s : State) d => s.perform true h none ((s.queue q).ovAddr d.2) (recBytes d.1)) s

/-- A record joins a queue at its place among those of its cy (R231), pinned. -/
def State.join (s : State) (q rank : Nat) (d : BitVec 512) : State :=
  s.onQueue q (fun x =>
    { x with
      recs := x.recs.insertIdx (x.place s.dev.cy rank)
        { data := d, at_ := s.dev.cy, rank := rank, overflow := false, serial := x.serial }
      serial := x.serial + 1 })

/-- A record joins a queue beyond the hard limit: the youngest record goes to the end of the overflow area, with S set
(R231, Table 10-4). Where the record does not stand last of its cy, those behind it move on by one place. -/
def State.joinOver (s : State) (q rank : Nat) (d : BitVec 512) (h : Nat) : State :=
  let x := s.queue q
  let i := x.place s.dev.cy rank
  let ds := (List.range x.recs.length).map (s.record q)
  let recs := x.recs.insertIdx i { data := d, at_ := s.dev.cy, rank := rank, overflow := false, serial := x.serial }
  let all := (recs.zip (ds.insertIdx i d)).zipIdx.map (fun (p, k) =>
    if x.pinned ≤ k then ({ p.1 with data := setS p.2 true, overflow := true } : Record) else { p.1 with data := p.2, overflow := false })
  let s := s.onQueue q (fun x => { x with recs := all, serial := x.serial + 1 })
  s.putOverflow q h (if (x.recs.takeWhile (fun r => !r.overflow)).length = x.pinned then x.ovBefore i else 0) ((all.filter Record.overflow).map Record.data)

/-- Append a record from a poster of a rank (R231, R232): the state and whether it was accepted. A bypassing push that
meets a full overflow area kills the queue's context and records QUEUE_OVERFLOW. A pager record keeps its bit 57, which
is a bit of its address. -/
def State.append (s : State) (q : Nat) (k : PushKind) (d : BitVec 512) (h rank : Nat) : State × Bool :=
  let x := s.queue q
  let n := x.recs.length
  let d' := if k = .pager then d else setS d false
  if k = .user then (if n < x.wmark then (s.join q rank d', true) else (s, false))
  else if n < x.hard then (s.join q rank d', true)
  else if x.inOverflow < x.ovCap then (s.joinOver q rank d' h, true)
  else
    let s := s.fqPost x.ctx (FqEntry.mk3 6 (0x018000020000 + 64 * q) (some h))
    (s.beginKill x.ctx, false)

/-- Append a record that hart h posts, and keep account of the queue's eligibility. -/
def State.push (s : State) (q : Nat) (k : PushKind) (d : BitVec 512) (h : Nat) : State × Bool :=
  let (s, ok) := s.append q k d h (h + 1)
  (s.track q, ok)

/-- Append a record that the RoCEv2 engine posts (R231). -/
def State.pushNet (s : State) (q : Nat) (d : BitVec 512) : State × Bool :=
  let (s, ok) := s.append q .user d mgmtBase 0
  (s.track q, ok)

/-- Move the overflow records older than the n-th up by one place. -/
def State.shiftOverflow (s : State) (q h : Nat) : Nat → State
  | 0 => s
  | n + 1 =>
    let x := s.queue q
    (s.perform true h none (x.ovAddr (n + 1)) (s.bytes (x.ovAddr n) 64)).shiftOverflow q h n

/-- The oldest record in overflow returns to pinned storage, its bytes read back from the area, where the hard limit
leaves room (R231). -/
def State.returnPinned (s : State) (q : Nat) : State :=
  let x := s.queue q
  match x.recs.findIdx? Record.overflow with
  | none => s
  | some k =>
    if x.hard ≤ x.pinned then s
    else
      let back := BitVec.ofNat 512 (s.mem64 (x.ovAddr 0) 64)
      s.onQueue q (fun x =>
        { x with recs := x.recs.modify k (fun r => { r with data := back, overflow := false }), ovPos := (x.ovPos + 1) % (max x.ovCap 1) })

/-- Remove the i-th oldest record. As a pinned record leaves, the oldest overflow record returns to pinned storage
(R231). An overflow record that leaves lets the older ones move up. -/
def State.removeRecord (s : State) (q i : Nat) : State :=
  let x := s.queue q
  match x.recs[i]? with
  | none => s
  | some r =>
    if r.overflow then
      (s.shiftOverflow q mgmtBase (x.ovBefore i)).onQueue q (fun x =>
        { x with recs := dropAt x.recs i, ovPos := (x.ovPos + 1) % (max x.ovCap 1) })
    else (s.onQueue q (fun x => { x with recs := dropAt x.recs i })).returnPinned q

/-- Remove a record, and keep account of the queue's eligibility. -/
def State.takeRecord (s : State) (q i : Nat) : State := (s.removeRecord q i).track q

/-! ## Absent requests (R140 to R147) -/

/-- The lowest free request tag (R141). -/
def Hart.freeTag (t : Hart) : Option Nat := (List.range 16).find? (fun i => !t.stg.tags.contains i)

/-- The loop slot that has a used entry naming register r, lowest first (R147). -/
def Vec.slotOf (v : Vec) (r : Nat) : Option Nat :=
  (List.range 4).find? (fun i =>
    let c := (v.loops.get LoopSlot.empty i).cfg
    decide (r ≠ 0) && (List.range 4).any (fun j => decide (fld c (16 * j) 5 = r)))

/-- Whether the context's pager queue can take requests (R140, R327). -/
def State.pagerOk (s : State) (c : Nat) : Bool :=
  let p := (s.ctx c).pager
  bit p 10 && (s.queue (fld p 0 10)).valid && decide ((s.queue (fld p 0 10)).ctx = c)

/-- Whether the context's pager queue cannot take a record now, its home being on a die in warm reset: the strand waits
before it enters the upcall (R146). -/
def State.pagerWaits (s : State) (c : Nat) : Bool :=
  !s.dieUp (dieOfCore (queueHome (fld (s.ctx c).pager 0 10)))

/-- The pager record (Table 6-7). `vec` carries VL and vetype of a vector access, `base` the base register. -/
def State.pagerRecord (s : State) (h c tag : Nat) (va : Nat) (w span narrow : Bool) (vec : Option (Nat × Nat))
    (base : Option Nat) : BitVec 512 :=
  let t := s.hart h
  let slot := base.bind t.vec.slotOf
  let l := (slot.map (fun i => t.vec.loops.get LoopSlot.empty i)).getD LoopSlot.empty
  let cnt := if slot.isSome then l.creg else none
  let regs := (List.range 4).foldl (fun a j =>
    let r := fld l.cfg (16 * j) 5
    a + (if slot.isSome ∧ r ≠ 0 then (s.x h r).toNat else 0) * 2 ^ (256 + 64 * j)) 0
  BitVec.ofNat 512 (va % 2 ^ 64 + l.cfg.toNat * 2 ^ 64 +
    (h % 4096 + c % 16 * 2 ^ 12 + tag % 16 * 2 ^ 16 + vec.isSome.toNat * 2 ^ 20 + w.toNat * 2 ^ 21 + span.toNat * 2 ^ 22 +
      narrow.toNat * 2 ^ 23 + slot.getD 0 * 2 ^ 24 + slot.isSome.toNat * 2 ^ 26 + cnt.isSome.toNat * 2 ^ 27) * 2 ^ 128 +
    ((vec.map (·.1)).getD 0) * 2 ^ 160 + ((vec.map (·.2)).getD 0) * 2 ^ 176 +
    ((cnt.map (fun r => (s.x h r).toNat)).getD 0) * 2 ^ 192 + regs)

/-- Whether an absent access of the hart becomes a request (R140): the mode is U, a handler is named, UE = 1, a tag is
free, the pager queue is usable. -/
def State.canRequest (s : State) (h : Nat) : Option (Nat × Nat) :=
  let t := s.hart h
  match t.freeTag, t.task with
  | some tag, some k =>
    if t.mode = .u ∧ t.csr.upvec.toNat / 8 ≠ 0 ∧ bit t.csr.upvec 0 ∧ s.pagerOk k.ctx then some (tag, k.ctx) else none
  | _, _ => none

/-- Upcall entry (R143): upepc, upcause, upstat, UE moves to PUE and clears, the pc goes to the handler; the reservation
is lost and the wait is abandoned. -/
def Hart.upcall (t : Hart) (epc cause stat : Word) : Hart :=
  { t with
    csr := { t.csr with
      upepc := epc, upcause := cause, upstat := stat,
      upvec := setBit (setBit t.csr.upvec 1 (bit t.csr.upvec 0)) 0 false }
    pc := setFld t.csr.upvec 0 3 0, resv := none, wait := .none, vec := t.vec.leave { kind := 0, mode := t.mode, pc := t.pc } }

/-- upcause (Table 6-6). -/
def upcauseWord (code tag : Nat) (w v n : Bool) : Word :=
  word (code + w.toNat * 16 + v.toNat * 32 + n.toNat * 64 + tag * 256)

/-- An absent request is made: the tag is taken, the record is posted, the upcall is entered (R141, R143, R146). -/
def State.request (s : State) (h tag c va : Nat) (w span : Bool) (vec : Option (Nat × Nat)) (base : Option Nat) :
    State :=
  let narrow := bit (s.hart h).csr.upvec 2
  let rec_ := s.pagerRecord h c tag va w span narrow vec base
  let s := s.onStg h (fun g => { g with tags := g.tags ++ [tag] })
  let s := (s.push (fld (s.ctx c).pager 0 10) .pager rec_ h).1
  s.onHart h (fun t => t.upcall t.pc (upcauseWord (if span then 2 else 1) tag w vec.isSome narrow) (word va))

end Sys2Proof.Machine
end

