-- ==== Sys2Proof/Machine/Operands.lean ====
section
/-!
DEFINITION. Operand forms: immediates and offsets, the fixed windows (R18, R19), ring windows (R206, R211), the vector
span table (R136), Sv57 (R128 to R131), and the checks an access passes before it is made (R56, R14 to R16, R120).
-/
namespace Sys2Proof.Machine

/-! ## Immediates -/

/-- SX(imm, 12), the I and S immediates. -/
def imm12 (i : BitVec 12) : Word := i.signExtend 64

/-- SX(imm20 << 12, 32), the U immediate. -/
def immU (i : BitVec 20) : Word := (i ++ 0#12).signExtend 64

/-- SX(off, 13): a branch offset, whose bit 0 is 0. -/
def offB (o : BitVec 12) : Word := (o ++ 0#1).signExtend 64

/-- SX(off, 21): a jump offset, whose bit 0 is 0. -/
def offJ (o : BitVec 20) : Word := (o ++ 0#1).signExtend 64

/-! ## Access kinds and outcomes -/

/-- What an access does. `atomic` is an sc or AMO; an lr is a `reserve`. -/
inductive Acc' where
  | load | store | fetch | atomic | reserve
  deriving DecidableEq, Repr

/-- Whether permissions and causes are those of a store. -/
def Acc'.isStore : Acc' → Bool
  | .store => true
  | .atomic => true
  | _ => false

/-- The access-fault cause of the type (R130). -/
def Acc'.accessFault (a : Acc') : Nat := match a with | .fetch => 1 | .store => 7 | .atomic => 7 | _ => 5
/-- The page-fault cause of the type. -/
def Acc'.pageFault (a : Acc') : Nat := match a with | .fetch => 12 | .store => 15 | .atomic => 15 | _ => 13
/-- The address-misaligned cause of the type. -/
def Acc'.misaligned (a : Acc') : Nat := match a with | .fetch => 0 | .store => 6 | .atomic => 6 | _ => 4

/-- Why an access is not made. -/
inductive Stop where
  | exc (cause : Nat)
  /-- answered DIE_OFFLINE: the cause, and the fault queue's entry (R339) -/
  | offline (cause : Nat)
  /-- an absent Sv57 entry, or an absent granule of the span window (R140) -/
  | absent (span : Bool)
  /-- the core runs two walks already: the access waits (R133) -/
  | busy
  deriving DecidableEq, Repr

/-- A resolved access: physical address, PBMT, home code, and the page-table entry to write where A or D must be set. -/
structure Hit where
  pa : Nat
  pbmt : Nat
  code : Nat
  ad : Option (Nat × Word × Word)
  /-- the ring and stage sequence number of a ring-window access -/
  stage : Option (Nat × Nat)
  /-- whether a leaf of the page tables gave it -/
  mapped : Bool := false
  /-- the walk-cache entry that its walk started from, with the core whose cache it is (R133) -/
  walked : Option (Nat × WalkEntry) := none
  /-- the translation to discard, with the core that holds it (R131) -/
  stale : Option (Nat × TlbEntry) := none
  /-- what its walk installs, and in which core's buffers: the translation, and the non-leaf entries read (R133) -/
  fill : Option (Nat × TlbEntry × List WalkEntry) := none
  deriving DecidableEq, Repr

/-- The answer of a resolution. -/
inductive XRes where
  | ok (h : Hit)
  | stop (s : Stop)
  deriving DecidableEq, Repr

/-- A plain physical address. -/
def Hit.phys (pa : Nat) : Hit := { pa := pa, pbmt := 0, code := 0, ad := none, stage := none }

/-! ## Windows (R18) -/

/-- Which fixed window of Table 1-7 holds an address. -/
inductive Win where
  | span (g off : Nat)
  | scratch (off : Nat)
  | vault (off : Nat)
  | ring (r off : Nat)
  | hole
  | none
  deriving DecidableEq, Repr

/-- The window of a virtual address. A ring window is taken as its whole 2^32 bytes, so that what lies beyond the ring,
or in an unset ring's window, fails R211 and not R18 (DEDUCED, log 17). -/
def winOf (va : Nat) : Win :=
  if 0x0080000000000000 ≤ va ∧ va < 0x0080010000000000 then
    .span ((va - 0x0080000000000000) / 0x200000) (va % 0x200000)
  else if 0x00FF000000000000 ≤ va ∧ va < 0x0100000000000000 then
    let d := va - 0x00FF000000000000
    if d < 0xC0000 then .scratch d
    else if 0x100000000 ≤ d ∧ d < 0x102000000 then .vault (d - 0x100000000)
    else if 0x10000000000 ≤ d ∧ d < 0x10800000000 then .ring ((d - 0x10000000000) / 0x100000000) (d % 0x100000000)
    else .hole
  else .none

/-- The ring with a given number in a cluster. -/
def State.ring (s : State) (cl id : Nat) : Option Ring := (s.cluster cl).rings.find? (fun r => r.id = id)

/-- The physical address of byte o of a ring's window with R as given (R206). -/
def Ring.addr (r : Ring) (rr o : Nat) : Nat := r.basePa + ((rr + o / r.z) % r.n) * r.z + o % r.z

/-- The stages that an access at a place in program order finds acquired: those held, and those whose release was
posted later in program order and has not taken effect (R208, log 22). -/
def Staging.acquired (g : Staging) (rs : RingSlot) (pos : Nat) : List Nat :=
  rs.acq ++ (g.releases.filter (fun l => decide (l.ring = rs.ring) && decide (pos < l.pos))).map Release.stage

/-- A ring-window access of n bytes at offset o, at a place in program order: the first address and its stage, or
RING_BOUND (R206, R211). -/
def State.ringHit (s : State) (h pos slot o n : Nat) (store : Bool) : Option (Nat × Nat × Nat) :=
  match (s.hart h).stg.rings.find slot with
  | none => none
  | some rs =>
    match s.ring (clOf h) rs.ring with
    | none => none
    | some r =>
      let k := o / r.z
      let acq := (s.hart h).stg.acquired rs pos
      if r.formed ∧ o + n ≤ r.n * r.z ∧ acq.contains (r.r + k) ∧ acq.contains (r.r + (o + n - 1) / r.z) ∧
          ¬ (store ∧ rs.consumer) then some (r.addr r.r o, r.id, r.r + k)
      else none

/-- The VST entry of a granule as a core sees it: its span buffer first, then its die's replica (R137). -/
def State.vstEntry (s : State) (core c g : Nat) : BitVec 32 :=
  match (s.core core).span.find? (fun e => e.1 = c && e.2.1 = g) with
  | some e => e.2.2
  | none => s.dev.vst.get 0 ((dieOfCore core * 16 + c) * 524288 + g)

/-- The die whose replica a hart reads; a management hart reads die 0's. -/
def vstCore (h : Nat) : Nat := if isMgmt h then 0 else coreOf h

/-- The VST entry that a hart's span access uses: that of its own context (R19, R127); a hart that holds no task has no
context, and every granule is absent to it. -/
def State.spanEntry (s : State) (h g : Nat) : BitVec 32 :=
  match s.ctxOf h with
  | some c => s.vstEntry (vstCore h) c g
  | none => 0

/-- Whether windows may be used: in U-mode and M-mode yes, in S-mode while SUM is set (R19). -/
def Csrs.winOk (c : Csrs) (md : Mode) : Bool := decide (md ≠ .s) || bit c.mstatus 18

/-- Resolve a fixed-window address other than through Sv57, for a scalar access (R18, R136 with the checks of Table 5-3,
R211). -/
def State.winHit (s : State) (h va n : Nat) (md : Mode) (a : Acc') (w : Win) : XRes :=
  if a = .fetch ∨ !(s.hart h).csr.winOk md then .stop (.exc a.pageFault)
  else match w with
  | .span g off =>
    let e := s.spanEntry h g
    if va % n ≠ 0 then .stop (.exc a.misaligned)
    else if !bit e 18 then (if md = .u then .stop (.absent true) else .stop (.exc a.pageFault))
    else if a.isStore && !bit e 19 then .stop (.exc 15)
    else .ok { Hit.phys (fld e 0 18 * 0x200000 + off) with code := fld e 21 7 }
  | .scratch off => if isMgmt h then .stop (.exc a.pageFault) else .ok (Hit.phys (scratchBase (coreOf h) + off))
  | .vault off => if isMgmt h then .stop (.exc a.pageFault) else .ok (Hit.phys (vaultBase (clOf h) + off))
  | .ring r off =>
    match s.ringHit h (s.hart h).pos r off n a.isStore with
    | some (pa, id, st) => .ok { Hit.phys pa with stage := some (id, st) }
    | none => .stop (.exc 25)
  | .hole => .stop (.exc a.pageFault)
  | .none => .ok (Hit.phys va)

/-! ## Sv57 (R128 to R131) -/

/-- VPN[level] of an address (R130). -/
def vpn (va level : Nat) : Nat := va / 2 ^ (12 + 9 * level) % 512

/-- What one entry of a walk says (Table 6-3). -/
inductive PteRes where
  | stop (s : Stop)
  | next (base : Nat)
  | leaf
  deriving DecidableEq, Repr

/-- The tests of Table 6-3, in order, on an entry read at a level. -/
def pteTest (c : Csrs) (md : Mode) (a : Acc') (level : Nat) (e : Word) : PteRes :=
  let pf : PteRes := .stop (.exc a.pageFault)
  let leaf := bit e 1 || bit e 3
  if !bit e 0 && decide (fld e 8 2 = 1) && decide (md = .u) && decide (a ≠ .fetch) then .stop (.absent false)
  else if !bit e 0 then pf
  else if bit e 2 && !bit e 1 then pf
  else if !leaf && (bit e 63 || decide (fld e 61 2 ≠ 0) || decide (fld e 54 7 ≠ 0) || bit e 7 || bit e 6 || bit e 4) then pf
  else if leaf && decide (2 ≤ level) then pf
  else if leaf && decide (fld e 61 2 = 3) then pf
  else if leaf && decide (fld e 54 7 ≠ 0) && !c.he then pf
  else if leaf && decide (level = 1) && (decide (fld e 10 9 ≠ 0) || bit e 63) then pf
  else if leaf && decide (level = 0) && bit e 63 && decide (fld e 10 4 ≠ 8) then pf
  else if fld e 46 8 ≠ 0 then .stop (.exc a.accessFault)
  else if !leaf then (if level = 0 then pf else .next (fld e 10 36 * 4096))
  else
    let user := bit e 4
    let sum := bit c.mstatus 18
    let perm := match a with
      | .fetch => bit e 3
      | .store => bit e 2
      | .atomic => bit e 2
      | _ => bit e 1 || (bit c.mstatus 19 && bit e 3)
    let who := match md with
      | .u => user
      | .s => !user || (decide (a ≠ .fetch) && sum)
      | .m => true
    if perm && who then .leaf else pf

/-- The physical address that a leaf at a level gives. -/
def leafPa (e : Word) (level va : Nat) : Nat :=
  let ppn := fld e 10 36
  if level = 1 then ppn * 4096 + va % 0x200000
  else if bit e 63 then (ppn / 16 * 16 + va / 4096 % 16) * 4096 + va % 4096
  else ppn * 4096 + va % 4096

/-- The page size of a leaf as a power of two. -/
def leafBits (e : Word) (level : Nat) : Nat := if level = 1 then 21 else if bit e 63 then 16 else 12

/-- What a walk finds: the leaf, its level and its physical address. -/
inductive WalkRes where
  | stop (s : Stop)
  | leaf (e : Word) (level pa : Nat)
  deriving DecidableEq, Repr

/-- Whether a walk read may be made: in backed device memory (R128). -/
def State.walkable (s : State) (pa : Nat) : Bool := decide (regionOf pa = .dram) && decide (s.backing pa = .ok) && !s.poisoned pa 8

/-- Walk from a level down (R130). An entry read at level 0 that is not a leaf, for which Table 6-3 has no test, is a page fault
by the model's choice (log 65). -/
def State.walk (s : State) (c : Csrs) (md : Mode) (a : Acc') (va : Nat) : Nat → Nat → WalkRes
  | 0, base =>
    let p := base + vpn va 0 * 8
    if !s.walkable p then .stop (.exc a.accessFault)
    else
      let e := word (s.mem64 p 8)
      match pteTest c md a 0 e with
      | .stop x => .stop x
      | .next _ => .stop (.exc a.pageFault)
      | .leaf => .leaf e 0 p
  | l + 1, base =>
    let p := base + vpn va (l + 1) * 8
    if !s.walkable p then .stop (.exc a.accessFault)
    else
      let e := word (s.mem64 p 8)
      match pteTest c md a (l + 1) e with
      | .stop x => .stop x
      | .next b => State.walk s c md a va l b
      | .leaf => .leaf e (l + 1) p

/-- satp's ASID. -/
def Csrs.asid (c : Csrs) : Nat := fld c.satp 44 16

/-- Whether satp.MODE is Sv57. -/
def Csrs.sv57 (c : Csrs) : Bool := decide (fld c.satp 60 4 = 10)

/-- The core whose buffers serve a hart. Management harts have none (R133); they are given places beyond the cores
(log 46). -/
def bufCore (h : Nat) : Nat := if isMgmt h then 512 + (h - 2048) else coreOf h

/-- The deepest walk-cache entry that matches an address (R133). -/
def State.walkEntry (s : State) (h va : Nat) : Option WalkEntry :=
  let c := (s.hart h).csr
  leastBy (fun (w : WalkEntry) => w.level) ((s.core (bufCore h)).walks.filter
    (fun w => w.asid = c.asid && w.prefix_ = va / 2 ^ (12 + 9 * w.level) % 2 ^ (45 - 9 * w.level)))

/-- The level and table where a walk starts: below the deepest matching walk-cache entry (R133). -/
def State.walkStart (s : State) (h va : Nat) : Nat × Nat :=
  match s.walkEntry h va with
  | some w => (w.level - 1, fld w.pte 10 36 * 4096)
  | none => (4, fld (s.hart h).csr.satp 0 44 * 4096)

/-- A walk-cache entry becomes the one used last. -/
def Core.walkUsed (c : Core) (w : WalkEntry) : Core :=
  if c.walks.contains w then { c with walks := c.walks.erase w ++ [w] } else c

/-- A translation buffer entry that covers an address (R133). -/
def State.tlbHit (s : State) (h va : Nat) : Option TlbEntry :=
  let c := (s.hart h).csr
  (s.core (bufCore h)).tlb.find? (fun e => decide (e.vpn = va / 2 ^ e.bits) && (e.global || decide (e.asid = c.asid)))

/-- The bits of an entry but A and D. -/
def pteCore (e : Word) : Word := setFld e 6 2 0

/-- The answer of a leaf: its physical address, and the entry to write where A or D is wanting (R131). -/
def hitOf (e : Word) (level va ptePa : Nat) (a : Acc') : Hit :=
  let want := setBit (if a.isStore then setBit e 7 true else e) 6 true
  { pa := leafPa e level va, pbmt := fld e 61 2, code := fld e 54 7,
    ad := if want = e then none else some (ptePa, e, want), stage := none, mapped := true }

/-- The walk-cache entry of an entry read at a level for an address (R133). -/
def walkEntryOf (asid level va : Nat) (e : Word) : WalkEntry :=
  { asid := asid, level := level, prefix_ := va / 2 ^ (12 + 9 * level) % 2 ^ (45 - 9 * level), pte := e }

/-- The entries above level 1 that a walk reads from a level down (R133). -/
def State.walkPath (s : State) (asid va : Nat) : Nat → Nat → List WalkEntry
  | 0, _ => []
  | l + 1, base =>
    if l = 0 then []
    else
      let e := word (s.mem64 (base + vpn va (l + 1) * 8) 8)
      walkEntryOf asid (l + 1) va e :: State.walkPath s asid va l (fld e 10 36 * 4096)

/-- The translation that a leaf at a level gives (R133). -/
def tlbEntryOf (asid level va : Nat) (e : Word) (p : Nat) : TlbEntry :=
  { vpn := va / 2 ^ leafBits e level, bits := leafBits e level, asid := asid, global := bit e 5, pte := e, ptePa := p }

/-- A full walk of an address, which a strand makes once fewer than two walks run on its core (R133). -/
def State.walk57 (s : State) (h va : Nat) (md : Mode) (a : Acc') : XRes :=
  let c := (s.hart h).csr
  let (l, b) := s.walkStart h va
  if !isMgmt h && decide (2 ≤ (s.core (coreOf h)).walking.length) then .stop .busy
  else match s.walk c md a va l b with
  | .stop x => .stop x
  | .leaf e level p =>
    .ok { hitOf e level va p a with
      walked := (s.walkEntry h va).map (fun w => (bufCore h, w))
      fill := if isMgmt h then none else some (coreOf h, tlbEntryOf c.asid level va e p, s.walkPath c.asid va l b) }

/-- The translation that an access must discard: A or D must be set, and the entry in memory differs otherwise from the
one held (R131). -/
def State.staleEntry (s : State) (h va : Nat) (md : Mode) (a : Acc') : Option TlbEntry :=
  match s.tlbHit h va with
  | none => none
  | some t =>
    let level := if t.bits = 21 then 1 else 0
    match pteTest { (s.hart h).csr with he := true } md a level t.pte with
    | .leaf => if (hitOf t.pte level va t.ptePa a).ad.isSome && decide (pteCore (word (s.mem64 t.ptePa 8)) ≠ pteCore t.pte) then some t else none
    | _ => none

/-- The answer of a resolution that discards a translation. -/
def XRes.discarding (r : XRes) (core : Nat) (t : TlbEntry) : XRes :=
  match r with
  | .ok x => .ok { x with stale := some (core, t) }
  | .stop x => .stop x

/-- Translate by Sv57: the translation buffer where it holds the page and its permissions allow, unless A or D must be
set and the entry in memory has changed since (R131, R133); else a walk. -/
def State.sv57Hit (s : State) (h va : Nat) (md : Mode) (a : Acc') : XRes :=
  if va / 2 ^ 56 ≠ 0 ∧ va / 2 ^ 56 ≠ 255 then .stop (.exc a.pageFault)
  else match s.tlbHit h va with
  | none => s.walk57 h va md a
  | some t =>
    let level := if t.bits = 21 then 1 else 0
    match pteTest { (s.hart h).csr with he := true } md a level t.pte with
    | .leaf =>
      (match s.staleEntry h va md a with
        | some t => (s.walk57 h va md a).discarding (bufCore h) t
        | none => .ok (hitOf t.pte level va t.ptePa a))
    | .stop x => .stop x
    | .next _ => s.walk57 h va md a

/-- The mode under which a scalar data access is made: MPP while MPRV is set in M-mode. -/
def Hart.effMode (t : Hart) (a : Acc') : Mode :=
  if t.mode = .m ∧ a ≠ .fetch ∧ bit t.csr.mstatus 17 then
    (if fld t.csr.mstatus 11 2 = 3 then .m else if fld t.csr.mstatus 11 2 = 1 then .s else .u)
  else t.mode

/-- Resolve the address of a scalar access of n bytes: physical in M-mode and in Bare S-mode, else the windows and then
Sv57 (R127). U-mode under Bare resolves the windows and is physical elsewhere (log 13). -/
def State.resolve (s : State) (h va n : Nat) (a : Acc') : XRes :=
  let t := s.hart h
  let md := t.effMode a
  if md = .m ∨ (md = .s ∧ !t.csr.sv57) then .ok (Hit.phys va)
  else match winOf va with
  | .none => if t.csr.sv57 then s.sv57Hit h va md a else .ok (Hit.phys va)
  | w => s.winHit h va n md a w

/-- The remote window's entry where it is bound to a valid queue pair (R329). -/
def State.remoteQp (s : State) (w : Nat) : Option Nat :=
  match s.dev.windows.find w with
  | some e =>
    let w0 := e.getD 0 0
    let q := fld w0 1 12
    if bit w0 0 && bit ((s.dev.qps.get [] q).getD 0 0) 0 then some q else none
  | none => none

/-- The region rules of an access (R56, R59), the backing rules (R14 to R16), errors that ECC cannot correct
(R336), the home code (R120), the window binding (R329), after its address is resolved. -/
def State.target (s : State) (x : Hit) (n : Nat) (a : Acc') : XRes :=
  let af : XRes := .stop (.exc a.accessFault)
  if 2 ^ 48 ≤ x.pa then af
  else match s.backing x.pa with
  | .unbacked => af
  | .offline => .stop (.offline a.accessFault)
  | .ok =>
    if a ≠ .store ∧ s.poisoned x.pa n then af
    else match regionOf x.pa with
    | .dram => if s.homeOk x.code then .ok x else af
    | .vault _ _ => if a = .fetch ∧ !x.mapped then af else .ok x
    | .scratch _ _ => if a = .fetch then af else .ok x
    | .reg _ =>
      if (a = .load ∨ a = .store) ∧ (n = 4 ∨ n = 8) ∧ x.pa % n = 0 then .ok x else af
    | .remote w _ =>
      if a = .fetch then af
      else if a = .atomic ∨ a = .reserve then .stop (.exc 7)
      else if (s.remoteQp w).isSome then .ok x else af
    | .nothing => af

/-- All checks of a scalar access of n bytes: alignment (R56), translation, region. -/
def State.access (s : State) (h : Nat) (va : Word) (n : Nat) (a : Acc') : XRes :=
  let v := va.toNat
  let aligned := if a = .atomic ∨ a = .reserve then decide (v % n = 0) else decide (v % 32 + n ≤ 32)
  if !aligned then .stop (.exc a.misaligned)
  else match s.resolve h v n a with
  | .stop x => .stop x
  | .ok x => s.target x n a

/-- Write A and D where the access must set them (R131). -/
def State.writeAD (s : State) (x : Hit) : State :=
  match x.ad with
  | none => s
  | some (p, old, new) =>
    let cur := word (s.mem64 p 8)
    let s := s.perform true mgmtBase none p (bytesOf 8 (cur ||| (new &&& 0xC0)).toNat)
    { s with cores := s.cores.map (fun (q : Nat × Core) =>
        (q.1, { q.2 with tlb := q.2.tlb.map (fun e =>
          if e.ptePa = p && e.pte = old then { e with pte := e.pte ||| (new &&& 0xC0) } else e) })) }

/-- Keep the n youngest of a list to which one is added. -/
def keepLast {α : Type} (n : Nat) (l : List α) (a : α) : List α := (if n ≤ l.length then l.drop (l.length - n + 1) else l) ++ [a]

/-- A walk that has reached its leaf installs the non-leaf entries it has read, those used last at the end (R133, R134). -/
def Core.fillWalks (c : Core) (l : List WalkEntry) : Core :=
  l.foldl (fun (c : Core) e => { c with walks := keepLast 64 (c.walks.filter (fun w => w != e)) e }) c

/-- The translation buffer takes an entry, in place of one of the same page (R133). -/
def Core.fillTlb (c : Core) (e : TlbEntry) : Core :=
  { c with tlb := keepLast 256 (c.tlb.filter (fun t => !(t.vpn == e.vpn && t.bits == e.bits && t.asid == e.asid))) e }

/-- What its translation leaves behind as an access goes on: a stale translation is discarded, the walk-cache entry used
is the youngest, what its walk has read is installed (R133), A and D are written (R131). -/
def State.setAD (s : State) (x : Hit) : State :=
  let s := match x.stale with
    | some (c, t) => s.onCore c (fun k => { k with tlb := k.tlb.erase t })
    | none => s
  let s := match x.walked with
    | some (c, w) => s.onCore c (fun k => k.walkUsed w)
    | none => s
  let s := match x.fill with
    | some (c, e, l) => s.onCore c (fun k => (k.fillWalks l).fillTlb e)
    | none => s
  s.writeAD x

/-- The translation of an address that an access of a hart finds stale, if any (R131). -/
def State.staleAt (s : State) (h va : Nat) (a : Acc') : Option TlbEntry :=
  let t := s.hart h
  let md := t.effMode a
  if md = .m ∨ !t.csr.sv57 ∨ winOf va ≠ .none then none else s.staleEntry h va md a

/-- A hart's core discards a translation. -/
def State.discard (s : State) (h : Nat) (t : Option TlbEntry) : State :=
  match t with
  | some e => s.onCore (bufCore h) (fun k => { k with tlb := k.tlb.erase e })
  | none => s

/-- A translation that an access found stale is discarded though the access does not go on (R131). -/
def State.dropStale (s : State) (h va : Nat) (a : Acc') : State := s.discard h (s.staleAt h va a)

/-! ## Copies in flight (R217) -/

/-- The least and greatest of an index's contribution. -/
def dimSpan (n : Nat) (st : Int) : Int × Int :=
  let e := ((max n 1 : Nat) - 1 : Int) * st
  if e < 0 then (e, 0) else (0, e)

/-- The bounding range of an endpoint: start and length (R214). `dst` picks the destination strides. -/
def boundOf (base len : Nat) (dims : List (Nat × Int × Int)) (dst : Bool) : Nat × Nat :=
  let sp := dims.map (fun d => dimSpan d.1 (if dst then d.2.2 else d.2.1))
  let lo := sp.foldl (fun a p => a + p.1) 0
  let hi := sp.foldl (fun a p => a + p.2) 0
  (((base : Int) + lo).toNat, (hi - lo).toNat + len)

/-- The source's bounding range. -/
def Xfer.srcBound (x : Xfer) : Nat × Nat := if x.zero then (x.src, 0) else boundOf x.src x.len x.dims false
/-- The destination's bounding range. -/
def Xfer.dstBound (x : Xfer) : Nat × Nat := boundOf x.dst x.len x.dims true

/-- The transfers in flight launched by a hart, detached ones included (R318). -/
def Hart.xfers (t : Hart) : List Xfer :=
  (t.stg.chans.map (fun (p : Nat × Chan) => p.2.xfers)).flatten ++ (t.stg.detached.map (fun d => d.chan.xfers)).flatten

/-- The transfers in the range scoreboard of a core (R217). -/
def State.scoreboard (s : State) (core : Nat) : List Xfer :=
  (List.range 4).flatMap (fun i => (s.hart (core * 4 + i)).xfers)

/-- Whether an access of hart h at place pos waits behind a transfer (R217). -/
def State.held (s : State) (h pos va n : Nat) (write : Bool) : Bool :=
  !isMgmt h && (s.scoreboard (coreOf h)).any (fun x =>
    (if x.hart = h then decide (x.pos < pos) else decide (s.ctxOf h = some x.ctx)) &&
      (overlap x.dstBound.1 x.dstBound.2 va n || (write && !x.zero && overlap x.srcBound.1 x.srcBound.2 va n)))

end Sys2Proof.Machine
end

