-- ==== Sys2Proof/Machine/Float.lean ====
section
/-!
DEFINITION. IEEE 754-2019 arithmetic in binary16, bf16 and binary32 (R60, R85): exact on dyadic numbers, then one
rounding. Subnormals are kept, tininess is detected after rounding, every NaN produced is canonical.
-/
namespace Sys2Proof.Machine

/-- A binary interchange format: exponent bits and fraction bits. -/
structure Fmt where
  eb : Nat
  mb : Nat
  deriving DecidableEq, Repr

/-- binary16. -/
def Fmt.f16 : Fmt := ⟨5, 10⟩
/-- bf16, the upper half of binary32 (R85). -/
def Fmt.bf16 : Fmt := ⟨8, 7⟩
/-- binary32. -/
def Fmt.f32 : Fmt := ⟨8, 23⟩

/-- Width in bits. -/
def Fmt.width (f : Fmt) : Nat := f.eb + f.mb + 1

/-- The exponent of the least subnormal bit. -/
def Fmt.qmin (f : Fmt) : Int := 2 - (2 ^ (f.eb - 1) : Nat) - (f.mb : Nat)

/-- The code of infinity without its sign. -/
def Fmt.infBits (f : Fmt) : Nat := (2 ^ f.eb - 1) * 2 ^ f.mb

/-- The canonical NaN (R85). -/
def Fmt.nan (f : Fmt) : Nat := f.infBits + 2 ^ (f.mb - 1)

/-- The sign bit's place value. -/
def Fmt.sign (f : Fmt) : Nat := 2 ^ (f.eb + f.mb)

/-- What a code stands for: a finite code is (-1)^neg · m · 2^e. -/
inductive FVal where
  | nan (signaling : Bool)
  | inf (neg : Bool)
  | fin (neg : Bool) (m : Nat) (e : Int)
  deriving DecidableEq, Repr

/-- The value of a code. -/
def Fmt.val (f : Fmt) (c : Nat) : FVal :=
  let neg := decide (c / f.sign % 2 = 1)
  let e := c / 2 ^ f.mb % 2 ^ f.eb
  let m := c % 2 ^ f.mb
  if e = 2 ^ f.eb - 1 then (if m = 0 then .inf neg else .nan (decide (m < 2 ^ (f.mb - 1))))
  else if e = 0 then .fin neg m f.qmin
  else .fin neg (2 ^ f.mb + m) (f.qmin + (e - 1 : Nat))

/-- The accrued flags of one operation: NV 16, DZ 8, OF 4, UF 2, NX 1. -/
abbrev FFlags := BitVec 5

/-- A code with a sign. -/
def Fmt.signed (f : Fmt) (neg : Bool) (c : Nat) : Nat := if neg then f.sign + c else c

/-- Whether a magnitude that lies between two neighbours goes to the upper one (R61: 0 RNE, 1 RTZ, 2 RDN, 3 RUP, 4 RMM).
`odd` says the lower neighbour is odd, `cmp` how the rest compares with one half, `exact` whether there is no rest. -/
def roundUp (rm : Nat) (neg odd : Bool) (cmp : Ordering) (exact : Bool) : Bool :=
  if exact then false
  else match rm with
    | 0 => (match cmp with | .gt => true | .eq => odd | .lt => false)
    | 1 => false
    | 2 => neg
    | 3 => !neg
    | _ => (match cmp with | .lt => false | _ => true)

/-- The magnitude m·2^e, plus less than one unit 2^e where `sticky`, at the quantum 2^q: the rounded multiple and
whether it is exact. -/
def roundAt (rm : Nat) (neg : Bool) (m : Nat) (e : Int) (sticky : Bool) (q : Int) : Nat × Bool :=
  if q ≤ e then (m * 2 ^ (e - q).toNat, !sticky)
  else
    let sh := (q - e).toNat
    let hi := m / 2 ^ sh
    let rest := m % 2 ^ sh
    let half := 2 ^ (sh - 1)
    let cmp := if rest < half then Ordering.lt else if rest = half && !sticky then .eq else .gt
    let exact := decide (rest = 0) && !sticky
    (hi + (roundUp rm neg (decide (hi % 2 = 1)) cmp exact).toNat, exact)

/-- One rounding of a nonzero magnitude into a format. -/
def Fmt.round (f : Fmt) (rm : Nat) (neg : Bool) (m : Nat) (e : Int) (sticky : Bool) : Nat × FFlags :=
  let top : Int := e + (Nat.log2 m : Nat)
  let q := max (top - (f.mb : Nat)) f.qmin
  let (hi, exact) := roundAt rm neg m e sticky q
  let code := (q - f.qmin).toNat * 2 ^ f.mb + hi
  if f.infBits ≤ code then
    let toInf := match rm with | 0 => true | 1 => false | 2 => neg | 3 => !neg | _ => true
    (f.signed neg (if toInf then f.infBits else f.infBits - 1), 5)
  else
    let emin : Int := f.qmin + (f.mb : Nat)
    let un := (roundAt rm neg m e sticky (top - (f.mb : Nat))).1
    let tiny := decide (top < emin) && !(decide (top = emin - 1) && decide (un = 2 ^ (f.mb + 1)))
    (f.signed neg code, if exact then 0 else if tiny then 3 else 1)

/-- A signed exact value m·2^e rounded; zero takes the sign given. -/
def Fmt.ofInt (f : Fmt) (rm : Nat) (zneg : Bool) (m : Int) (e : Int) : Nat × FFlags :=
  if m = 0 then (f.signed zneg 0, 0) else f.round rm (decide (m < 0)) m.natAbs e false

/-- A signed magnitude. -/
def smag (neg : Bool) (m : Nat) : Int := if neg then -(m : Int) else m

/-- The exact sum of two dyadics, as mantissa and exponent. -/
def addDy (m1 e1 m2 e2 : Int) : Int × Int :=
  if e1 ≤ e2 then (m1 + m2 * 2 ^ (e2 - e1).toNat, e1) else (m1 * 2 ^ (e1 - e2).toNat + m2, e2)

/-- The canonical NaN, with the invalid flag where asked. -/
def Fmt.nanRes (f : Fmt) (nv : Bool) : Nat × FFlags := (f.nan, if nv then 16 else 0)

/-- Whether a value is a signaling NaN. -/
def FVal.snan : FVal → Bool
  | .nan s => s
  | _ => false

/-- Whether a value is a NaN. -/
def FVal.isNan : FVal → Bool
  | .nan _ => true
  | _ => false

/-- The value with its sign inverted where asked. -/
def FVal.flip (b : Bool) : FVal → FVal
  | .nan s => .nan s
  | .inf n => .inf (n != b)
  | .fin n m e => .fin (n != b) m e

/-- The sign of an exact zero sum: both zeros of one sign keep it, else −0 only under RDN. -/
def zeroSign (rm : Nat) (n1 n2 : Bool) : Bool := if n1 = n2 then n1 else decide (rm = 2)

/-- a + b, rounded once. -/
def Fmt.addV (f : Fmt) (rm : Nat) (a b : FVal) : Nat × FFlags :=
  match a, b with
  | .nan s, y => f.nanRes (s || y.snan)
  | x, .nan s => f.nanRes (s || x.snan)
  | .inf n, .inf m => if n = m then (f.signed n f.infBits, 0) else f.nanRes true
  | .inf n, .fin _ _ _ => (f.signed n f.infBits, 0)
  | .fin _ _ _, .inf n => (f.signed n f.infBits, 0)
  | .fin n1 m1 e1, .fin n2 m2 e2 =>
    let (m, e) := addDy (smag n1 m1) e1 (smag n2 m2) e2
    f.ofInt rm (if m1 = 0 ∧ m2 = 0 then zeroSign rm n1 n2 else decide (rm = 2)) m e

/-- a + b. -/
def Fmt.add (f : Fmt) (rm a b : Nat) : Nat × FFlags := f.addV rm (f.val a) (f.val b)

/-- a − b. -/
def Fmt.sub (f : Fmt) (rm a b : Nat) : Nat × FFlags := f.addV rm (f.val a) ((f.val b).flip true)

/-- The exact product of two values; none where it is invalid. -/
def mulV (a b : FVal) : Option FVal :=
  match a, b with
  | .nan _, _ => some (.nan false)
  | _, .nan _ => some (.nan false)
  | .inf n, .inf m => some (.inf (n != m))
  | .inf n, .fin m k _ => if k = 0 then none else some (.inf (n != m))
  | .fin n k _, .inf m => if k = 0 then none else some (.inf (n != m))
  | .fin n1 m1 e1, .fin n2 m2 e2 => some (.fin (n1 != n2) (m1 * m2) (e1 + e2))

/-- a · b. -/
def Fmt.mul (f : Fmt) (rm a b : Nat) : Nat × FFlags :=
  let x := f.val a
  let y := f.val b
  match mulV x y with
  | none => f.nanRes true
  | some (.nan _) => f.nanRes (x.snan || y.snan)
  | some (.inf n) => (f.signed n f.infBits, 0)
  | some (.fin n m e) => f.ofInt rm n (smag n m) e

/-- ±(a · b) ± c with one rounding; `np` inverts the product, `nc` the addend. -/
def Fmt.fma (f : Fmt) (rm : Nat) (np nc : Bool) (a b c : Nat) : Nat × FFlags :=
  let x := f.val a
  let y := f.val b
  let z := (f.val c).flip nc
  let sn := x.snan || y.snan || z.snan
  match mulV x y with
  | none => f.nanRes true
  | some p =>
    if p.isNan || z.isNan then f.nanRes sn
    else
      let (r, fl) := f.addV rm (p.flip np) z
      (r, fl)

/-- The quotient's magnitude with enough bits for one rounding, and whether a rest remains. -/
def divDy (m1 : Nat) (e1 : Int) (m2 : Nat) (e2 : Int) (bits : Nat) : Nat × Int × Bool :=
  let sh := bits + Nat.log2 m2 + 2
  (m1 * 2 ^ sh / m2, e1 - e2 - (sh : Nat), decide (m1 * 2 ^ sh % m2 ≠ 0))

/-- a ÷ b. -/
def Fmt.div (f : Fmt) (rm a b : Nat) : Nat × FFlags :=
  match f.val a, f.val b with
  | .nan s, y => f.nanRes (s || y.snan)
  | x, .nan s => f.nanRes (s || x.snan)
  | .inf _, .inf _ => f.nanRes true
  | .inf n, .fin m _ _ => (f.signed (n != m) f.infBits, 0)
  | .fin n _ _, .inf m => (f.signed (n != m) 0, 0)
  | .fin n1 m1 e1, .fin n2 m2 e2 =>
    if m2 = 0 then (if m1 = 0 then f.nanRes true else (f.signed (n1 != n2) f.infBits, 8))
    else if m1 = 0 then (f.signed (n1 != n2) 0, 0)
    else
      let (q, e, st) := divDy m1 e1 m2 e2 (f.mb + 2)
      f.round rm (n1 != n2) q e st

/-- The integer square root, from the bit b downwards. -/
def isqrtFrom (n : Nat) : Nat → Nat → Nat
  | 0, r => if (r + 1) * (r + 1) ≤ n then r + 1 else r
  | b + 1, r =>
    let t := r + 2 ^ (b + 1)
    isqrtFrom n b (if t * t ≤ n then t else r)

/-- The integer square root. -/
def isqrt (n : Nat) : Nat := isqrtFrom n (Nat.log2 n / 2 + 1) 0

/-- The square root. -/
def Fmt.sqrt (f : Fmt) (rm a : Nat) : Nat × FFlags :=
  match f.val a with
  | .nan s => f.nanRes s
  | .inf n => if n then f.nanRes true else (f.infBits, 0)
  | .fin n m e =>
    if m = 0 then (f.signed n 0, 0)
    else if n then f.nanRes true
    else
      let k := 2 * (f.mb + 3)
      let sh := if (e - (k : Nat)) % 2 = 0 then k else k + 1
      let v := m * 2 ^ sh
      let r := isqrt v
      f.round rm false r ((e - (sh : Nat)) / 2) (decide (r * r ≠ v))

/-- a < b for two values that are not NaN. -/
def FVal.lt : FVal → FVal → Bool
  | .inf n, .inf m => n && !m
  | .inf n, .fin _ _ _ => n
  | .fin _ _ _, .inf m => !m
  | .fin n1 m1 e1, .fin n2 m2 e2 => decide ((addDy (smag n1 m1) e1 (-(smag n2 m2)) e2).1 < 0)
  | _, _ => false

/-- a = b for two values that are not NaN. -/
def FVal.eq : FVal → FVal → Bool
  | .inf n, .inf m => n == m
  | .fin n1 m1 e1, .fin n2 m2 e2 => decide ((addDy (smag n1 m1) e1 (-(smag n2 m2)) e2).1 = 0)
  | _, _ => false

/-- feq, flt and fle: a NaN gives 0; flt and fle raise invalid on any NaN, feq on a signaling one. -/
def Fmt.feq (f : Fmt) (a b : Nat) : Bool × FFlags :=
  let x := f.val a
  let y := f.val b
  if x.isNan || y.isNan then (false, if x.snan || y.snan then 16 else 0) else (x.eq y, 0)

/-- flt. -/
def Fmt.flt (f : Fmt) (a b : Nat) : Bool × FFlags :=
  let x := f.val a
  let y := f.val b
  if x.isNan || y.isNan then (false, 16) else (x.lt y, 0)

/-- fle. -/
def Fmt.fle (f : Fmt) (a b : Nat) : Bool × FFlags :=
  let x := f.val a
  let y := f.val b
  if x.isNan || y.isNan then (false, 16) else (x.lt y || x.eq y, 0)

/-- minimumNumber and maximumNumber, −0 below +0 (Table 3-3, R88). -/
def Fmt.minmax (f : Fmt) (mx : Bool) (a b : Nat) : Nat × FFlags :=
  let x := f.val a
  let y := f.val b
  let fl : FFlags := if x.snan || y.snan then 16 else 0
  if x.isNan && y.isNan then (f.nan, fl)
  else if x.isNan then (b, fl)
  else if y.isNan then (a, fl)
  else
    let aless := if x.eq y then decide (f.sign ≤ a) else x.lt y
    (if aless = mx then b else a, fl)

/-- The one-hot class mask of fclass.s. -/
def Fmt.fclass (f : Fmt) (a : Nat) : Nat :=
  match f.val a with
  | .nan s => if s then 256 else 512
  | .inf n => if n then 1 else 128
  | .fin n m _ =>
    if m = 0 then (if n then 8 else 16)
    else if m < 2 ^ f.mb then (if n then 4 else 32)
    else if n then 2 else 64

/-- A value rounded to an integer, and whether it was exact; none for a NaN or an infinity. -/
def FVal.toInt (rm : Nat) : FVal → Option (Int × Bool)
  | .fin n m e =>
    let (r, exact) := roundAt rm n m e false 0
    some (smag n r, exact)
  | _ => none

/-- Conversion to an integer of `bits` bits, saturating (R60, R97): the two's complement result and the flags. -/
def FVal.toIntSat (rm bits : Nat) (sgn : Bool) (v : FVal) : Nat × FFlags :=
  let hi : Int := if sgn then 2 ^ (bits - 1) - 1 else 2 ^ bits - 1
  let lo : Int := if sgn then -(2 ^ (bits - 1)) else 0
  match v with
  | .nan _ => (ofInt bits hi, 16)
  | .inf n => (ofInt bits (if n then lo else hi), 16)
  | .fin n m e =>
    let (r, exact) := roundAt rm n m e false 0
    let i := smag n r
    if hi < i then (ofInt bits hi, 16)
    else if i < lo then (ofInt bits lo, 16)
    else (ofInt bits i, if exact then 0 else 1)

/-- A value rounded into a format. -/
def Fmt.ofVal (f : Fmt) (rm : Nat) (v : FVal) : Nat × FFlags :=
  match v with
  | .nan s => f.nanRes s
  | .inf n => (f.signed n f.infBits, 0)
  | .fin n m e => f.ofInt rm n (smag n m) e

/-- Sign injection: magnitude of a with the sign s. -/
def Fmt.withSign (f : Fmt) (a : Nat) (s : Bool) : Nat := f.signed s (a % f.sign)

end Sys2Proof.Machine
end

