-- ==== Sys2Proof/Machine/Narrow.lean ====
section
/-!
DEFINITION. Element types (Table 2-8), the narrow formats and block scales (R151 to R153), conversions (R97, R172), the
quantising store's shaping (R159 to R163) and the superblock layout (R155, R156).
-/
namespace Sys2Proof.Machine

/-! ## Element types -/

/-- Bits of an element of a type code (Table 2-8). -/
def ebits (ty : BitVec 4) : Nat :=
  match ty.toNat with
  | 0 => 8 | 1 => 16 | 2 => 32 | 3 => 64 | 4 => 16 | 5 => 16 | 6 => 32 | 8 => 8 | 9 => 8 | 10 => 4 | 11 => 16 | _ => 8

/-- i8 to i64. -/
def isIntTy (ty : BitVec 4) : Bool := decide (ty.toNat < 4)

/-- f16, bf16 and f32. -/
def fmtOf (ty : BitVec 4) : Option Fmt :=
  match ty.toNat with
  | 4 => some .f16 | 5 => some .bf16 | 6 => some .f32 | _ => none

/-- e4m3, e5m2 and e2m1 (Table 7-1). -/
def narrowOf (ty : BitVec 4) : Option Fmt :=
  match ty.toNat with
  | 8 => some ⟨4, 3⟩ | 9 => some ⟨5, 2⟩ | 10 => some ⟨2, 1⟩ | _ => none

/-- The code of the largest finite magnitude of a narrow format (Table 7-1). -/
def Fmt.top (f : Fmt) : Nat := if f.eb = 4 then 0x7E else if f.eb = 5 then 0x7B else 7

/-- Whether a code of a narrow type is invalidating (Table 7-1). -/
def invalidating (ty : BitVec 4) (c : Nat) : Bool :=
  match ty.toNat with
  | 8 => decide (c % 128 = 127)
  | 9 => decide (124 ≤ c % 128)
  | _ => false

/-- The value of a narrow code that is not invalidating (R151). -/
def Fmt.nval (f : Fmt) (c : Nat) : FVal :=
  let neg := decide (c / f.sign % 2 = 1)
  let e := c / 2 ^ f.mb % 2 ^ f.eb
  let m := c % 2 ^ f.mb
  if e = 0 then .fin neg m f.qmin else .fin neg (2 ^ f.mb + m) (f.qmin + (e - 1 : Nat))

/-- A nonzero magnitude rounded into a narrow format, saturating: the code without sign. -/
def Fmt.nround (f : Fmt) (rm : Nat) (neg : Bool) (m : Nat) (e : Int) (sticky : Bool) : Nat :=
  if m = 0 then 0
  else
    let q := max (e + (Nat.log2 m : Nat) - (f.mb : Nat)) f.qmin
    min f.top ((q - f.qmin).toNat * 2 ^ f.mb + (roundAt rm neg m e sticky q).1)

/-! ## Lattice indices (R152) -/

/-- The coordinates of an l8q index, in halves. -/
def l8qHalves (idx : Nat) : List Int :=
  let big := if idx / 2 ^ 15 % 2 = 1 then 5 else 3
  let mag := fun j => if idx / 2 ^ j % 2 = 1 then (big : Int) else 1
  let ys := (List.range 7).map (fun j => if idx / 2 ^ (8 + j) % 2 = 1 then -(mag j) else mag j)
  let sum := ys.foldl (· + ·) 0
  ys ++ [if (sum + mag 7) % 4 = 0 then mag 7 else -(mag 7)]

/-- A coordinate as a value. -/
def halfVal (y : Int) : FVal := .fin (decide (y < 0)) y.natAbs (-1)

/-! ## Block scales (R153) -/

/-- Block formats with e8m4 scales (Table 2-9). -/
def isE8m4 (fmt : Nat) : Bool := decide (3 ≤ fmt)

/-- The value of a scale code; none for NaN (Table 7-3). -/
def scaleVal (m4 : Bool) (c : Nat) : Option (Nat × Int) :=
  if m4 then
    if c = 0xFFF then none
    else if c / 16 = 0 then some (c % 16, -130)
    else some (16 + c % 16, (c / 16 : Nat) - 131)
  else if c = 0xFF then none else some (1, (c : Int) - 127)

/-- The NaN code of a scale. -/
def scaleNan (m4 : Bool) : Nat := if m4 then 0xFFF else 0xFF

/-- A scale as binary32 (R170). -/
def scaleF32 (m4 : Bool) (c : Nat) : Half :=
  match scaleVal m4 c with
  | none => 0x7FC00000
  | some (m, e) => BitVec.ofNat 32 (Fmt.f32.ofInt 0 false m e).1

/-! ## Blocks and superblocks (R155, R156) -/

/-- The element type of a block format (Table 2-9). -/
def blockTy (fmt : Nat) : BitVec 4 :=
  match fmt with
  | 0 => 8 | 1 => 9 | 2 => 10 | 3 => 8 | 4 => 10 | _ => 11

/-- Code bytes per block (Table 7-4). -/
def blockBytes (fmt : Nat) : Nat :=
  match fmt with
  | 0 => 32 | 1 => 32 | 2 => 16 | 3 => 32 | 4 => 16 | _ => 8

/-- Superblock size (Table 7-4). -/
def superSize (fmt : Nat) : Nat := 4 * blockBytes fmt + 8

/-- The superblock's address and the block in it, of block j from block address A (R156). -/
def blockAt (a fmt j : Nat) : Nat × Nat :=
  let n := a % 4 + j
  ((a / 8 * 8 + n / 4 * superSize fmt) % 2 ^ 64, n % 4)

/-- The bit field of block k's scale in the tail: first bit and width (R155). -/
def tailField (fmt k : Nat) : Nat × Nat := if isE8m4 fmt then (12 * k, 12) else (8 * k, 8)

/-- The 32 element values of a block's code bytes, and whether any code is invalidating. -/
def blockVals (fmt : Nat) (bs : List Byte) : List FVal × Bool :=
  let v := ofBytes bs
  match narrowOf (blockTy fmt) with
  | some f =>
    let w := ebits (blockTy fmt)
    let cs := (List.range 32).map (fun i => v / 2 ^ (w * i) % 2 ^ w)
    (cs.map f.nval, cs.any (invalidating (blockTy fmt)))
  | none => ((List.range 4).flatMap (fun k => (l8qHalves (v / 2 ^ (16 * k) % 65536)).map halfVal), false)

/-- A block's elements times its scale, rounded into a format, and its validity (R158). -/
def loadBlock (fmt : Nat) (f : Fmt) (rm : Nat) (bs : List Byte) (scale : Nat) : List Nat × Bool :=
  let (vs, bad) := blockVals fmt bs
  match scaleVal (isE8m4 fmt) scale with
  | some (m, e) =>
    if bad then (List.replicate 32 f.nan, false)
    else
      (vs.map (fun v => match v with
        | .fin n k x => (f.ofInt rm n (smag n k * m) (x + e)).1
        | _ => f.nan), true)
  | none => (List.replicate 32 f.nan, false)

/-! ## The shaping algorithm (R159 to R163) -/

/-- Whether the finite magnitude m·2^e is at most the second. -/
def dyLe (m1 : Nat) (e1 : Int) (m2 : Nat) (e2 : Int) : Bool := decide ((addDy m1 e1 (-(m2 : Int)) e2).1 ≤ 0)

/-- The largest finite element of a block format, as a dyadic: 448, 57,344, 6 or 5/2 (R159). -/
def blockMax (fmt : Nat) : Nat × Int :=
  match fmt with
  | 0 => (448, 0) | 1 => (57344, 0) | 2 => (6, 0) | 3 => (448, 0) | 4 => (6, 0) | _ => (5, -1)

/-- The clamp bound b of a block format (Table 7-1). -/
def blockClamp (fmt : Nat) : Nat :=
  match fmt with
  | 0 => 16 | 1 => 4096 | 3 => 16 | _ => 1

/-- The largest code below 2^n (from the bit n downwards, at or above c) for which the test fails, where the test holds
from some code on. -/
def lastFail (ok : Nat → Bool) (lim : Nat) : Nat → Nat → Nat
  | 0, c => c
  | n + 1, c => lastFail ok lim n (if c + 2 ^ n ≤ lim ∧ !ok (c + 2 ^ n) then c + 2 ^ n else c)

/-- The scale code of a valid block whose largest magnitude is m·2^e (R159). -/
def chooseScale (fmt m : Nat) (e : Int) : Nat :=
  let m4 := isE8m4 fmt
  let (fm, fe) := blockMax fmt
  let ok := fun c => match scaleVal m4 c with
    | some (sm, se) => dyLe m e (sm * fm) (se + fe)
    | none => true
  if m = 0 then (if m4 then 1 else 0)
  else if !m4 && ok 0 then 0
  else lastFail ok (scaleNan m4 - 1) (if m4 then 12 else 8) 0 + 1

/-- The largest magnitude of a list of finite values. -/
def maxMag (vs : List FVal) : Nat × Int :=
  vs.foldl (fun a v => match v with
    | .fin _ m e => if dyLe m e a.1 a.2 then a else (m, e)
    | _ => a) (0, 0)

/-- A dyadic clamped to ±(bm·2^be) and rounded RNE into binary32 (R161). -/
def clampF32 (m : Int) (e : Int) (bm : Nat) (be : Int) : Half :=
  let (m, e) := if dyLe m.natAbs e bm be then (m, e) else (if m < 0 then (-(bm : Int), be) else ((bm : Int), be))
  BitVec.ofNat 32 (Fmt.f32.ofInt 0 false m e).1

/-- t of R161 and R162: x itself where the residue is zero, else RNE(x + e, f32). -/
def shapedIn (x : FVal) (e : Half) : FVal :=
  match Fmt.f32.val e.toNat with
  | .fin _ 0 _ => x
  | v => Fmt.f32.val (Fmt.f32.addV 0 x v).1

/-- One element of a valid block of an element format (R161): the code, and the residue it leaves. -/
def shapeElem (f : Fmt) (b sm : Nat) (se : Int) (t : FVal) : Nat × Half :=
  match t with
  | .fin n m e =>
    let (q, qe, st) := divDy m e (max sm 1) se (f.mb + 3)
    let code := f.nround 0 n q qe st
    let qs : Int × Int := match f.nval (f.signed n code) with
      | .fin n' k x => (smag n' k * sm, x + se)
      | _ => (0, 0)
    let d := addDy (smag n m) e (-qs.1) qs.2
    (f.signed n code, clampF32 d.1 d.2 (b * sm) se)
  | .inf n => (f.signed n f.top, clampF32 (if n then -1 else 1) 4096 (b * sm) se)
  | .nan _ => (0, 0)

/-- Shape the elements of a block in ascending order: codes in order, residues after. `c0` is the position of the first
element. -/
def shapeElems (f : Fmt) (b sm : Nat) (se : Int) (ly : Leeway) : Nat → List FVal → Tab Half → List Nat × Tab Half
  | _, [], res => ([], res)
  | c0, x :: xs, res =>
    let c := c0 % ly.c
    let e := if ly.ns then 0 else res.get 0 c
    let (code, r) := shapeElem f b sm se (shapedIn x e)
    let (cs, res') := shapeElems f b sm se ly (c0 + 1) xs (res.put 0 c (if ly.ns then 0 else r))
    (code :: cs, res')

/-- A candidate change of R162: how much D grows (none is infinite), and the new halves of coordinate u with its sign. -/
structure LatCand where
  cost : Option Int
  u : Nat
  m2 : Nat
  neg : Bool

/-- The first candidate of least cost. -/
def bestCand : List LatCand → Option LatCand
  | [] => none
  | a :: r => match bestCand r with
    | none => some a
    | some b => (match a.cost, b.cost with
      | none, some _ => some b
      | some x, some y => if y < x then some b else some a
      | _, none => some a)

/-- The choice of magnitudes and signs for one M (in halves, 3 or 5) of eight coordinates whose doubled magnitudes are
given in units of S (none is infinite): coordinates with signs, and D (R162) (log 35). -/
def latTry (big : Nat) (s : Nat) (ts : List (Bool × Option Nat)) : List (Bool × Nat) × Option Int :=
  let dev := fun (t2 : Nat) (y : Int) => ((t2 : Int) - y * (s : Int)) ^ 2
  let pick := ts.map (fun p => match p.2 with
    | none => (p.1, big)
    | some t2 => (p.1, if 2 * t2 > (big + 1) * s then big else 1))
  let sum := pick.foldl (fun a p => a + smag p.1 p.2) 0
  let d0 := (ts.zip pick).foldl (fun (a : Option Int) p => match a, p.1.2 with
    | some x, some t2 => some (x + dev t2 (p.2.2 : Nat))
    | _, _ => none) (some 0)
  if sum % 4 = 0 then (pick, d0)
  else
    let cands := ((ts.zip pick).zipIdx).flatMap (fun (p, u) =>
      let flip : LatCand := { cost := p.1.2.map (fun t2 => dev t2 (-(p.2.2 : Int)) - dev t2 (p.2.2 : Nat)),
                              u := u, m2 := p.2.2, neg := !p.2.1 }
      let m' := if p.2.2 = 1 then 3 else 1
      let swap : LatCand := { cost := p.1.2.map (fun t2 => dev t2 (m' : Nat) - dev t2 (p.2.2 : Nat)),
                              u := u, m2 := m', neg := p.2.1 }
      if big = 3 then [flip, swap] else [flip])
    match bestCand cands with
    | none => (pick, d0)
    | some c =>
      (pick.set c.u (c.neg, c.m2), match d0, c.cost with | some x, some y => some (x + y) | _, _ => none)

/-- The positive quantity m·2^e in units of 2^q, where q is at most e. -/
def inUnits (m : Nat) (e q : Int) : Nat := m * 2 ^ (e - q).toNat

/-- One l8q index (R162): the index, and the coordinates in signed halves. -/
def latQuant (sm : Nat) (se : Int) (ts : List FVal) : Nat × List Int :=
  let q := ts.foldl (fun a t => match t with | .fin _ _ e => min a e | _ => a) se
  let s := inUnits sm se q
  let us := ts.map (fun t => match t with
    | .fin n m e => (n && decide (m ≠ 0), some (2 * inUnits m e q))
    | .inf n => (n, none)
    | .nan _ => (false, some 0))
  let (p3, d3) := latTry 3 s us
  let (p5, d5) := latTry 5 s us
  let take5 := match d5, d3 with | some a, some b => decide (a < b) | some _, none => true | none, _ => false
  let (big, ps) := if take5 then (5, p5) else (3, p3)
  let mags := (ps.zipIdx).foldl (fun a (p, j) => a + (if p.2 = big then 2 ^ j else 0)) 0
  let signs := ((ps.take 7).zipIdx).foldl (fun a (p, j) => a + (if p.1 then 2 ^ (8 + j) else 0)) 0
  let hi := if big = 5 ∧ ps.any (fun p => p.2 = 5) then 2 ^ 15 else 0
  (mags + signs + hi, ps.map (fun p => smag p.1 p.2))

/-- One index of a valid l8q block with its residues (R162). `c0` is the position of coordinate 0. -/
def shapeIndex (sm : Nat) (se : Int) (ly : Leeway) (c0 : Nat) (xs : List FVal) (res : Tab Half) : Nat × Tab Half :=
  let cs := (List.range 8).map (fun u => (c0 + u) % ly.c)
  let ts := (xs.zipIdx).map (fun (x, u) =>
    let c := cs.getD u 0
    let first := !(cs.take u).contains c
    if !ly.ns && first then shapedIn x (res.get 0 c) else x)
  let (idx, ys) := latQuant sm se ts
  let share := (ts.zip ys).map (fun (t, y) => match t with
    | .fin n m e => addDy (smag n m) e (-(y * sm)) (se - 1)
    | .inf n => (smag n sm, se)
    | .nan _ => (0, 0))
  let res' := cs.eraseDups.foldl (fun (r : Tab Half) c =>
    let d := ((share.zip cs).filter (fun p => p.2 = c)).foldl (fun a p => addDy a.1 a.2 p.1.1 p.1.2) (0, 0)
    r.put 0 c (if ly.ns then 0 else clampF32 d.1 d.2 sm se)) res
  (idx, res')

/-- The indices of a valid l8q block. -/
def shapeIndices (sm : Nat) (se : Int) (ly : Leeway) : Nat → Nat → List FVal → Tab Half → List Nat × Tab Half
  | 0, _, _, res => ([], res)
  | n + 1, c0, xs, res =>
    let (i, r) := shapeIndex sm se ly c0 (xs.take 8) res
    let (is, r') := shapeIndices sm se ly n (c0 + 8) (xs.drop 8) r
    (i :: is, r')

/-- What a block of the quantising store writes: its code bytes, its scale code, and the residues it leaves. -/
structure BlockOut where
  codes : List Byte
  scale : Nat
  res : Tab Half

/-- Pack codes of w bits into n bytes. -/
def packCodes (w n : Nat) (cs : List Nat) : List Byte :=
  bytesOf n ((cs.zipIdx).foldl (fun a (c, i) => a + c * 2 ^ (w * i)) 0)

/-- One block of 32 elements through a leeway register, its first element at chain position c0 (R159 to R163). -/
def shapeBlock (fmt : Nat) (ly : Leeway) (c0 : Nat) (valid : Bool) (xs : List FVal) (res : Tab Half) : BlockOut :=
  let bad := !valid || xs.any (fun x => match x with | .fin _ _ _ => false | _ => true)
  if bad then
    { codes := List.replicate (blockBytes fmt) 0, scale := scaleNan (isE8m4 fmt)
      res := (List.range 32).foldl (fun (r : Tab Half) i => r.put 0 ((c0 + i) % ly.c) 0) res }
  else
    let (m, e) := maxMag xs
    let code := chooseScale fmt m e
    let (sm, se) := (scaleVal (isE8m4 fmt) code).getD (1, 0)
    match narrowOf (blockTy fmt) with
    | some f =>
      let (cs, r) := shapeElems f (blockClamp fmt) sm se ly c0 xs res
      { codes := packCodes (ebits (blockTy fmt)) (blockBytes fmt) cs, scale := code, res := r }
    | none =>
      let (cs, r) := shapeIndices sm se ly 4 c0 xs res
      { codes := packCodes 16 8 cs, scale := code, res := r }

/-- Blocks in order, the chain position going on from block to block. -/
def shapeBlocks (fmt : Nat) (ly : Leeway) : Nat → List (Bool × List FVal) → Tab Half → List (List Byte × Nat) × Tab Half
  | _, [], res => ([], res)
  | c0, (v, xs) :: r, res =>
    let o := shapeBlock fmt ly c0 v xs res
    let (os, res') := shapeBlocks fmt ly (c0 + 32) r o.res
    ((o.codes, o.scale) :: os, res')

/-! ## Conversions (R97, R172) -/

/-- The value of an element code of a type that is not l8q, and whether it counts as a NaN, an infinity or an
invalidating code. -/
def elemVal (ty : BitVec 4) (c : Nat) : FVal × Bool :=
  match fmtOf ty with
  | some f => (f.val c, match f.val c with | .fin _ _ _ => false | _ => true)
  | none =>
    match narrowOf ty with
    | some f => if invalidating ty c then (.nan false, true) else (f.nval c, false)
    | none => let i := toInt (ebits ty) c; (.fin (decide (i < 0)) i.natAbs 0, false)

/-- The sign bit of an element code. -/
def elemSign (ty : BitVec 4) (c : Nat) : Bool := decide (c / 2 ^ (ebits ty - 1) % 2 = 1)

/-- vcvt of one element: the code in the destination type, and whether it clears its block's validity (R97, R172). -/
def convert (src dst : BitVec 4) (rm c : Nat) : Nat × Bool :=
  if src = dst then (c, (narrowOf src).isSome && invalidating src c)
  else
    let (v, bad) := elemVal src c
    match fmtOf dst with
    | some f => ((f.ofVal rm v).1, bad && (narrowOf src).isSome)
    | none =>
      match narrowOf dst with
      | some f =>
        (match v with
          | .fin n m e => (f.signed n (f.nround rm n m e false), false)
          | _ => (if dst.toNat = 10 then 0 else (if elemSign src c then 0xFF else 0x7F), true))
      | none =>
        if bad && (narrowOf src).isSome then (0, true)
        else if isIntTy src then
          let i := toInt (ebits src) c
          let hi : Int := 2 ^ (ebits dst - 1) - 1
          (ofInt (ebits dst) (if hi < i then hi else if i < -hi - 1 then -hi - 1 else i), false)
        else ((v.toIntSat rm (ebits dst) true).1, false)

/-- "Value j" of R93 in a type. -/
def valueOf (ty : BitVec 4) (j : Nat) : Nat :=
  match fmtOf ty with
  | some f => (f.ofInt 0 false j 0).1
  | none =>
    match narrowOf ty with
    | some f => f.nround 0 false j 0 false
    | none => j % 2 ^ (ebits ty)

/-- What a store writes for an element of an invalid block (Table 5-4). -/
def invalidStored (ty : BitVec 4) : Nat :=
  match ty.toNat with
  | 4 => 0x7E00 | 5 => 0x7FC0 | 6 => 0x7FC00000 | 8 => 0x7F | 9 => 0x7F | _ => 0

end Sys2Proof.Machine
end

