-- ==== Sys2Proof/Machine/Ray.lean ====
section
/-!
DEFINITION. The intersection unit and the tree queries (R287 to R296) on records of 32 words, and the edge evaluator
(R297). Each function answers the words it writes, by index in the slot.
-/
namespace Sys2Proof.Machine

/-- Word i of a record. -/
def wd (r : List Nat) (i : Nat) : Nat := r.getD i 0

/-- Word i of a record as binary32. -/
def wf32 (r : List Nat) (i : Nat) : FVal := Fmt.f32.val (wd r i)

/-- +infinity as binary32. -/
def posInf : Nat := 0x7F800000

/-- Whether a value is finite. -/
def FVal.finite : FVal → Bool
  | .fin _ _ _ => true
  | _ => false

/-- Whether a value is zero. -/
def FVal.isZero : FVal → Bool
  | .fin _ m _ => decide (m = 0)
  | _ => false

/-- Whether a value is below zero. -/
def FVal.neg : FVal → Bool
  | .fin n m _ => n && decide (m ≠ 0)
  | .inf n => n
  | .nan _ => false

/-- a ≤ b for values that are not NaN. -/
def FVal.le (a b : FVal) : Bool := a.lt b || a.eq b

/-- An exact dyadic number. -/
abbrev Dy := Int × Int

/-- The exact value of a finite number; 0 otherwise. -/
def FVal.dy : FVal → Dy
  | .fin n m e => (smag n m, e)
  | _ => (0, 0)

/-- Sum, difference and product of dyadics. -/
def dyAdd (a b : Dy) : Dy := addDy a.1 a.2 b.1 b.2
/-- a − b. -/
def dySub (a b : Dy) : Dy := addDy a.1 a.2 (-b.1) b.2
/-- a · b. -/
def dyMul (a b : Dy) : Dy := (a.1 * b.1, a.2 + b.2)
/-- The sign. -/
def dySign (a : Dy) : Int := a.1.sign

/-- A quotient of dyadics, b not 0, rounded once into binary32; an exact 0 is +0 (log 55). -/
def dyDiv (rm : Nat) (a b : Dy) : Nat :=
  if a.1 = 0 then 0
  else
    let (q, e, st) := divDy a.1.natAbs a.2 b.1.natAbs b.2 30
    (Fmt.f32.round rm (decide (a.1 < 0) != decide (b.1 < 0)) q e st).1

/-- A dyadic rounded RNE into binary32. -/
def dyRne (a : Dy) : Nat := (Fmt.f32.ofInt 0 false a.1 a.2).1

/-- The larger of two values, the first on a tie. -/
def vmax (a b : FVal) : FVal := if a.lt b then b else a
/-- The smaller of two values, the first on a tie. -/
def vmin (a b : FVal) : FVal := if b.lt a then b else a

/-- A value that is not NaN as a binary32 code. -/
def valCode (v : FVal) : Nat := (Fmt.f32.ofVal 0 v).1

/-! ## Status words (Table 12-4) -/

/-- The status fields that the box tests write: hit mask, order, count, and the invalid bit; reserved bits 0. -/
def boxStatus (old : Nat) (invalid : Bool) (order : List Nat) : Nat :=
  let mask := order.foldl (fun a k => a + 2 ^ k) 0
  let ord := (order.zipIdx).foldl (fun a (k, p) => a + k * 2 ^ (2 * p)) 0
  mask + ord * 2 ^ 4 + order.length * 2 ^ 12 + old / 2 ^ 16 % 2 ^ 8 * 2 ^ 16 + invalid.toNat * 2 ^ 31

/-- The words a box test writes: status, distances by box, child words in hit order. -/
def boxWrites (vd v1 : List Nat) (invalid : Bool) (order : List Nat) (dist : List Nat) : List (Nat × Nat) :=
  (16, boxStatus (wd vd 16) invalid order) ::
    ((List.range 4).map (fun k => (24 + k, if order.contains k then dist.getD k posInf else posInf)) ++
      (List.range 4).map (fun p => (28 + p, match order[p]? with | some k => wd v1 (24 + k) | none => 0)))

/-- Hit boxes in ascending order of a comparison, ties to the lower index. -/
def orderBy (lt : Nat → Nat → Bool) (hits : List Nat) : List Nat :=
  hits.foldl (fun r k =>
    let before := r.takeWhile (fun j => !lt k j)
    before ++ k :: r.drop before.length) []

/-! ## rbox (R288 to R290) -/

/-- min or max of box k on an axis. -/
def boxBound (v1 : List Nat) (k a : Nat) (mx : Bool) : FVal := wf32 v1 (6 * k + (if mx then 3 else 0) + a)

/-- Whether box k can hit: present, no NaN, min at most max on every axis (R288). -/
def boxCan (v1 : List Nat) (k : Nat) : Bool :=
  decide (wd v1 28 / 2 ^ k % 2 = 1) &&
    (List.range 3).all (fun a => !(boxBound v1 k a false).isNan && !(boxBound v1 k a true).isNan &&
      (boxBound v1 k a false).le (boxBound v1 k a true))

/-- Whether the ray of a record is invalid (R289). -/
def rayInvalid (vd : List Nat) : Bool :=
  !((List.range 3).all (fun a => (wf32 vd a).finite && (wf32 vd (4 + a)).finite)) ||
    (List.range 3).all (fun a => (wf32 vd (4 + a)).isZero) || (wf32 vd 3).isNan || (wf32 vd 7).isNan

/-- (bound − o) ÷ d rounded (R290). -/
def slab (rm : Nat) (b o d : FVal) : FVal :=
  match b with
  | .inf n => .inf (n != d.neg)
  | _ => Fmt.f32.val (dyDiv rm (dySub b.dy o.dy) d.dy)

/-- near and far of an axis, or none where box k misses. -/
def axisSpan (vd v1 : List Nat) (k a : Nat) : Option (FVal × FVal) :=
  let o := wf32 vd a
  let d := wf32 vd (4 + a)
  let lo := boxBound v1 k a false
  let hi := boxBound v1 k a true
  if d.isZero then (if lo.le o && o.le hi then some (.inf true, .inf false) else none)
  else some (vmin (slab 2 lo o d) (slab 2 hi o d), vmax (slab 3 lo o d) (slab 3 hi o d))

/-- The entry distance of box k where it is hit. -/
def boxEntry (vd v1 : List Nat) (k : Nat) : Option FVal :=
  if !boxCan v1 k then none
  else match axisSpan vd v1 k 0, axisSpan vd v1 k 1, axisSpan vd v1 k 2 with
    | some x, some y, some z =>
      let entry := vmax (vmax (vmax x.1 y.1) z.1) (wf32 vd 3)
      let exit := vmin (vmin (vmin x.2 y.2) z.2) (wf32 vd 7)
      if entry.le exit && (wf32 vd 3).le (wf32 vd 7) then some entry else none
    | _, _, _ => none

/-- rbox of one slot. -/
def rbox (vd v1 : List Nat) (x2 : Nat) : List (Nat × Nat) :=
  if rayInvalid vd then boxWrites vd v1 true [] []
  else
    let es := (List.range 4).map (boxEntry vd v1)
    let e := fun k => (es.getD k none).getD (.inf false)
    let hits := (List.range 4).filter (fun k => (es.getD k none).isSome)
    let order := if x2 % 2 = 1 then hits else orderBy (fun a b => (e a).lt (e b)) hits
    boxWrites vd v1 false order ((List.range 4).map (fun k => valCode (e k)))

/-! ## rtri (R291) -/

/-- RNE of a sum or product of binary32 codes; a NaN or an infinity goes on as IEEE 754 has it (DEDUCED, log 18). -/
def fadd (a b : Nat) : Nat := (Fmt.f32.add 0 a b).1
/-- a − b. -/
def fsub (a b : Nat) : Nat := (Fmt.f32.sub 0 a b).1
/-- a · b. -/
def fmul (a b : Nat) : Nat := (Fmt.f32.mul 0 a b).1
/-- a · b + c, one rounding. -/
def ffma (a b c : Nat) : Nat := (Fmt.f32.fma 0 false false a b c).1
/-- a ÷ b. -/
def fdiv (a b : Nat) : Nat := (Fmt.f32.div 0 a b).1
/-- −a. -/
def fneg (a : Nat) : Nat := a ^^^ 0x80000000

/-- inside(e) of R291: `e` is the exact edge value, `fx` and `fy` the edge vector, all times the sign of det. -/
def edgeIn (sg : Int) (e fx fy : Dy) : Bool :=
  let s := sg * dySign e
  let y := sg * dySign fy
  let x := sg * dySign fx
  decide (0 < s) || (decide (s = 0) && (decide (0 < y) || (decide (y = 0) && decide (0 < x))))

/-- The sheared vertex: x, y, z as binary32 codes. -/
def shear (vd v1 : List Nat) (base kx ky kz sx sy sz : Nat) : Nat × Nat × Nat :=
  let p := fun a => fsub (wd v1 (base + a)) (wd vd a)
  (ffma sx (p kz) (p kx), ffma sy (p kz) (p ky), fmul sz (p kz))

/-- The status word of rtri: bits [18:16] and [31]; reserved bits 0. -/
def triStatus (old : Nat) (invalid hit back opaque_ : Bool) : Nat :=
  old % 2 ^ 15 + hit.toNat * 2 ^ 16 + back.toNat * 2 ^ 17 + opaque_.toNat * 2 ^ 18 + old / 2 ^ 19 % 2 ^ 5 * 2 ^ 19 +
    invalid.toNat * 2 ^ 31

/-- rtri of one slot (R291): back-facing is det < 0, on a miss too. Of an invalid ray, which R289 has miss, bit 17 is 0 by the
model's choice: R289 does not name it, and the ray has no det to tell it by (log 72). A miss because an x or y is no finite number
has none either (log 18). -/
def rtri (vd v1 : List Nat) (x2 : Nat) : List (Nat × Nat) :=
  let miss := fun (back : Bool) => [(16, triStatus (wd vd 16) false false back false)]
  if rayInvalid vd then [(16, triStatus (wd vd 16) true false false false)]
  else
    let mag := fun a => wf32 [wd vd (4 + a) % 2 ^ 31] 0
    let kz := if (mag 1).lt (mag 0) && (mag 2).lt (mag 0) then 0
      else if (mag 2).lt (mag 1) then 1 else 2
    let kx0 := (kz + 1) % 3
    let ky0 := (kx0 + 1) % 3
    let dz := wd vd (4 + kz)
    let (kx, ky) := if (Fmt.f32.val dz).neg then (ky0, kx0) else (kx0, ky0)
    let sx := fdiv (fneg (wd vd (4 + kx))) dz
    let sy := fdiv (fneg (wd vd (4 + ky))) dz
    let sz := fdiv 0x3F800000 dz
    let a := shear vd v1 0 kx ky kz sx sy sz
    let b := shear vd v1 3 kx ky kz sx sy sz
    let c := shear vd v1 6 kx ky kz sx sy sz
    let v := fun (n : Nat) => Fmt.f32.val n
    let fin := fun (l : List Nat) => l.all (fun n => (v n).finite)
    if !fin [a.1, a.2.1, b.1, b.2.1, c.1, c.2.1] then miss false
    else
      let d := fun (n : Nat) => (v n).dy
      let cross := fun (p q : Nat × Nat × Nat) => dySub (dyMul (d p.1) (d q.2.1)) (dyMul (d p.2.1) (d q.1))
      let eU := cross c b
      let eV := cross a c
      let eW := cross b a
      let det := dyAdd (dyAdd eU eV) eW
      let sg := dySign det
      let edge := fun (e : Dy) (p q : Nat × Nat × Nat) => edgeIn sg e (dySub (d p.1) (d q.1)) (dySub (d p.2.1) (d q.2.1))
      let back := decide (sg < 0)
      if det.1 = 0 || !fin [a.2.2, b.2.2, c.2.2] then miss back
      else if !(edge eU c b && edge eV a c && edge eW b a) then miss back
      else
        let t := dyDiv 0 (dyAdd (dyAdd (dyMul eU (d a.2.2)) (dyMul eV (d b.2.2))) (dyMul eW (d c.2.2))) det
        let culled := if back then decide (x2 % 2 = 1) else decide (x2 / 2 % 2 = 1)
        if !((wf32 vd 3).le (v t) && (v t).le (wf32 vd 7)) || culled then miss back
        else
          [(16, triStatus (wd vd 16) false true back (decide (wd v1 10 % 2 = 1))), (18, t), (19, dyDiv 0 eV det),
           (20, dyDiv 0 eW det), (21, wd v1 9)]

/-! ## Candidates (R292 to R294) -/

/-- The pending candidates of a record: t and primitive. -/
def candList (r : List Nat) : List (Nat × Nat) :=
  (List.range (min 4 (wd r 16 / 2 ^ 19 % 8))).map (fun i => (wd r (8 + 2 * i), wd r (9 + 2 * i)))

/-- The status word with another pending count, refused and accepted; reserved bits 0. -/
def candStatus (st count : Nat) (refused accepted : Bool) : Nat :=
  st % 2 ^ 15 + st / 2 ^ 16 % 8 * 2 ^ 16 + count * 2 ^ 19 + refused.toNat * 2 ^ 22 + accepted.toNat * 2 ^ 23 +
    st / 2 ^ 31 % 2 * 2 ^ 31

/-- A record with another candidate list: entries freed from the list are 0, the count and the flags are set, entries
beyond both lists stay. -/
def withCands (r : List Nat) (cs : List (Nat × Nat)) (refused accepted : Bool) : List Nat :=
  let n := (candList r).length
  let slots := (List.range 4).flatMap (fun i => match cs[i]? with
    | some c => [c.1, c.2]
    | none => if i < n then [0, 0] else [wd r (8 + 2 * i), wd r (9 + 2 * i)])
  (r.take 8 ++ slots ++ r.drop 16).set 16 (candStatus (wd r 16) cs.length refused accepted)

/-- accepted, as it stands. -/
def accBit (r : List Nat) : Bool := decide (wd r 16 / 2 ^ 23 % 2 = 1)

/-- All 32 words of a record as writes. -/
def allWords (r : List Nat) : List (Nat × Nat) := (List.range 32).map (fun i => (i, wd r i))

/-- rcand of one slot (R292) (log 34). -/
def rcand (v1 v2 : List Nat) : List (Nat × Nat) :=
  let cs := candList v1
  if wd v2 16 / 2 ^ 16 % 2 = 0 then allWords (withCands v1 cs false (accBit v1))
  else
    let t := wf32 v2 18
    let ok := decide (wd v1 16 / 2 ^ 31 % 2 = 0) && !t.isNan && (wf32 v1 3).le t && t.le (wf32 v1 7) && decide (cs.length < 4)
    if ok then
      let before := cs.takeWhile (fun c => !(t.lt (Fmt.f32.val c.1)))
      allWords (withCands v1 (before ++ (wd v2 18, wd v2 21) :: cs.drop before.length) false (accBit v1))
    else allWords (withCands v1 cs true (accBit v1))

/-- The box indices in the order field. -/
def orderList (r : List Nat) : List Nat :=
  (List.range (min 4 (wd r 16 / 2 ^ 12 % 8))).map (fun p => wd r 16 / 2 ^ (4 + 2 * p) % 4)

/-- racc of one slot (R293) (log 34). -/
def racc (v1 : List Nat) : List (Nat × Nat) :=
  match candList v1 with
  | [] => allWords v1
  | c :: rest =>
    let ct := Fmt.f32.val c.1
    let keep := rest.filter (fun p => !(ct.lt (Fmt.f32.val p.1)))
    let r := (withCands v1 keep false true).set 7 c.1 |>.set 17 c.2
    let pairs := (orderList v1).zipIdx.filter (fun p => !(ct.lt (wf32 v1 (24 + p.1))))
    let order := pairs.map (·.1)
    let st := wd r 16
    let mask := (List.range 4).foldl (fun a k =>
      a + (if st / 2 ^ k % 2 = 1 ∧ !(ct.lt (wf32 v1 (24 + k))) then 2 ^ k else 0)) 0
    let ord := (order.zipIdx).foldl (fun a (k, p) => a + k * 2 ^ (2 * p)) 0
    let st' := mask + ord * 2 ^ 4 + order.length * 2 ^ 12 + st / 2 ^ 16 * 2 ^ 16
    let kids := (List.range 4).map (fun p => match pairs[p]? with | some q => wd v1 (28 + q.2) | none => 0)
    allWords ((r.take 28 ++ kids).set 16 st')

/-- rrej of one slot (R294) (log 34). -/
def rrej (v1 : List Nat) : List (Nat × Nat) :=
  match candList v1 with
  | [] => allWords v1
  | _ :: rest => allWords (withCands v1 rest false (accBit v1))

/-! ## Tree queries (R295, R296) -/

/-- A squared distance: a dyadic, or none for infinity. -/
abbrev Dist := Option Dy

/-- a < b. -/
def Dist.lt (a b : Dist) : Bool :=
  match a, b with
  | some x, some y => decide ((dySub x y).1 < 0)
  | some _, none => true
  | none, _ => false

/-- A distance as binary32, RNE. -/
def Dist.code : Dist → Nat
  | some d => dyRne d
  | none => posInf

/-- A nonnegative value as a distance. -/
def FVal.dist : FVal → Dist
  | .inf _ => none
  | v => some v.dy

/-- The squared distance from the centre to box k (R295). -/
def boxDist (vd v1 : List Nat) (k : Nat) : Dist :=
  (List.range 3).foldl (fun (acc : Dist) a =>
    let lo := boxBound v1 k a false
    let hi := boxBound v1 k a true
    let c := wf32 vd a
    let gap : Dist := if c.lt lo then (match lo with | .inf _ => none | _ => some (dySub lo.dy c.dy))
      else if hi.lt c then (match hi with | .inf _ => none | _ => some (dySub c.dy hi.dy)) else some (0, 0)
    match acc, gap with
    | some x, some g => some (dyAdd x (dyMul g g))
    | _, _ => none) (some (0, 0))

/-- The squared distance from the centre to the point of box k. -/
def pointDist (vd v1 : List Nat) (k : Nat) : Dist :=
  (List.range 3).foldl (fun (acc : Dist) a =>
    match acc, boxBound v1 k a false with
    | some x, .fin n m e =>
      let g := dySub (smag n m, e) (wf32 vd a).dy
      some (dyAdd x (dyMul g g))
    | _, _ => none) (some (0, 0))

/-- Whether a query's centre is not finite, or its radius or bound is a NaN or negative. -/
def queryInvalid (vd : List Nat) : Bool :=
  !((List.range 3).all (fun a => (wf32 vd a).finite)) || (wf32 vd 3).isNan || (wf32 vd 3).neg

/-- The hits of a query in order, given distances and which boxes hit. -/
def queryOrder (ds : List Dist) (hits : List Nat) (u : Bool) : List Nat :=
  if u then hits else orderBy (fun a b => (ds.getD a none).lt (ds.getD b none)) hits

/-- qsph of one slot. -/
def qsph (vd v1 : List Nat) (x2 : Nat) : List (Nat × Nat) :=
  if queryInvalid vd then boxWrites vd v1 true [] []
  else
    let ds := (List.range 4).map (boxDist vd v1)
    let r2 : Dist := match wf32 vd 3 with | .inf _ => none | v => some (dyMul v.dy v.dy)
    let hits := (List.range 4).filter (fun k => boxCan v1 k && !(Dist.lt r2 (ds.getD k none)))
    boxWrites vd v1 false (queryOrder ds hits (decide (x2 % 2 = 1))) (ds.map Dist.code)

/-- qknn of one slot (R295, R296). -/
def qknn (vd v1 : List Nat) (x2 : Nat) : List (Nat × Nat) :=
  if queryInvalid vd then boxWrites vd v1 true [] []
  else
    let leaf := decide (wd v1 28 / 2 ^ 4 % 2 = 1)
    let ds := (List.range 4).map (if leaf then pointDist vd v1 else boxDist vd v1)
    let b := (wf32 vd 3).dist
    let hits := (List.range 4).filter (fun k => boxCan v1 k && (ds.getD k none).lt b)
    let order := queryOrder ds hits (decide (x2 % 2 = 1))
    boxWrites vd v1 false order (ds.map Dist.code) ++
      (match order with
        | k :: _ => if leaf then [(3, (ds.getD k none).code), (17, wd v1 (24 + k))] else []
        | [] => [])

/-- qkey of one slot. -/
def qkey (vd v1 : List Nat) (x2 : Nat) : List (Nat × Nat) :=
  let key := fun (n : Nat) => if x2 / 2 % 2 = 1 then toInt 32 n else (n : Int)
  let lo := fun k => wd v1 (6 * k)
  let hi := fun k => wd v1 (6 * k + 1)
  let hits := (List.range 4).filter (fun k =>
    decide (wd v1 28 / 2 ^ k % 2 = 1) && decide (key (lo k) ≤ key (hi k)) && decide (key (lo k) ≤ key (wd vd 1)) &&
      decide (key (wd vd 0) ≤ key (hi k)))
  let order := if x2 % 2 = 1 then hits else orderBy (fun a b => decide (key (lo a) < key (lo b))) hits
  boxWrites vd v1 false order ((List.range 4).map lo)

/-- The words a slot instruction writes in a slot of vd (R286). -/
def slotOp (f : RayOp) (vd v1 v2 : List Nat) (x2 : Nat) : List (Nat × Nat) :=
  match f with
  | .rbox => rbox vd v1 x2
  | .rtri => rtri vd v1 x2
  | .rcand => rcand v1 v2
  | .racc => racc v1
  | .rrej => rrej v1
  | .qsph => qsph vd v1 x2
  | .qknn => qknn vd v1 x2
  | .qkey => qkey vd v1 x2
  | .vedge => []
  | .tsamp => []
  | .tfetch => []
  | .tdecode => []

/-! ## vedge (R297) -/

/-- E of an edge at a sample: the edge's A, B and C from the 16 bytes of the register. -/
def edgeVal (bits : Nat) (e x y : Nat) : Int :=
  let w := bits / 2 ^ (128 * e)
  toInt 32 w * x + toInt 32 (w / 2 ^ 32) * y + toInt 64 (w / 2 ^ 64)

/-- The bytes vedge writes: the mask at byte 0, then the 192 edge values from byte 256. -/
def vedge (bits x2 : Nat) : Nat × List Int :=
  let off := if x2 / 2 ^ 32 % 4 = 0 then 128 else 0
  let x0 := x2 % 2 ^ 16
  let y0 := x2 / 2 ^ 16 % 2 ^ 16
  let xs := fun s => 256 * (x0 + s % 8) + off
  let ys := fun s => 256 * (y0 + s / 8) + off
  let ev := fun e s => edgeVal bits e (xs s) (ys s)
  let inE := fun e s =>
    let v := ev e s
    let a := toInt 32 (bits / 2 ^ (128 * e))
    let b := toInt 32 (bits / 2 ^ (128 * e + 32))
    decide (0 < v) || (decide (v = 0) && (decide (0 < a) || (decide (a = 0) && decide (0 < b))))
  let mask := (List.range 64).foldl (fun m s => m + (if inE 0 s && inE 1 s && inE 2 s then 2 ^ s else 0)) 0
  let sat : Int → Int := fun v => if 2 ^ 63 - 1 < v then 2 ^ 63 - 1 else if v < -2 ^ 63 then -2 ^ 63 else v
  (mask, (List.range 192).map (fun i => sat (ev (i / 64) (i % 64))))

end Sys2Proof.Machine
end

