-- ==== Sys2Proof/Machine/Texture.lean ====
section
/-!
DEFINITION. Textures (R299 to R305): descriptors, levels, addressing, filtering, and the block decoder of BC1, BC4, BC5
and BC7. R305 takes the block formats from the Khronos Data Format Specification; BC7's modes, partitions and anchors
stand here as that specification has them (PRESUMED, log 10).
-/
namespace Sys2Proof.Machine

/-! ## BC1, BC4, BC5 (Table 12-11) -/

/-- A texel: R, G, B, A. -/
structure Texel where
  r : Nat
  g : Nat
  b : Nat
  a : Nat
  deriving DecidableEq, Repr

/-- R in [7:0], G in [15:8], B in [23:16], A in [31:24] (R301). -/
def Texel.pack (t : Texel) : Nat := t.r % 256 + t.g % 256 * 2 ^ 8 + t.b % 256 * 2 ^ 16 + t.a % 256 * 2 ^ 24

/-- n bits of a block from bit lo. -/
def bitsAt (v lo n : Nat) : Nat := v / 2 ^ lo % 2 ^ n

/-- A 5:6:5 endpoint expanded (Table 12-11). -/
def rgb565 (c : Nat) : Nat × Nat × Nat :=
  let r := bitsAt c 11 5
  let g := bitsAt c 5 6
  let b := bitsAt c 0 5
  (r * 8 + r / 4, g * 4 + g / 16, b * 8 + b / 4)

/-- BC1, texel i = 4y + x of an 8-byte block. -/
def bc1 (v i : Nat) : Texel :=
  let c0 := bitsAt v 0 16
  let c1 := bitsAt v 16 16
  let e0 := rgb565 c0
  let e1 := rgb565 c1
  let mix := fun (f : Nat → Nat → Nat) => Texel.mk (f e0.1 e1.1) (f e0.2.1 e1.2.1) (f e0.2.2 e1.2.2) 255
  match bitsAt v (32 + 2 * i) 2 with
  | 0 => mix (fun a _ => a)
  | 1 => mix (fun _ b => b)
  | 2 => if c1 < c0 then mix (fun a b => (2 * a + b + 1) / 3) else mix (fun a b => (a + b + 1) / 2)
  | _ => if c1 < c0 then mix (fun a b => (a + 2 * b + 1) / 3) else ⟨0, 0, 0, 0⟩

/-- BC4's channel, texel i of an 8-byte block. -/
def bc4 (v i : Nat) : Nat :=
  let r0 := bitsAt v 0 8
  let r1 := bitsAt v 8 8
  let k := bitsAt v (16 + 3 * i) 3
  if k = 0 then r0 else if k = 1 then r1
  else if r1 < r0 then ((8 - k) * r0 + (k - 1) * r1 + 3) / 7
  else if k = 6 then 0 else if k = 7 then 255
  else ((6 - k) * r0 + (k - 1) * r1 + 2) / 5

/-! ## BC7 -/

/-- A BC7 mode: subsets, partition bits, rotation bits, index-selection bits, colour bits, alpha bits, P-bits per
endpoint, P-bits per subset, index bits, second index bits. -/
structure Bc7Mode where
  ns : Nat
  pb : Nat
  rb : Nat
  isb : Nat
  cb : Nat
  ab : Nat
  epb : Nat
  spb : Nat
  ib : Nat
  ib2 : Nat

/-- The eight modes. -/
def bc7Mode (m : Nat) : Bc7Mode :=
  match m with
  | 0 => ⟨3, 4, 0, 0, 4, 0, 1, 0, 3, 0⟩
  | 1 => ⟨2, 6, 0, 0, 6, 0, 0, 1, 3, 0⟩
  | 2 => ⟨3, 6, 0, 0, 5, 0, 0, 0, 2, 0⟩
  | 3 => ⟨2, 6, 0, 0, 7, 0, 1, 0, 2, 0⟩
  | 4 => ⟨1, 0, 2, 1, 5, 6, 0, 0, 2, 3⟩
  | 5 => ⟨1, 0, 2, 0, 7, 8, 0, 0, 2, 2⟩
  | 6 => ⟨1, 0, 0, 0, 7, 7, 1, 0, 4, 0⟩
  | _ => ⟨2, 6, 0, 0, 5, 5, 1, 0, 2, 0⟩

/-- The two-subset partitions, one bit a texel. -/
def bc7Part2 : List Nat :=
  [0xCCCC, 0x8888, 0xEEEE, 0xECC8, 0xC880, 0xFEEC, 0xFEC8, 0xEC80, 0xC800, 0xFFEC, 0xFE80, 0xE800, 0xFFE8, 0xFF00, 0xFFF0, 0xF000] ++
  [0xF710, 0x008E, 0x7100, 0x08CE, 0x008C, 0x7310, 0x3100, 0x8CCE, 0x088C, 0x3110, 0x6666, 0x366C, 0x17E8, 0x0FF0, 0x718E, 0x399C] ++
  [0xAAAA, 0xF0F0, 0x5A5A, 0x33CC, 0x3C3C, 0x55AA, 0x9696, 0xA55A, 0x73CE, 0x13C8, 0x324C, 0x3BDC, 0x6996, 0xC33C, 0x9966, 0x0660] ++
  [0x0272, 0x04E4, 0x4E40, 0x2720, 0xC936, 0x936C, 0x39C6, 0x639C, 0x9336, 0x9CC6, 0x817E, 0xE718, 0xCCF0, 0x0FCC, 0x7744, 0xEE22]

/-- The three-subset partitions, two bits a texel. -/
def bc7Part3 : List Nat :=
  [0xAA685050, 0x6A5A5040, 0x5A5A4200, 0x5450A0A8, 0xA5A50000, 0xA0A05050, 0x5555A0A0, 0x5A5A5050] ++
  [0xAA550000, 0xAA555500, 0xAAAA5500, 0x90909090, 0x94949494, 0xA4A4A4A4, 0xA9A59450, 0x2A0A4250] ++
  [0xA5945040, 0x0A425054, 0xA5A5A500, 0x55A0A0A0, 0xA8A85454, 0x6A6A4040, 0xA4A45000, 0x1A1A0500] ++
  [0x0050A4A4, 0xAAA59090, 0x14696914, 0x69691400, 0xA08585A0, 0xAA821414, 0x50A4A450, 0x6A5A0200] ++
  [0xA9A58000, 0x5090A0A8, 0xA8A09050, 0x24242424, 0x00AA5500, 0x24924924, 0x24499224, 0x50A50A50] ++
  [0x500AA550, 0xAAAA4444, 0x66660000, 0xA5A0A5A0, 0x50A050A0, 0x69286928, 0x44AAAA44, 0x66666600] ++
  [0xAA444444, 0x54A854A8, 0x95809580, 0x96969600, 0xA85454A8, 0x80959580, 0xAA141414, 0x96960000] ++
  [0xAAAA1414, 0xA05050A0, 0xA0A5A5A0, 0x96000000, 0x40804080, 0xA9A8A9A8, 0xAAAAAA44, 0x2A4A5254]

/-- The anchor of the second of two subsets. -/
def bc7Anchor2 : List Nat :=
  [15, 15, 15, 15, 15, 15, 15, 15, 15, 15, 15, 15, 15, 15, 15, 15] ++
  [15, 2, 8, 2, 2, 8, 8, 15, 2, 8, 2, 2, 8, 8, 2, 2] ++
  [15, 15, 6, 8, 2, 8, 15, 15, 2, 8, 2, 2, 2, 15, 15, 6] ++
  [6, 2, 6, 8, 15, 15, 2, 2, 15, 15, 15, 15, 15, 2, 2, 15]

/-- The anchor of the second of three subsets. -/
def bc7Anchor3a : List Nat :=
  [3, 3, 15, 15, 8, 3, 15, 15, 8, 8, 6, 6, 6, 5, 3, 3] ++
  [3, 3, 8, 15, 3, 3, 6, 10, 5, 8, 8, 6, 8, 5, 15, 15] ++
  [8, 15, 3, 5, 6, 10, 8, 15, 15, 3, 15, 5, 15, 15, 15, 15] ++
  [3, 15, 5, 5, 5, 8, 5, 10, 5, 10, 8, 13, 15, 12, 3, 3]

/-- The anchor of the third of three subsets. -/
def bc7Anchor3b : List Nat :=
  [15, 8, 8, 3, 15, 15, 3, 8, 15, 15, 15, 15, 15, 15, 15, 8] ++
  [15, 8, 15, 3, 15, 8, 15, 8, 3, 15, 6, 10, 15, 15, 10, 8] ++
  [15, 3, 15, 10, 10, 8, 9, 10, 6, 15, 8, 15, 3, 6, 6, 8] ++
  [15, 3, 15, 15, 15, 15, 15, 15, 15, 15, 15, 15, 3, 15, 15, 8]
/-- The subset of texel i. -/
def bc7Subset (ns part i : Nat) : Nat :=
  match ns with
  | 1 => 0
  | 2 => bitsAt (bc7Part2.getD part 0) i 1
  | _ => bitsAt (bc7Part3.getD part 0) (2 * i) 2

/-- The anchor texel of a subset. -/
def bc7Anchor (ns part s : Nat) : Nat :=
  if s = 0 then 0
  else if ns = 2 then bc7Anchor2.getD part 0
  else if s = 1 then bc7Anchor3a.getD part 0 else bc7Anchor3b.getD part 0

/-- The interpolation weight of an index of n bits. -/
def bc7Weight (n i : Nat) : Nat :=
  match n with
  | 2 => [0, 21, 43, 64].getD i 0
  | 3 => [0, 9, 18, 27, 37, 46, 55, 64].getD i 0
  | _ => [0, 4, 9, 13, 17, 21, 26, 30, 34, 38, 43, 47, 51, 55, 60, 64].getD i 0

/-- A value of n bits expanded to 8. -/
def expand8 (n v : Nat) : Nat := (v * 2 ^ (8 - n) + v / 2 ^ (2 * n - 8)) % 256

/-- The index of texel i among indices of n bits that start at bit lo, the anchors one bit shorter. -/
def bc7Index (v lo n ns part i : Nat) : Nat :=
  let anchors := (List.range ns).map (bc7Anchor ns part)
  let before := (anchors.filter (fun a => decide (a < i))).length
  bitsAt v (lo + n * i - before) (if anchors.contains i then n - 1 else n)

/-- BC7, texel i of a 16-byte block. -/
def bc7 (v i : Nat) : Texel :=
  match (List.range 8).find? (fun m => v / 2 ^ m % 2 = 1) with
  | none => ⟨0, 0, 0, 0⟩
  | some m =>
    let d := bc7Mode m
    let p0 := m + 1
    let part := bitsAt v p0 d.pb
    let rot := bitsAt v (p0 + d.pb) d.rb
    let sel := bitsAt v (p0 + d.pb + d.rb) d.isb
    let c0 := p0 + d.pb + d.rb + d.isb
    let ne := 2 * d.ns
    let a0 := c0 + 3 * ne * d.cb
    let q0 := a0 + ne * d.ab
    let i0 := q0 + ne * d.epb + d.ns * d.spb
    let j0 := i0 + 16 * d.ib - d.ns
    let s := bc7Subset d.ns part i
    let pbits := d.epb + d.spb
    let pbit := fun e => if d.epb = 1 then bitsAt v (q0 + e) 1 else if d.spb = 1 then bitsAt v (q0 + e / 2) 1 else 0
    let chan := fun ch e =>
      let n := if ch = 3 then d.ab else d.cb
      let raw := if ch = 3 then bitsAt v (a0 + e * d.ab) d.ab else bitsAt v (c0 + (ch * ne + e) * d.cb) d.cb
      if n = 0 then 255 else expand8 (n + pbits) (if pbits = 1 then 2 * raw + pbit e else raw)
    let x1 := bc7Index v i0 d.ib d.ns part i
    let x2 := if d.ib2 = 0 then x1 else bitsAt v (if i = 0 then j0 else j0 + d.ib2 * i - 1) (if i = 0 then d.ib2 - 1 else d.ib2)
    let (ci, cn, ai, an) := if d.ib2 = 0 then (x1, d.ib, x1, d.ib)
      else if sel = 1 then (x2, d.ib2, x1, d.ib) else (x1, d.ib, x2, d.ib2)
    let mix := fun ch =>
      let w := if ch = 3 then bc7Weight an ai else bc7Weight cn ci
      ((64 - w) * chan ch (2 * s) + w * chan ch (2 * s + 1) + 32) / 64
    let t : Texel := ⟨mix 0, mix 1, mix 2, mix 3⟩
    match rot with
    | 1 => ⟨t.a, t.g, t.b, t.r⟩
    | 2 => ⟨t.r, t.a, t.b, t.g⟩
    | 3 => ⟨t.r, t.g, t.a, t.b⟩
    | _ => t

/-! ## Formats (Table 12-10) -/

/-- Bytes of a texel or of a block. -/
def texBytes (fmt : Nat) : Nat :=
  match fmt with
  | 0 => 4 | 1 => 1 | 2 => 2 | 3 => 8 | 4 => 8 | _ => 16

/-- Whether a format stores 4×4 blocks. -/
def texBlocked (fmt : Nat) : Bool := decide (3 ≤ fmt)

/-- Texel i of the texel or block with the bytes v (R305). -/
def texDecode (fmt v i : Nat) : Texel :=
  match fmt with
  | 0 => ⟨bitsAt v 0 8, bitsAt v 8 8, bitsAt v 16 8, bitsAt v 24 8⟩
  | 1 => ⟨bitsAt v 0 8, 0, 0, 255⟩
  | 2 => ⟨bitsAt v 0 8, bitsAt v 8 8, 0, 255⟩
  | 3 => bc1 v i
  | 4 => ⟨bc4 (bitsAt v 0 64) i, 0, 0, 255⟩
  | 5 => ⟨bc4 (bitsAt v 0 64) i, bc4 (bitsAt v 64 64) i, 0, 255⟩
  | _ => bc7 v i

/-! ## Descriptors and levels (R299, R300) -/

/-- A texture descriptor read (Table 12-7). -/
structure TexDesc where
  base : Nat
  w : Nat
  h : Nat
  fmt : Nat
  levels : Nat
  au : Nat
  av : Nat
  filter : Nat
  deriving DecidableEq, Repr

/-- The descriptor of 32 bytes; none where it is unsupported (R299). -/
def texDesc (v : Nat) : Option TexDesc :=
  let d : TexDesc :=
    { base := bitsAt v 0 64, w := bitsAt v 64 14 + 1, h := bitsAt v 80 14 + 1, fmt := bitsAt v 96 8,
      levels := bitsAt v 104 4, au := bitsAt v 112 2, av := bitsAt v 114 2, filter := bitsAt v 116 2 }
  if bitsAt v 78 2 ≠ 0 ∨ bitsAt v 94 2 ≠ 0 ∨ bitsAt v 108 4 ≠ 0 ∨ bitsAt v 118 2 ≠ 0 ∨ bitsAt v 120 136 ≠ 0 ∨
      7 ≤ d.fmt ∨ d.levels = 0 ∨ Nat.log2 (max d.w d.h) + 1 < d.levels ∨ d.au = 3 ∨ d.av = 3 ∨ d.filter = 3 ∨
      d.base % 256 ≠ 0 then none
  else some d

/-- W_l. -/
def TexDesc.wl (d : TexDesc) (l : Nat) : Nat := max 1 (d.w / 2 ^ l)
/-- H_l. -/
def TexDesc.hl (d : TexDesc) (l : Nat) : Nat := max 1 (d.h / 2 ^ l)

/-- The bytes of a level, rounded up to 256. -/
def TexDesc.levelBytes (d : TexDesc) (l : Nat) : Nat :=
  let n := if texBlocked d.fmt then ceilDiv (d.wl l) 4 * ceilDiv (d.hl l) 4 * texBytes d.fmt
    else d.wl l * d.hl l * texBytes d.fmt
  ceilDiv n 256 * 256

/-- The address of level l. -/
def TexDesc.levelAt (d : TexDesc) (l : Nat) : Nat := (List.range l).foldl (fun a i => a + d.levelBytes i) d.base

/-- The address of the texel or block that holds texel (x, y) of a level, and the texel's place in it. -/
def TexDesc.texelAt (d : TexDesc) (l x y : Nat) : Nat × Nat :=
  if texBlocked d.fmt then
    (d.levelAt l + (y / 4 * ceilDiv (d.wl l) 4 + x / 4) * texBytes d.fmt, y % 4 * 4 + x % 4)
  else (d.levelAt l + (y * d.wl l + x) * texBytes d.fmt, 0)

/-- Addressing of an index into a dimension of size n (R300). -/
def texWrap (mode n : Nat) (i : Int) : Nat :=
  match mode with
  | 0 => (i % (n : Int)).toNat
  | 1 => if i < 0 then 0 else min i.toNat (n - 1)
  | _ => let j := (i % (2 * n : Int)).toNat; if j < n then j else 2 * n - 1 - j

/-- One texel that a sample reads, with its weight. -/
structure Tap where
  addr : Nat
  place : Nat
  weight : Nat
  deriving DecidableEq, Repr

/-- A dyadic coordinate rounded to an integer: 0 RNE, 2 down. -/
def dyInt (rm : Nat) (m e : Int) : Int :=
  smag (decide (m < 0)) (roundAt rm (decide (m < 0)) m.natAbs e false 0).1

/-- A coordinate as read: NaN is 0, the rest clamped to ±lim (R302). -/
def texCoord (c : Nat) (lo hi : Int) : Int × Int :=
  match Fmt.f32.val c with
  | .nan _ => (0, 0)
  | .inf n => (if n then lo else hi, 0)
  | .fin n m e =>
    let v := smag n m
    if (addDy v e (-hi) 0).1 > 0 then (hi, 0) else if (addDy v e (-lo) 0).1 < 0 then (lo, 0) else (v, e)

/-- The taps of bilinear filtering at a level, weights of 2^16 in all. -/
def TexDesc.bilinear (d : TexDesc) (l : Nat) (u v : Int × Int) : List Tap :=
  let pos := fun (c : Int × Int) (n : Nat) =>
    let s := addDy (c.1 * (2 * n : Int) * 256) (c.2 - 1) (-256) (-1)
    dyInt 0 s.1 s.2
  let x := pos u (d.wl l)
  let y := pos v (d.hl l)
  let i := x / 256
  let a := (x % 256).toNat
  let j := y / 256
  let b := (y % 256).toNat
  let tap := fun (ii jj : Int) w =>
    let t := d.texelAt l (texWrap d.au (d.wl l) ii) (texWrap d.av (d.hl l) jj)
    (⟨t.1, t.2, w⟩ : Tap)
  [tap i j ((256 - a) * (256 - b)), tap (i + 1) j (a * (256 - b)), tap i (j + 1) ((256 - a) * b),
   tap (i + 1) (j + 1) (a * b)]

/-- The taps of a sample record u, v, lod, and the shift of the weighted sum (R302). -/
def TexDesc.sample (d : TexDesc) (uc vc lc : Nat) : List Tap × Nat :=
  let u := texCoord uc (-65536) 65536
  let v := texCoord vc (-65536) 65536
  let lod := texCoord lc 0 (d.levels - 1 : Nat)
  match d.filter with
  | 0 =>
    let l := (dyInt 0 lod.1 lod.2).toNat
    let x := dyInt 2 (u.1 * (d.wl l : Int)) u.2
    let y := dyInt 2 (v.1 * (d.hl l : Int)) v.2
    let t := d.texelAt l (texWrap d.au (d.wl l) x) (texWrap d.av (d.hl l) y)
    ([⟨t.1, t.2, 1⟩], 0)
  | 1 => (d.bilinear (dyInt 0 lod.1 lod.2).toNat u v, 16)
  | _ =>
    let l0 := (dyInt 2 lod.1 lod.2).toNat
    let l1 := min (l0 + 1) (d.levels - 1)
    let f := if l0 = d.levels - 1 then 0
      else (let s := addDy (lod.1 * 256) lod.2 (-(l0 * 256 : Nat)) 0; (dyInt 0 s.1 s.2).toNat)
    ((d.bilinear l0 u v).map (fun t => { t with weight := t.weight * (256 - f) }) ++
      (d.bilinear l1 u v).map (fun t => { t with weight := t.weight * f }), 24)

/-- The filtered texel of taps with their texels. -/
def filterTexel (ts : List (Nat × Texel)) (sh : Nat) : Texel :=
  let ch := fun (g : Texel → Nat) =>
    (ts.foldl (fun a p => a + p.1 * g p.2) 0 + (if sh = 0 then 0 else 2 ^ (sh - 1))) / 2 ^ sh
  ⟨ch Texel.r, ch Texel.g, ch Texel.b, ch Texel.a⟩

/-- The texel that a tfetch record names, if it lies in its level (R303). -/
def TexDesc.fetch (d : TexDesc) (x y l : Int) : Option Tap :=
  if 0 ≤ l ∧ l < d.levels ∧ 0 ≤ x ∧ x < d.wl l.toNat ∧ 0 ≤ y ∧ y < d.hl l.toNat then
    let t := d.texelAt l.toNat x.toNat y.toNat
    some ⟨t.1, t.2, 1⟩
  else none

end Sys2Proof.Machine
end

