-- ==== Sys2Proof/Machine/VecElem.lean ====
section
/-!
DEFINITION. Vector arithmetic: elements, validity, extents (R83, R84, R103), the operations of Tables 4-3 to 4-9, the
permutations, reductions and mask instructions (R93 to R96), vmma (R177), and what one element group of an arithmetic
entry does to the vector registers.
-/
namespace Sys2Proof.Machine

/-! ## Registers -/

/-- Bits of a vector register under an ncode (Table 4-1). -/
def regBits (ncode : Nat) : Nat := 65536 / 2 ^ ncode

/-- n of an ncode. -/
def nregs (ncode : Nat) : Nat := 8 * 2 ^ ncode

/-- VLMAX of a type under an ncode (R70). -/
def vlmax (ncode : Nat) (ty : BitVec 4) : Nat := min 8192 (regBits ncode / ebits ty)

/-- Elements per group, 256 ÷ EB. -/
def groupOf (ty : BitVec 4) : Nat := 2048 / ebits ty

/-- Register r. -/
def Vec.reg (v : Vec) (r : Nat) : VReg := v.v.get VReg.start r

/-- Put register r. -/
def Vec.setReg (v : Vec) (r : Nat) (x : VReg) : Vec := { v with v := v.v.ins r x }

/-- Element i of eb bits. -/
def VReg.elem (x : VReg) (eb i : Nat) : Nat := (x.bits.extractLsb' (i * eb) eb).toNat

/-- Whether block b is valid. -/
def VReg.ok (x : VReg) (b : Nat) : Bool := bit x.valid b

/-- The n bytes from byte a of a register. -/
def VReg.bytes (x : VReg) (a n : Nat) : List Byte := (List.range n).map (fun i => x.bits.extractLsb' (8 * (a + i)) 8)

/-- Mask bit i of k. -/
def Vec.mbit (v : Vec) (k i : Nat) : Bool := (v.mask k).getLsbD i

/-- K[kd] with bits replaced; a write to k0 is discarded (R87, R96). -/
def Vec.setMask (v : Vec) (kd : Nat) (ws : List (Nat × Bool)) : Vec :=
  if kd = 0 then v
  else { v with k := v.k.put 0 kd (ws.foldl (fun (a : BitVec 8192) w => setBit a w.1 w.2) (v.k.get 0 kd)) }

/-- A written element: its index, its code, whether what it was made from is valid. -/
structure EW where
  idx : Nat
  val : Nat
  ok : Bool

/-- The new validity bit of block b (R84). -/
def blockOk (ws : List EW) (b : Nat) (old : Bool) : Bool :=
  let mine := ws.filter (fun (w : EW) => decide (w.idx / 32 = b))
  if mine.isEmpty then old
  else if 32 ≤ mine.length then mine.all (fun w => w.ok) else mine.all (fun w => w.ok) && old

/-- Raise E and set dirty for bits written up to `hi` (R103). -/
def VReg.touch (x : VReg) (hi : Nat) : VReg := { x with dirty := true, ext := max x.ext (ceilDiv hi 2048) }

/-- Write elements of eb bits: contents, validity, dirty bit, extent (R83, R84, R103). -/
def VReg.write (x : VReg) (eb : Nat) (ws : List EW) : VReg :=
  if ws.isEmpty then x
  else
    let bits := ws.foldl (fun (a : BitVec 65536) (w : EW) => setFld a (w.idx * eb) eb w.val) x.bits
    let blocks := (ws.map (fun (w : EW) => w.idx / 32)).eraseDups
    let valid := blocks.foldl (fun (a : BitVec 256) b => setBit a b (blockOk ws b (bit x.valid b))) x.valid
    { x with bits := bits, valid := valid }.touch ((ws.foldl (fun a (w : EW) => max a w.idx) 0 + 1) * eb)

/-- Write bytes from byte a, with no change of validity. -/
def VReg.putBytes (x : VReg) (a : Nat) (bs : List Byte) : VReg :=
  if bs.isEmpty then x
  else { x with bits := setFld x.bits (8 * a) (8 * bs.length) (ofBytes bs) }.touch (8 * (a + bs.length))

/-- Write n bits from bit a, with no change of validity. -/
def VReg.putBits (x : VReg) (a n v : Nat) : VReg :=
  if n = 0 then x else { x with bits := setFld x.bits a n v }.touch (a + n)

/-- Write elements of register r. -/
def Vec.write (v : Vec) (r eb : Nat) (ws : List EW) : Vec := v.setReg r ((v.reg r).write eb ws)

/-! ## Operands -/

/-- An element with the validity of its block. -/
def Vec.src (v : Vec) (r eb i : Nat) : Nat × Bool := ((v.reg r).elem eb i, (v.reg r).ok (i / 32))

/-- The scalar operand in a type (Table 4-3). -/
def scalarB (ty : BitVec 4) (x : Word) (f : Half) : Nat :=
  match fmtOf ty with
  | some m => if ty.toNat = 6 then f.toNat else (m.ofVal 0 (Fmt.f32.val f.toNat)).1
  | none => x.toNat % 2 ^ ebits ty

/-- Whether a scalar code clears the validity of what it is written to (R90). -/
def scalarBad (ty : BitVec 4) (c : Nat) : Bool := (narrowOf ty).isSome && invalidating ty c

/-- B(i) (R82): a scalar counts as valid. -/
def VEntry.operB (e : VEntry) (v : Vec) (s : Bool) (r i : Nat) : Nat × Bool :=
  if s then (scalarB e.ty e.x1 e.fv, true) else v.src r (ebits e.ty) i

/-! ## Element operations -/

/-- Table 4-4. -/
def IntOp.eval (f : IntOp) (n a b d : Nat) : Nat :=
  let sh := b % n
  match f with
  | .add => (a + b) % 2 ^ n
  | .sub => ofInt n ((a : Int) - b)
  | .mul => a * b % 2 ^ n
  | .mulh => ofInt n (toInt n a * toInt n b / ((2 ^ n : Nat) : Int))
  | .mulhu => a * b / 2 ^ n
  | .macc => (d + a * b) % 2 ^ n
  | .and => a &&& b
  | .or => a ||| b
  | .xor => a ^^^ b
  | .sll => a * 2 ^ sh % 2 ^ n
  | .srl => a / 2 ^ sh
  | .sra => ofInt n (toInt n a / ((2 ^ sh : Nat) : Int))
  | .min => if toInt n b < toInt n a then b else a
  | .minu => Nat.min a b
  | .max => if toInt n a < toInt n b then b else a
  | .maxu => Nat.max a b

/-- Tables 4-5 and R89. -/
def CmpOp.eval (f : CmpOp) (ty : BitVec 4) (a b : Nat) : Bool :=
  let n := ebits ty
  let m := (fmtOf ty).getD .f32
  match f with
  | .seq => decide (a = b)
  | .sne => decide (a ≠ b)
  | .slt => decide (toInt n a < toInt n b)
  | .sltu => decide (a < b)
  | .sle => decide (toInt n a ≤ toInt n b)
  | .sleu => decide (a ≤ b)
  | .feq => (m.feq a b).1
  | .flt => (m.flt a b).1
  | .fle => (m.fle a b).1

/-- Table 4-6. -/
def FpOp.eval (f : FpOp) (m : Fmt) (rm a b d : Nat) : Nat :=
  match f with
  | .add => (m.add rm a b).1
  | .sub => (m.sub rm a b).1
  | .mul => (m.mul rm a b).1
  | .div => (m.div rm a b).1
  | .sqrt => (m.sqrt rm a).1
  | .macc => (m.fma rm false false a b d).1
  | .nmacc => (m.fma rm true true a b d).1
  | .msac => (m.fma rm false true a b d).1
  | .min => (m.minmax false a b).1
  | .max => (m.minmax true a b).1
  | .sgnj => m.withSign a (decide (m.sign ≤ b))
  | .class => m.fclass a

/-- Whether an operation adds vd. -/
def IntOp.acc (f : IntOp) : Bool := decide (f = .macc)
/-- Whether an operation adds vd. -/
def FpOp.acc (f : FpOp) : Bool := decide (f = .macc) || decide (f = .nmacc) || decide (f = .msac)
/-- Whether an operation reads B(i). -/
def FpOp.two (f : FpOp) : Bool := decide (f ≠ .sqrt) && decide (f ≠ .class)

/-! ## Reductions (R94, R95) -/

/-- Combine two values. -/
def RedOp.comb (f : RedOp) (ty : BitVec 4) (rm a b : Nat) : Nat :=
  let n := ebits ty
  let m := (fmtOf ty).getD .f32
  match f with
  | .sum => (a + b) % 2 ^ n
  | .osum => (a + b) % 2 ^ n
  | .min => if toInt n b < toInt n a then b else a
  | .max => if toInt n a < toInt n b then b else a
  | .fsum => (m.add rm a b).1
  | .fosum => (m.add rm a b).1
  | .fmin => (m.minmax false a b).1
  | .fmax => (m.minmax true a b).1

/-- One level of the tree: positions 2j and 2j+1 are joined. -/
def treeLevel (c : Nat → Nat → Nat) : List (Option Nat) → List (Option Nat)
  | [] => []
  | [a] => [a]
  | a :: b :: r =>
    (match a, b with
      | some x, some y => some (c x y)
      | some x, none => some x
      | none, y => y) :: treeLevel c r

/-- The root after at most n levels. -/
def treeRoot (c : Nat → Nat → Nat) : Nat → List (Option Nat) → Option Nat
  | 0, l => (l.head?).join
  | n + 1, l => if l.length ≤ 1 then (l.head?).join else treeRoot c n (treeLevel c l)

/-- The result of a reduction over leaves, empty where inactive. -/
def RedOp.run (f : RedOp) (ty : BitVec 4) (rm init : Nat) (leaves : List (Option Nat)) : Nat :=
  let c := f.comb ty rm
  match f with
  | .osum => leaves.foldl (fun a x => match x with | some y => c a y | none => a) init
  | .fosum => leaves.foldl (fun a x => match x with | some y => c a y | none => a) init
  | _ => match treeRoot c 14 leaves with
    | none => init
    | some y => c init y

/-! ## vmma (R177) -/

/-- The codes of row r of A, of column c of B, as values; true where one is invalidating. -/
def codesOf (ty : BitVec 4) (x : VReg) (i0 : Nat) : List (FVal × Bool) :=
  (List.range 32).map (fun k => let (v, b) := elemVal ty (x.elem (ebits ty) (i0 + k)); (v, b && (narrowOf ty).isSome))

/-- The exact sum of products of finite values; none where an infinity or a NaN takes part. -/
def dotExact (a b : List FVal) : Option (Int × Int) :=
  (a.zip b).foldl (fun s p =>
    match s, p.1, p.2 with
    | some (m, e), .fin n1 m1 e1, .fin n2 m2 e2 => some (addDy m e (smag n1 m1 * smag n2 m2) (e1 + e2))
    | _, _, _ => none) (some (0, 0))

/-- Whether every product is −0. -/
def dotNegZero (a b : List FVal) : Bool :=
  (a.zip b).all (fun p =>
    match p.1, p.2 with
    | .fin n1 m1 _, .fin n2 m2 _ => decide (m1 * m2 = 0) && (n1 != n2)
    | _, _ => false)

/-- The sum of products over infinities: the IEEE result on values, none where undefined. -/
def dotInf (a b : List FVal) : Option FVal :=
  (a.zip b).foldl (fun s p =>
    match s, mulV p.1 p.2 with
    | some (.inf x), some (.inf y) => if x = y then some (.inf x) else none
    | some (.inf x), some (.fin _ _ _) => some (.inf x)
    | some (.fin _ _ _), some (.inf y) => some (.inf y)
    | some (.fin n m e), some (.fin _ _ _) => some (.fin n m e)
    | _, _ => none) (some (.fin false 0 0))

/-- S of R177 as a value with its sign; none where undefined. -/
def dotVal (a b : List FVal) : Option FVal :=
  match dotExact a b with
  | some (m, e) => some (.fin (if m = 0 then dotNegZero a b else decide (m < 0)) m.natAbs e)
  | none => dotInf a b

/-- acc + sa · sb · S, rounded once by RNE; none where undefined (R177). -/
def mmaElem (acc sa sb : Nat) (s : Option FVal) : Option Nat :=
  match s with
  | none => none
  | some sv =>
    match (mulV (Fmt.f32.val sa) (Fmt.f32.val sb)).bind (fun p => mulV p sv) with
    | none => none
    | some t =>
      let r := (Fmt.f32.addV 0 (Fmt.f32.val acc) t).1
      if (Fmt.f32.val r).isNan then none else some r

/-- Element types of A and of B. -/
def MmaOp.types (f : MmaOp) : BitVec 4 × BitVec 4 :=
  match f with
  | .e4e4 => (8, 8)
  | .e5e4 => (9, 8)
  | .bf16 => (5, 5)
  | .e4q => (8, 11)

/-- Column c of B. -/
def MmaOp.colB (f : MmaOp) (x : VReg) (c : Nat) : List (FVal × Bool) :=
  match f with
  | .e4q => ((List.range 4).flatMap (fun u => l8qHalves (x.elem 16 (4 * c + u)))).map (fun y => (halfVal y, false))
  | _ => codesOf f.types.2 x (32 * c)

/-- vmma on registers (R176, R177). -/
def MmaOp.run (f : MmaOp) (v : Vec) (vd v1 v2 : Nat) (scales : List Half) : Vec :=
  let d := v.reg vd
  let x1 := v.reg v1
  let x2 := v.reg v2
  let rows := (List.range 8).map (fun r => codesOf f.types.1 x1 (32 * r))
  let cols := (List.range 8).map (fun c => f.colB x2 c)
  let sc := fun i => (scales.getD i 0).toNat
  let out := (rows.zipIdx).flatMap (fun (a, r) => (cols.zipIdx).map (fun (b, c) =>
    let bad := a.any (fun p => p.2) || b.any (fun p => p.2)
    let acc := d.elem 32 (8 * r + c)
    let nanIn := (Fmt.f32.val acc).isNan || (Fmt.f32.val (sc r)).isNan || (Fmt.f32.val (sc (8 + c))).isNan ||
      a.any (fun p => p.1.isNan) || b.any (fun p => p.1.isNan)
    let res := if bad then none else mmaElem acc (sc r) (sc (8 + c)) (dotVal (a.map (·.1)) (b.map (·.1)))
    (8 * r + c, res.getD 0x7FC00000, !(bad || nanIn))))
  let nb := if f = .e4q then 1 else 8
  let bOk := (List.range nb).all x2.ok
  let half := fun h => d.ok h && ((List.range 4).all (fun i => x1.ok (4 * h + i))) && bOk &&
    ((out.filter (fun (o : Nat × Nat × Bool) => decide (o.1 / 32 = h))).all (fun o => o.2.2))
  let d' := d.write 32 (out.map (fun o => ⟨o.1, o.2.1, true⟩))
  v.setReg vd { d' with valid := setBit (setBit d'.valid 0 (half 0)) 1 (half 1) }

/-! ## The ray, query, raster and texture-block instructions on registers -/

/-- The 32 words of slot j. -/
def VReg.slot (x : VReg) (j : Nat) : List Nat := (List.range 32).map (fun i => x.elem 32 (32 * j + i))

/-- One slot of a slot instruction (R286): the writes and the validity of its sources. -/
def RayOp.slot (f : RayOp) (v : Vec) (vd v1 v2 : Nat) (x2 : Nat) (j : Nat) : List (Nat × Nat) × Bool :=
  let d := (v.reg vd).slot j
  let a := (v.reg v1).slot j
  let okD := (v.reg vd).ok j
  let okA := (v.reg v1).ok j
  match f with
  | .rbox => (Sys2Proof.Machine.rbox d a x2, okD && okA)
  | .rtri => (Sys2Proof.Machine.rtri d a x2, okD && okA)
  | .rcand => (Sys2Proof.Machine.rcand a ((v.reg v2).slot j), okA && (v.reg v2).ok j)
  | .racc => (Sys2Proof.Machine.racc a, okA)
  | .rrej => (Sys2Proof.Machine.rrej a, okA)
  | .qsph => (Sys2Proof.Machine.qsph d a x2, okD && okA)
  | .qknn => (Sys2Proof.Machine.qknn d a x2, okD && okA)
  | .qkey => (Sys2Proof.Machine.qkey d a x2, okD && okA)
  | _ => ([], true)

/-- The slots of a group. -/
def RayOp.slots (f : RayOp) (v : Vec) (vd v1 v2 x2 : Nat) (js : List Nat) : Vec :=
  js.foldl (fun v j =>
    let (ws, ok) := f.slot v vd v1 v2 x2 j
    let d := (v.reg vd).write 32 (ws.map (fun w => ⟨32 * j + w.1, w.2, true⟩))
    if ws.isEmpty then v else v.setReg vd { d with valid := setBit d.valid j ok }) v

/-- vedge on registers (R297). -/
def vedgeRun (v : Vec) (vd v1 x2 : Nat) : Vec :=
  let x := v.reg v1
  let (mask, es) := vedge (x.bits.extractLsb' 0 384).toNat x2
  let ok := x.ok 0
  let d := v.reg vd
  let okOld := d.ok 0
  let d := d.putBytes 0 (bytesOf 8 mask)
  let d := d.putBytes 256 (es.flatMap (fun e =>
    let hi : Int := 2 ^ 63 - 1
    bytesOf 8 (ofInt 64 (if hi < e then hi else if e < -hi - 1 then -hi - 1 else e))))
  let valid := (List.range 6).foldl (fun (a : BitVec 256) b => setBit a (b + 1) ok) (setBit d.valid 0 (ok && okOld))
  v.setReg vd { d with valid := valid }

/-- One element of tdecode (R304): texel i mod 16 of block i div 16. -/
def tdecodeElem (x : VReg) (fmt i : Nat) : EW :=
  let bb := texBytes fmt
  let a := bb * (i / 16)
  { idx := i, val := (texDecode fmt (ofBytes (x.bytes a bb)) (i % 16)).pack,
    ok := x.ok (a / 128) && x.ok ((a + bb - 1) / 128) }

/-! ## What an entry reads and writes (R79) -/

/-- Bits of a register, a mask or a leeway register: 0 to 31 the v registers, 64 to 71 the masks, 80 to 83 the leeway
registers; 128 more for the validity blocks of each. -/
abbrev Span := Nat × Nat × Nat

/-- Whether spans meet. -/
def spansMeet (a b : List Span) : Bool :=
  a.any (fun x => b.any (fun y => decide (x.1 = y.1) && decide (x.2.1 < y.2.2) && decide (y.2.1 < x.2.2)))

/-- All of a register: its contents and its validity. -/
def whole (r : Nat) : List Span := [(r, 0, 65536), (r + 128, 0, 256)]

/-- Elements lo to hi of a register: their bits, and the validity blocks that they fall in. -/
def part (r eb lo hi : Nat) : List Span := [(r, lo * eb, hi * eb), (r + 128, lo / 32, ceilDiv hi 32)]

/-- Mask bits lo to hi; k0 is never written. -/
def kpart (k lo hi : Nat) : List Span := if k = 0 then [] else [(64 + k, lo, hi)]

/-- What elements lo to hi of the entry read. -/
def VEntry.reads (e : VEntry) (lo hi : Nat) : List Span :=
  let eb := ebits e.ty
  let opt := fun (s : Bool) r => if s then [] else part r eb lo hi
  match e.op with
  | .int f s vd v2 v1 k => part v2 eb lo hi ++ (opt s v1 ++ kpart k lo hi ++ (if f.acc then part vd eb lo hi else []))
  | .cmp _ s _ v2 v1 k => part v2 eb lo hi ++ (opt s v1 ++ kpart k lo hi)
  | .fp f s vd v2 v1 k =>
    part v2 eb lo hi ++
      ((if f.two then opt s v1 else []) ++ kpart k lo hi ++ (if f.acc then part vd eb lo hi else []))
  | .mv s _ v1 k => opt s v1 ++ kpart k lo hi
  | .mvxs _ v2 => whole v2
  | .merge s _ v2 v1 k => part v2 eb lo hi ++ (opt s v1 ++ kpart k lo hi)
  | .slideup _ v2 k => whole v2 ++ kpart k lo hi
  | .slidedn _ v2 k => whole v2 ++ kpart k lo hi
  | .perm _ v2 v1 k => whole v2 ++ part v1 eb lo hi ++ kpart k lo hi
  | .compress _ v2 k => whole v2 ++ kpart k 0 8192
  | .vid _ k => kpart k lo hi
  | .viota _ k => kpart k 0 8192
  | .red _ vd v2 v1 k => whole v2 ++ part v1 eb 0 32 ++ part vd eb 0 1 ++ kpart k 0 8192
  | .mask _ _ k2 k1 => kpart k2 0 8192 ++ kpart k1 0 8192
  | .kpopc _ k2 => kpart k2 0 8192
  | .kfirst _ k2 => kpart k2 0 8192
  | .kmv _ k2 => kpart k2 0 8192
  | .bvrd _ v2 _ => whole v2
  | .bvwr _ _ => []
  | .cvt _ v2 _ k => part v2 eb lo hi ++ kpart k lo hi
  | .ld a _ _ v2 k => (if a = .index then part v2 eb lo hi else []) ++ kpart k lo hi
  | .st a _ vs v2 k => part vs eb lo hi ++ ((if a = .index then part v2 eb lo hi else []) ++ kpart k lo hi)
  | .pref _ => []
  | .ldfe _ k => kpart k lo hi
  | .stfe vs k => part vs eb lo hi ++ kpart k lo hi
  | .qld _ _ => []
  | .qst vs _ ly => part vs eb lo hi ++ whole (80 + ly)
  | .amo _ vs v2 k => part vs eb lo hi ++ part v2 eb lo hi ++ kpart k lo hi
  | .send vs => part vs eb lo hi
  | .recv _ => []
  | .lysave _ ly => whole (80 + ly)
  | .lyload _ vs => whole vs
  | .fence _ => []
  | .mma _ vd v1 v2 => whole vd ++ whole v1 ++ whole v2
  | .ray f vd v1 v2 =>
    match f with
    | .rcand => part v1 32 lo hi ++ part v2 32 lo hi
    | .vedge => whole v1 ++ whole vd
    | .tsamp => part v1 32 (4 * lo) (4 * hi)
    | .tfetch => part v1 32 (4 * lo) (4 * hi)
    | .tdecode => whole v1
    | _ => part vd 32 lo hi ++ part v1 32 lo hi

/-- What elements lo to hi of the entry write. -/
def VEntry.writes (e : VEntry) (lo hi : Nat) : List Span :=
  let eb := ebits e.ty
  match e.op with
  | .int _ _ vd _ _ _ => part vd eb lo hi
  | .cmp _ _ kd _ _ _ => kpart kd lo hi
  | .fp _ _ vd _ _ _ => part vd eb lo hi
  | .mv _ vd _ _ => part vd eb lo hi
  | .mvxs _ _ => []
  | .merge _ vd _ _ _ => part vd eb lo hi
  | .slideup vd _ _ => part vd eb lo hi
  | .slidedn vd _ _ => part vd eb lo hi
  | .perm vd _ _ _ => part vd eb lo hi
  | .compress vd _ _ => part vd eb 0 hi
  | .vid vd _ => part vd eb lo hi
  | .viota vd _ => part vd eb lo hi
  | .red _ vd _ _ _ => part vd eb 0 32
  | .mask _ kd _ _ => kpart kd lo hi
  | .kpopc _ _ => []
  | .kfirst _ _ => []
  | .kmv kd _ => kpart kd lo hi
  | .bvrd _ _ _ => []
  | .bvwr vd _ => whole vd
  | .cvt vd _ ty _ => part vd (ebits ty) lo hi
  | .ld _ _ vd _ _ => part vd eb lo hi
  | .st _ _ _ _ _ => []
  | .pref _ => []
  | .ldfe vd _ => part vd eb lo hi
  | .stfe _ _ => []
  | .qld vd _ => part vd eb lo hi
  | .qst _ _ ly => whole (80 + ly)
  | .amo _ _ _ _ => []
  | .send _ => []
  | .recv vd => part vd eb lo hi
  | .lysave vd _ => whole vd
  | .lyload ly _ => whole (80 + ly)
  | .fence _ => []
  | .mma _ vd _ _ => whole vd
  | .ray f vd _ _ =>
    match f with
    | .vedge => whole vd
    | _ => part vd 32 lo hi

/-- The leeway register an entry names (R165). -/
def VOp.names (o : VOp) (ly : Nat) : Bool :=
  match o with
  | .qst _ _ l => decide (l = ly)
  | .lysave _ l => decide (l = ly)
  | .lyload l _ => decide (l = ly)
  | _ => false

/-- The x register an entry returns its result in (R91). -/
def VOp.xdest (o : VOp) : Option Nat :=
  match o with
  | .mvxs xd _ => some xd
  | .kpopc xd _ => some xd
  | .kfirst xd _ => some xd
  | .bvrd xd _ _ => some xd
  | _ => none

/-- Elements per group of an entry: those of the type in force, of the destination type for vcvt (R98). -/
def VEntry.gsize (e : VEntry) : Nat :=
  match e.op with
  | .cvt _ _ ty _ => groupOf ty
  | .ray _ _ _ _ => 64
  | _ => groupOf e.ty

/-- Whether the entry forms one group whatever VL is: the validity words, which ignore VL (R171), leeway moves, fences,
vmma, vedge. -/
def VEntry.single (e : VEntry) : Bool :=
  match e.op with
  | .bvrd _ _ _ => true
  | .bvwr _ _ => true
  | .lysave _ _ => true
  | .lyload _ _ => true
  | .fence _ => true
  | .mma _ _ _ _ => true
  | .ray .vedge _ _ _ => true
  | _ => false

/-- Whether the entry returns an x register that it makes of source groups (R91, R98): it has a group even where VL is 0, to
return one (R96). -/
def VEntry.scalarDest (e : VEntry) : Bool :=
  match e.op with
  | .mvxs _ _ => true
  | .kpopc _ _ => true
  | .kfirst _ _ => true
  | _ => false

/-- Whether the entry's effect comes with its last group, when it has taken every group of its source (R79, R98): it reads
across groups and leaves one result. -/
def VEntry.atOnce (e : VEntry) : Bool :=
  match e.op with
  | .red _ _ _ _ _ => true
  | .compress _ _ _ => true
  | _ => e.single || e.scalarDest

/-- Whether the entry sends or takes a message of a stream, one of no elements where VL is 0 (R221). -/
def VEntry.streams (e : VEntry) : Bool :=
  match e.op with
  | .send _ => true
  | .recv _ => true
  | _ => false

/-- The number of groups (R98). -/
def VEntry.groups (e : VEntry) : Nat :=
  if e.single then 1 else if e.scalarDest || e.streams then max 1 (ceilDiv e.vl e.gsize) else ceilDiv e.vl e.gsize

/-- The elements of group g: from, up to. -/
def VEntry.range (e : VEntry) (g : Nat) : Nat × Nat :=
  if e.atOnce then (0, 8192) else (g * e.gsize, min ((g + 1) * e.gsize) e.vl)

/-- The elements from group g on. -/
def VEntry.rest (e : VEntry) (g : Nat) : Nat × Nat := if e.atOnce then (0, 8192) else (g * e.gsize, e.vl)

/-- The earliest group that has not landed (R79). -/
def VEntry.landed (e : VEntry) : Nat := (e.pend.map Acc.group ++ e.got.map Got.group).foldl min e.next

/-! ## One group of an arithmetic entry -/

/-- The active elements of a group (R107). -/
def VEntry.actives (e : VEntry) (v : Vec) (k g : Nat) : List Nat :=
  let (lo, hi) := e.range g
  ((List.range (hi - lo)).map (· + lo)).filter (fun i => decide (i < e.vl) && v.mbit k i)

/-- All elements of a group below VL. -/
def VEntry.elems (e : VEntry) (g : Nat) : List Nat :=
  let (lo, hi) := e.range g
  ((List.range (hi - lo)).map (· + lo)).filter (fun i => decide (i < e.vl))

/-- Number of set bits of k below i. -/
def Vec.maskCount (v : Vec) (k i : Nat) : Nat := ((List.range i).filter (v.mbit k)).length

/-- The effect of group g on the vector registers, and the x result (R86 to R97, R168, R169, R171, R177, R286, R297,
R304). An entry whose effect comes with its last group has none before it. Loads, stores, fences and streams are not of this
function. The ray and texture forms have no mask field (R43): active(i) of R286 and of the rules after it is taken as every slot
and element below VL, the model's choice (log 73). -/
def VEntry.run (e : VEntry) (v : Vec) (g : Nat) : Vec × Option Word :=
  let eb := ebits e.ty
  let m := (fmtOf e.ty).getD .f32
  let rm := e.frm.toNat
  let keep := fun (w : Vec) => (w, (none : Option Word))
  if e.atOnce && decide (g + 1 < e.groups) then (v, none)
  else match e.op with
  | .int f s vd v2 v1 k =>
    keep (v.write vd eb ((e.actives v k g).map (fun i =>
      let a := v.src v2 eb i
      let b := e.operB v s v1 i
      let d := v.src vd eb i
      ⟨i, f.eval eb a.1 b.1 d.1, a.2 && b.2 && (!f.acc || d.2)⟩)))
  | .cmp f s kd v2 v1 k =>
    keep (v.setMask kd ((e.actives v k g).map (fun i =>
      let a := v.src v2 eb i
      let b := e.operB v s v1 i
      (i, f.eval e.ty a.1 b.1 && a.2 && b.2))))
  | .fp f s vd v2 v1 k =>
    keep (v.write vd eb ((e.actives v k g).map (fun i =>
      let a := v.src v2 eb i
      let b := if f.two then e.operB v s v1 i else (0, true)
      let d := v.src vd eb i
      ⟨i, f.eval m rm a.1 b.1 d.1, a.2 && b.2 && (!f.acc || d.2)⟩)))
  | .mv s vd v1 k =>
    keep (v.write vd eb ((e.actives v k g).map (fun i =>
      let b := e.operB v s v1 i
      ⟨i, b.1, b.2 && !(s && scalarBad e.ty b.1)⟩)))
  | .mvxs _ v2 =>
    let c := (v.reg v2).elem eb 0
    (v, some (if isIntTy e.ty then sx eb c else Sys2Proof.Machine.word c))
  | .merge s vd v2 v1 k =>
    keep (v.write vd eb ((e.elems g).map (fun i =>
      if v.mbit k i then
        let b := e.operB v s v1 i
        ⟨i, b.1, b.2 && !(s && scalarBad e.ty b.1)⟩
      else let a := v.src v2 eb i; ⟨i, a.1, a.2⟩)))
  | .slideup vd v2 k =>
    keep (v.write vd eb (((e.actives v k g).filter (fun i => decide (e.x1.toNat ≤ i))).map (fun i =>
      let a := v.src v2 eb (i - e.x1.toNat)
      ⟨i, a.1, a.2⟩)))
  | .slidedn vd v2 k =>
    keep (v.write vd eb ((e.actives v k g).map (fun i =>
      if i + e.x1.toNat < vlmax e.ncode e.ty then (let a := v.src v2 eb (i + e.x1.toNat); ⟨i, a.1, a.2⟩)
      else ⟨i, 0, true⟩)))
  | .perm vd v2 v1 k =>
    keep (v.write vd eb ((e.actives v k g).map (fun i =>
      let j := v.src v1 eb i
      if j.1 < vlmax e.ncode e.ty then (let a := v.src v2 eb j.1; ⟨i, a.1, a.2 && j.2⟩) else ⟨i, 0, j.2⟩)))
  | .compress vd v2 k =>
    keep (v.write vd eb (((e.elems g).filter (v.mbit k)).zipIdx.map (fun (i, n) =>
      let a := v.src v2 eb i
      ⟨n, a.1, a.2⟩)))
  | .vid vd k => keep (v.write vd eb ((e.actives v k g).map (fun i => ⟨i, valueOf e.ty i, true⟩)))
  | .viota vd k =>
    keep (v.write vd eb ((e.elems g).map (fun i => ⟨i, valueOf e.ty (v.maskCount k i), true⟩)))
  | .red f vd v2 v1 k =>
    let act := e.actives v k g
    let init := v.src v1 eb 0
    let leaves := (List.range e.vl).map (fun i => if v.mbit k i then some ((v.reg v2).elem eb i) else none)
    let ok := init.2 && act.all (fun i => (v.reg v2).ok (i / 32))
    let d := (v.reg vd).write eb [⟨0, f.run e.ty rm init.1 leaves, ok⟩]
    keep (v.setReg vd { d with valid := setBit d.valid 0 ok })
  | .mask f kd k2 k1 =>
    keep (v.setMask kd ((e.elems g).map (fun i =>
      let a := v.mbit k2 i
      let b := v.mbit k1 i
      (i, match f with | .and => a && b | .or => a || b | .xor => a != b))))
  | .kpopc _ k2 => (v, some (Sys2Proof.Machine.word (v.maskCount k2 e.vl)))
  | .kfirst _ k2 =>
    (v, some (match (List.range e.vl).find? (v.mbit k2) with | some i => Sys2Proof.Machine.word i | none => BitVec.allOnes 64))
  | .kmv kd k2 => keep (v.setMask kd ((e.elems g).map (fun i => (i, v.mbit k2 i))))
  | .bvrd _ v2 w => (v, some ((v.reg v2).valid.extractLsb' (64 * w) 64))
  | .bvwr vd w =>
    let d := v.reg vd
    keep (v.setReg vd { d with valid := setFld d.valid (64 * w) 64 e.x1.toNat, dirty := true })
  | .cvt vd v2 ty k =>
    let cs := (e.actives v k g).map (fun i =>
      let a := v.src v2 eb i
      let c := convert e.ty ty rm a.1
      (⟨i, c.1, a.2 && !c.2⟩ : EW))
    keep (v.write vd (ebits ty) cs)
  | .lysave vd ly =>
    let r := (v.ly.get Leeway.start ly).res
    let d := (v.reg vd).putBytes 0 ((List.range 256).flatMap (fun j => bytesOf 4 (r.get 0 j).toNat))
    keep (v.setReg vd { d with valid := d.valid ||| 0xFF })
  | .lyload ly vs =>
    let x := v.reg vs
    let res := (List.range 256).foldl (fun (t : Tab Half) j =>
      let c := x.elem 32 j
      t.put 0 j (if x.ok (j / 32) && (Fmt.f32.val c).finite then BitVec.ofNat 32 c else 0)) []
    keep { v with ly := v.ly.ins ly { v.ly.get Leeway.start ly with res := res } }
  | .mma f vd v1 v2 => keep (f.run v vd v1 v2 e.scales)
  | .ray f vd v1 v2 =>
    match f with
    | .vedge => keep (vedgeRun v vd v1 e.x2.toNat)
    | .tdecode =>
      keep (v.write vd 32 ((e.elems g).map (fun i => tdecodeElem (v.reg v1) (fld e.x2 0 3) i)))
    | _ => keep (f.slots v vd v1 v2 e.x2.toNat (((e.elems g).map (· / 32)).eraseDups))
  | _ => keep v

end Sys2Proof.Machine
end

