-- ==== Sys2Proof/Machine/VecWords.lean ====
section
/-!
DEFINITION. What a queued instruction is from its word (Tables 2-5 to 2-7), and the instructions that a resume state holds
(R99 to R101).
-/
namespace Sys2Proof.Machine

/-! ## From the word of a resume record to the operation (Tables 2-5 to 2-7) -/

/-- Integer operations by code. -/
def intOps : List IntOp :=
  [.add, .sub, .mul, .mulh, .mulhu, .macc, .and, .or, .xor, .sll, .srl, .sra, .min, .minu, .max, .maxu]

/-- Compares by code from 16, and from 34. -/
def cmpOps : List CmpOp := [.seq, .sne, .slt, .sltu, .sle, .sleu, .feq, .flt, .fle]

/-- Floating-point operations by code from 22. -/
def fpOps : List FpOp := [.add, .sub, .mul, .div, .sqrt, .macc, .nmacc, .msac, .min, .max, .sgnj, .class]

/-- Reductions by code from 46. -/
def redOps : List RedOp := [.sum, .osum, .min, .max, .fsum, .fosum, .fmin, .fmax]

/-- The custom-1 operation of a word (Table 2-5). -/
def VOp.ofCustom1 (w : BitVec 32) : Option (VQueue × VOp) :=
  let c := fld w 26 6
  let s := bit w 25
  let b := fld w 20 5
  let a := fld w 15 5
  let k := fld w 12 3
  let d := fld w 7 5
  let vaq := fun (o : VOp) => some (VQueue.vaq, o)
  if c < 16 then vaq (.int (intOps.getD c .add) s d b a k)
  else if c < 22 then vaq (.cmp (cmpOps.getD (c - 16) .seq) s d b a k)
  else if c < 34 then vaq (.fp (fpOps.getD (c - 22) .add) s d b a k)
  else if c < 37 then vaq (.cmp (cmpOps.getD (c - 28) .feq) s d b a k)
  else match c with
  | 37 => vaq (.mv s d a k)
  | 38 => vaq (.mvxs d b)
  | 39 => vaq (.merge s d b a k)
  | 40 => vaq (.slideup d b k)
  | 41 => vaq (.slidedn d b k)
  | 42 => vaq (.perm d b a k)
  | 43 => vaq (.compress d b k)
  | 44 => vaq (.vid d k)
  | 45 => vaq (.viota d k)
  | 54 => vaq (.mask .and d b a)
  | 55 => vaq (.mask .or d b a)
  | 56 => vaq (.mask .xor d b a)
  | 57 => vaq (.kpopc d b)
  | 58 => vaq (.kfirst d b)
  | 59 => vaq (.kmv d b)
  | 60 => vaq (.bvrd d b (a % 4))
  | 61 => vaq (.bvwr d (b % 4))
  | 62 => vaq (.cvt d b (BitVec.ofNat 4 a) k)
  | _ => if c < 54 then vaq (.red (redOps.getD (c - 46) .sum) d b a k) else none

/-- The custom-2 operation of a word (Table 2-6). -/
def VOp.ofCustom2 (w : BitVec 32) : Option (VQueue × VOp) :=
  let nt := bit w 25
  let b := fld w 20 5
  let k := fld w 12 3
  let d := fld w 7 5
  match fld w 26 6 with
  | 0 => some (.vlq, .ld .unit nt d 0 k)
  | 1 => some (.vsq, .st .unit nt d 0 k)
  | 2 => some (.vlq, .ld .stride nt d 0 k)
  | 3 => some (.vsq, .st .stride nt d 0 k)
  | 4 => some (.vlq, .ld .index nt d b k)
  | 5 => some (.vsq, .st .index nt d b k)
  | 6 => some (.vlq, .pref nt)
  | 7 => some (.vlq, .ldfe d k)
  | 8 => some (.vsq, .stfe d k)
  | 9 => some (.vlq, .qld d (b % 16))
  | 10 => some (.vsq, .qst d (b % 16) (fld w 24 2))
  | 11 => some (.vsq, .amo .add d b k)
  | 12 => some (.vsq, .amo .min d b k)
  | 13 => some (.vsq, .amo .max d b k)
  | 14 => some (.vsq, .send d)
  | 15 => some (.vlq, .recv d)
  | _ => none

/-- The custom-3 operation of a word that goes to a vector queue (Table 2-7). -/
def VOp.ofCustom3 (w : BitVec 32) : Option (VQueue × VOp) :=
  let b := fld w 20 5
  let a := fld w 15 5
  let d := fld w 7 5
  let ray := fun (f : RayOp) => some (VQueue.vaq, VOp.ray f d a b)
  match fld w 12 3 with
  | 0 => some (.vaq, .mma ([MmaOp.e4e4, .e5e4, .bf16, .e4q].getD (fld w 25 2) .e4e4) d a b)
  | 2 =>
    (match fld w 25 7 with
      | 0 => ray .rbox
      | 1 => ray .rtri
      | 2 => ray .rcand
      | 3 => ray .racc
      | 4 => ray .rrej
      | 5 => ray .qsph
      | 6 => ray .qknn
      | 7 => ray .qkey
      | _ => none)
  | 3 =>
    (match fld w 25 7 with
      | 0 => ray .vedge
      | 1 => some (.vlq, .ray .tsamp d a b)
      | 2 => some (.vlq, .ray .tfetch d a b)
      | 3 => ray .tdecode
      | _ => none)
  | _ => none

/-- The operation that a queued word stands for, and its queue (Table 1-9). -/
def VOp.ofWord (w : BitVec 32) : Option (VQueue × VOp) :=
  match fld w 0 7 with
  | 0x2B => VOp.ofCustom1 w
  | 0x5B => VOp.ofCustom2 w
  | 0x7B => VOp.ofCustom3 w
  | 0x0B =>
    if fld w 12 3 = 1 ∧ fld w 25 7 = 5 then some (.vaq, .lysave (fld w 7 5) (fld w 20 2))
    else if fld w 12 3 = 1 ∧ fld w 25 7 = 6 then some (.vaq, .lyload (fld w 7 2) (fld w 15 5))
    else if fld w 12 3 = 4 ∧ fld w 28 4 = 2 then some (.vlq, .fence (decide (fld w 25 3 = 5)))
    else none
  | _ => none

/-! ## The instructions of a resume state (R99 to R101) -/

/-- The entry of a resume record that is queued from place `entered` on. -/
def Resume.entry (r : Resume) (seq entered slip : Nat) : Option VEntry :=
  (VOp.ofWord r.word).map (fun (q, op) =>
    let e : VEntry :=
      { seq := seq, pos := r.pos, entered := entered, q := q, op := op, word := r.word, x1 := r.x1, x2 := r.x2, fv := r.fv,
        scales := r.scales, vl := r.vl, ty := r.ty, frm := r.frm, ncode := r.ncode, slip := slip, next := 0, pend := [], got := [],
        seen := [], res := none, since := none, probed := none }
    { e with next := r.index / e.gsize })

/-- The vector instructions before a place in program order that the resume state holds. -/
def Vec.heldBefore (v : Vec) (pos : Nat) : List VEntry :=
  (v.resume.filter (fun r => decide (r.pos < pos))).filterMap (fun r => r.entry 0 r.pos v.slip)

/-- The vector instructions before a place in program order that are not complete: those queued, and those of the resume
state held (R195, R208, R215, R220). -/
def Vec.before (v : Vec) (pos : Nat) : List VEntry := v.heldBefore pos ++ v.queue.filter (fun e => decide (e.pos < pos))

end Sys2Proof.Machine
end

