-- ==== Sys2Proof/Machine/VecMem.lean ====
section
/-!
DEFINITION. Vector memory: the checks of Table 5-3, element addresses (R106), what a group of a load, store, atomic,
quantised or full/empty access does when it begins (R107 to R113, R158 to R164, R202, R301 to R303), and the performing
of one begun access (R115 to R117).
-/
namespace Sys2Proof.Machine

/-! ## The store buffer and loads in flight -/

/-- The bytes of memory under the hart's own stores older than a place in program order (R121). -/
def Hart.overlayByte (t : Hart) (s : State) (pos a : Nat) : Byte :=
  t.stores.foldl (fun b x =>
    if x.pos < pos ∧ x.pa ≤ a ∧ a < x.pa + x.width then BitVec.ofNat 8 (x.val.toNat / 2 ^ (8 * (a - x.pa))) else b)
    (s.byte a)

/-- The number that n bytes stand for under the hart's own older stores. -/
def State.overlay (s : State) (h pos a n : Nat) : Nat :=
  ofBytes ((List.range n).map (fun i => (s.hart h).overlayByte s pos (a + i)))

/-- Whether the youngest own store that overlaps n bytes covers them all. -/
def Hart.forwards (t : Hart) (a n : Nat) : Bool :=
  match (t.stores.filter (fun x => overlap x.pa x.width a n)).getLast? with
  | some x => decide (x.pa ≤ a) && decide (a + n ≤ x.pa + x.width)
  | none => false

/-- Whether a load in flight overlaps n bytes. -/
def Hart.loading (t : Hart) (a n : Nat) : Bool := t.loads.any (fun l => overlap l.pa l.width a n)

/-- Whether a store in the buffer shares a granule with n bytes. -/
def Hart.storing (t : Hart) (a n : Nat) : Bool := t.stores.any (fun x => shareGranule x.pa x.width a n)

/-- A load's register value from its bytes. -/
def loadWord (n : Nat) (signed : Bool) (v : Nat) : Word := if signed then sx (8 * n) v else word (v % 2 ^ (8 * n))

/-- Write a load's register. -/
def State.loadReg (s : State) (h rd : Nat) (isF : Bool) (n : Nat) (signed : Bool) (v : Nat) : State :=
  if isF then s.setF h rd (BitVec.ofNat 32 v) else s.setX h rd (loadWord n signed v)

/-- Data of the k-th load in flight return: no older load in flight overlaps it. -/
def State.loadReturn (s : State) (h k : Nat) : Option State :=
  let t := s.hart h
  match t.loads[k]? with
  | none => none
  | some l =>
    if (t.loads.take k).any (fun o => overlap o.pa o.width l.pa l.width) then none
    else
      let v := s.overlay h l.pos l.pa l.width
      let s := s.onHart h (fun t => { t with loads := dropAt t.loads k })
      some (s.loadReg h l.rd l.isF l.width l.signed v)

/-- The core of a hart, for the read copies a store need not remove; none for a management hart. -/
def ownCore (h : Nat) : Option Nat := if isMgmt h then none else some (coreOf h)

/-! ## Checks (Table 5-3) -/

/-- The answer of a check: the physical address, or why the group stops. -/
inductive VChk where
  | ok (pa : Nat)
  | stop (s : Stop)
  deriving DecidableEq, Repr

/-- The window extent that holds an address (Table 1-7). -/
def extentOf (va : Nat) : Option Nat :=
  match winOf va with
  | .span _ _ => some 1
  | .scratch _ => some 2
  | .vault _ => some 3
  | .ring r _ => some (10 + r)
  | _ => none

/-- The first address beyond the window extent that holds an address (Table 1-7). -/
def extentEnd (va : Nat) : Nat :=
  match winOf va with
  | .span _ _ => 0x0080010000000000
  | .scratch _ => 0x00FF0000000C0000
  | .vault _ => 0x00FF000102000000
  | .ring r _ => 0x00FF010000000000 + (r + 1) * 0x100000000
  | _ => va

/-- A physical address of n bytes under checks 4, 7, the offline answer of R339 and the error of R336. -/
def State.vbacked (s : State) (pa n : Nat) (store : Bool) : VChk :=
  match s.backing pa with
  | .ok => if !store && s.poisoned pa n then .stop (.exc 5) else .ok pa
  | .unbacked => .stop (.exc 30)
  | .offline => .stop (.offline (if store then 7 else 5))

/-- Check w bytes at va, aligned to `al`, for an access at a place in program order (Table 5-3, in order). Check 1 takes the
strand's mode and SUM as they are when the group begins, though the instruction retired in another mode: the model's choice,
since R72 captures neither (log 69). -/
def State.vchk (s : State) (h pos va w al : Nat) (store : Bool) : VChk :=
  let t := s.hart h
  if extentOf va = none ∨ extentOf va ≠ extentOf ((va + w - 1) % 2 ^ 64) then .stop (.exc 30)
  else if t.mode = .s ∧ !bit t.csr.mstatus 18 then .stop (.exc (if store then 15 else 13))
  else if va % al ≠ 0 then .stop (.exc (if store then 6 else 4))
  else match winOf va with
  | .scratch off => s.vbacked (scratchBase (coreOf h) + off) w store
  | .vault off => s.vbacked (vaultBase (clOf h) + off) w store
  | .ring r off =>
    match s.ringHit h pos r off w store with
    | none => .stop (.exc 25)
    | some (pa, _, _) => s.vbacked pa w store
  | .span g off =>
    let e := s.spanEntry h g
    if !bit e 18 then .stop (.absent true)
    else if store && !bit e 19 then .stop (.exc 15)
    else
      let pa := fld e 0 18 * 0x200000 + off
      if regionOf pa ≠ .dram then .stop (.exc 30)
      else match s.vbacked pa w store with
      | .ok p => if s.homeOk (fld e 21 7) then .ok p else .stop (.exc (if store then 7 else 5))
      | x => x
  | _ => .stop (.exc 30)

/-- Check byte ranges (address, width, alignment) in order: the physical addresses, or the first that fails. -/
def State.vchks (s : State) (h pos : Nat) (store : Bool) : List (Nat × Nat × Nat) → List Nat → Except (Stop × Nat) (List Nat)
  | [], acc => .ok acc.reverse
  | (va, w, al) :: r, acc =>
    match s.vchk h pos va w al store with
    | .stop x => .error (x, va)
    | .ok pa => s.vchks h pos store r (pa :: acc)

/-- The place in Table 5-3 of a check that fails inside one extent: ring rules and absent granules before a granule that
is not writable, before unbacked addresses, before the rest. -/
def Stop.rank : Stop → Nat
  | .absent _ => 0
  | .exc 25 => 0
  | .exc 15 => 1
  | .exc 30 => 2
  | _ => 3

/-- The place in Table 5-3 of the check that an access of w bytes at va fails, from what it answers. -/
def State.checkNo (s : State) (h va w al : Nat) (x : Stop) : Nat :=
  if extentOf va = none ∨ extentOf va ≠ extentOf ((va + w - 1) % 2 ^ 64) ∨ ((s.hart h).mode = .s ∧ !bit (s.hart h).csr.mstatus 18) then 1
  else if va % al ≠ 0 then 2
  else match x, winOf va with
  | .exc 25, _ => 3
  | .exc 30, .vault _ => 4
  | .absent _, _ => 5
  | .exc 15, _ => 6
  | .exc 30, _ => 7
  | _, _ => 8

/-- The first failing check, in the order of Table 5-3, of the byte ranges that one element reads, with the first of them
that fails it; none where all pass (R107, R301). -/
def State.elemFail (s : State) (h pos : Nat) (store : Bool) (rs : List (Nat × Nat × Nat)) : Option (Stop × Nat) :=
  (leastBy (fun (x : Nat × Stop × Nat) => x.1) (rs.filterMap (fun r =>
    match s.vchk h pos r.1 r.2.1 r.2.2 store with
    | .stop x => some (s.checkNo h r.1 r.2.1 r.2.2 x, x, r.1)
    | .ok _ => none))).map (·.2)

/-- The failing check that comes first in Table 5-3, at its lowest address. -/
def firstStop : List (Stop × Nat) → Option (Stop × Nat)
  | [] => none
  | x :: r =>
    match firstStop r with
    | none => some x
    | some y => if x.1.rank ≤ y.1.rank then some x else some y

/-- Check 1 of Table 5-3 over a run of n bytes: the first byte outside the extent, or S-mode without SUM (R19, R158). -/
def State.runWindow (s : State) (h va n : Nat) (store : Bool) : Option (Stop × Nat) :=
  match (List.range n).find? (fun i => extentOf (va + i) = none || extentOf (va + i) ≠ extentOf va) with
  | some i => some (.exc 30, va + i)
  | none =>
    if (s.hart h).mode = .s && !bit (s.hart h).csr.mstatus 18 then some (.exc (if store then 15 else 13), va) else none

/-- The checks of Table 5-3, but for check 2, over a run of n bytes: their physical addresses, or the first failing check
with the first byte that fails it (R158). -/
def State.runChk (s : State) (h pos va n : Nat) (store : Bool) : Except (Stop × Nat) (List Nat) :=
  match s.runWindow h va n store with
  | some x => .error x
  | none =>
    let rs := (List.range n).map (fun i => (va + i, s.vchk h pos (va + i) 1 1 store))
    match firstStop (rs.filterMap (fun (r : Nat × VChk) => match r.2 with | .stop x => some (x, r.1) | .ok _ => none)) with
    | some x => .error x
    | none => .ok (rs.filterMap (fun (r : Nat × VChk) => match r.2 with | .ok pa => some pa | .stop _ => none))

/-- Runs checked in order: the physical addresses of their bytes. -/
def State.runChks (s : State) (h pos : Nat) (store : Bool) : List (Nat × Nat) → Except (Stop × Nat) (List (List Nat))
  | [] => .ok []
  | (va, n) :: r =>
    match s.runChk h pos va n store with
    | .error x => .error x
    | .ok pas =>
      match s.runChks h pos store r with
      | .error x => .error x
      | .ok l => .ok (pas :: l)

/-! ## Addresses -/

/-- Bytes of an element access; a byte for e2m1. -/
def accBytes (ty : BitVec 4) : Nat := max 1 (ebits ty / 8)

/-- a(i) (Table 5-2). -/
def VEntry.addr (e : VEntry) (v : Vec) (a : AddrForm) (v2 i : Nat) : Nat :=
  match a with
  | .unit => (e.x1.toNat + i * ebits e.ty / 8) % 2 ^ 64
  | .stride => (e.x1 + Sys2Proof.Machine.word i * e.x2).toNat
  | .index => (e.x1.toNat + (v.reg v2).elem (ebits e.ty) i) % 2 ^ 64

/-- Whether element i takes part: an index in an invalid block makes no access (R108, R111). -/
def VEntry.indexed (v : Vec) (a : AddrForm) (v2 i : Nat) : Bool := decide (a ≠ .index) || (v.reg v2).ok (i / 32)

/-- The code bytes and the tail of block j of a quantised access (R155, R156): code address, tail address, tail field. -/
def VEntry.block (e : VEntry) (fmt j : Nat) : Nat × Nat × Nat × Nat :=
  let a := e.x1.toNat
  let n := a % 4 + j
  let sb := a / 8 * 8 + n / 4 * superSize fmt
  let f := tailField fmt (n % 4)
  (sb + n % 4 * blockBytes fmt, sb + 4 * blockBytes fmt, f.1, f.2)

/-- The blocks of a group. -/
def VEntry.blocks (e : VEntry) (g : Nat) : List Nat :=
  let (lo, hi) := e.range g
  (List.range ((hi - lo) / 32)).map (· + lo / 32)

/-- The runs of block j that are checked: its code bytes, then the tail of its superblock (R158). -/
def VEntry.blockRuns (e : VEntry) (fmt j : Nat) : List (Nat × Nat) :=
  [((e.block fmt j).1, blockBytes fmt), ((e.block fmt j).2.1, 8)]

/-- The checks of a group's blocks (R158): check 1 of its first run, then A[2], then every run; the physical addresses of
the bytes, two runs a block (log 43). -/
def State.blockChk (s : State) (h : Nat) (e : VEntry) (fmt : Nat) (store : Bool) (js : List Nat) :
    Except (Stop × Nat) (List (List Nat)) :=
  let rs := js.flatMap (e.blockRuns fmt)
  match rs.head?.bind (fun (r : Nat × Nat) => s.runWindow h r.1 r.2 store) with
  | some x => .error x
  | none =>
    if bit e.x1 2 then .error (.exc (if store then 6 else 4), e.x1.toNat)
    else s.runChks h e.pos store rs

/-- A byte range in parts that each lie in one 32-byte granule. -/
def granules (a n : Nat) : List (Nat × Nat) :=
  (List.range (if n = 0 then 0 else (a + n - 1) / 32 - a / 32 + 1)).map (fun i =>
    let lo := max a ((a / 32 + i) * 32)
    (lo, min (a + n) ((a / 32 + i + 1) * 32) - lo))

/-- The memory ranges that groups from g on will touch, each in one granule; none where they cannot be told yet (texture
reads). -/
def VEntry.future (e : VEntry) (v : Vec) (g : Nat) : Option (List (Nat × Nat)) :=
  let gs := (List.range (e.groups - g)).map (· + g)
  let els := fun k => gs.flatMap (e.actives v k)
  let w := accBytes e.ty
  match e.op with
  | .ld a _ _ v2 k => some ((els k).map (fun i => (e.addr v a v2 i, w)))
  | .st a _ _ v2 k => some ((els k).map (fun i => (e.addr v a v2 i, w)))
  | .amo _ _ v2 k => some ((els k).map (fun i => (e.addr v .index v2 i, w)))
  | .ldfe _ k => some ((els k).map (fun i => (e.addr v .unit 0 i, w)))
  | .stfe _ k => some ((els k).map (fun i => (e.addr v .unit 0 i, w)))
  | .qld _ fmt => some (((gs.flatMap e.blocks).flatMap (e.blockRuns fmt)).flatMap (fun r => granules r.1 r.2))
  | .qst _ fmt _ => some (((gs.flatMap e.blocks).flatMap (e.blockRuns fmt)).flatMap (fun r => granules r.1 r.2))
  | .ray f _ _ _ => if f = .tsamp ∨ f = .tfetch then (if gs.isEmpty then some [] else none) else some []
  | _ => some []

/-! ## Order (R115, R116, R203, R217, R261) -/

/-- The accepted commands of a hart that are not complete. -/
def State.acmds (s : State) (h : Nat) : List ACmd :=
  let c := s.cluster (clOf h)
  (c.executing.toList ++ c.cmdq ++ c.fills).filter (fun a => a.hart = h)

/-- The array commands that an entry comes after: the accepted ones before it in program order, and of those that a pre-emption
recorded (R197) the ones that go on with it, the strand being resumed or the entry itself reinstated. -/
def State.cmdsBefore (s : State) (h : Nat) (e : VEntry) : List ACmd :=
  let a := (s.hart h).arr
  (s.acmds h ++ (if a.susp = 0 ∨ e.pos ≠ e.entered then a.resume else [])).filter (fun c => decide (c.pos < e.pos))

/-- The registers that decide which addresses groups from g on of the entry touch: offsets and masks. -/
def VEntry.addrReads (e : VEntry) (g : Nat) : List Span :=
  let (lo, hi) := e.rest g
  let eb := ebits e.ty
  match e.op with
  | .ld a _ _ v2 k => (if a = .index then part v2 eb lo hi else []) ++ kpart k lo hi
  | .st a _ _ v2 k => (if a = .index then part v2 eb lo hi else []) ++ kpart k lo hi
  | .amo _ _ v2 k => part v2 eb lo hi ++ kpart k lo hi
  | .ldfe _ k => kpart k lo hi
  | .stfe _ k => kpart k lo hi
  | _ => []

/-- Whether an entry's offsets or mask are still to be written by an older one. -/
def VEntry.blocked (a : VEntry) (older : List VEntry) : Bool :=
  decide (a.next < a.groups) && older.any (fun b =>
    let (l, u) := b.rest b.landed
    spansMeet (b.writes l u) (a.addrReads a.next))

/-- Whether groups of an entry that have not begun may touch a granule of n bytes at a physical address: one of their
addresses does, or one of the older entries has still to write their offsets or their mask. -/
def State.mayTouch (s : State) (h : Nat) (older : List VEntry) (a : VEntry) (pa n : Nat) : Bool :=
  a.blocked older || (match a.future (s.hart h).vec a.next with
    | none => true
    | some rs => rs.any (fun r =>
        match s.vchk h a.pos r.1 1 1 false with
        | .ok p => shareGranule p r.2 pa n
        | .stop _ => false))

/-- The same of an entry in its queue. -/
def State.toCome (s : State) (h : Nat) (a : VEntry) (pa n : Nat) : Bool :=
  s.mayTouch h ((s.hart h).vec.queue.filter (fun b => decide (b.seq < a.seq))) a pa n

/-- Whether an entry has a begun access to a granule of n bytes at a physical address that is not performed, as an instruction
at a place in program order finds it: a vstfe of a handler has its bits to set until the instructions before it that the
resume state held have stored (R203), and these do not wait for it. -/
def VEntry.pending (a : VEntry) (pos pa n : Nat) : Bool :=
  a.pend.any (fun x => (decide (x.kind ≠ .fill) || decide (a.pos < pos)) && shareGranule x.pa x.width pa n)

/-- Whether an entry still has a read or write of the granules of n bytes at a physical address to come, as an instruction at a
place in program order finds it. -/
def State.touches (s : State) (h : Nat) (a : VEntry) (pos pa n : Nat) : Bool := a.pending pos pa n || s.toCome h a pa n

/-- Whether an access of entry e to n bytes may begin: no older vector instruction has groups to begin that touch its
granule (R115), no older array command touches it (R261, log 58), and no copy holds it (R217). -/
def State.mayBegin (s : State) (h : Nat) (e : VEntry) (va pa n : Nat) (write : Bool) : Bool :=
  !((s.hart h).vec.queue.any (fun a => decide (a.seq < e.seq) && s.toCome h a pa n)) &&
  !((s.cmdsBefore h e).any (fun a => a.range.any (fun r => shareGranule r.1 r.2 pa n))) &&
  !(s.held h e.pos va n write)

/-- Whether a begun access of entry e to n bytes may be performed now: the strand's older scalar stores to its granule have
left the buffer, and for a write its older loads have read (R116); older vector instructions have performed theirs (R115). -/
def State.mayPerform (s : State) (h : Nat) (e : VEntry) (pa n : Nat) (write : Bool) : Bool :=
  let t := s.hart h
  !(t.stores.any (fun x => decide (x.pos < e.entered) && shareGranule x.pa x.width pa n)) &&
  !(write && t.loads.any (fun x => decide (x.pos < e.entered) && shareGranule x.pa x.width pa n)) &&
  !(t.vec.queue.any (fun a => decide (a.seq < e.seq) && a.pending e.pos pa n))

/-- Whether an access may begin and be performed in one step. -/
def State.mayDo (s : State) (h : Nat) (e : VEntry) (va pa n : Nat) (write : Bool) : Bool :=
  s.mayBegin h e va pa n write && s.mayPerform h e pa n write

/-- Whether the distributor has taken every wdq query that hart h sent before a place in program order: a scalar store to
its home (R261). -/
def State.asked (s : State) (h pos : Nat) : Bool :=
  s.dev.queries.all (fun q => decide (q.hart ≠ h) || q.answer.isSome || decide (pos ≤ q.pos))

/-- Whether the scalar stores of hart h before a place in program order that have left its buffer have performed: those to
remote windows have been acknowledged (R323), and the distributor has taken the wdq queries. -/
def State.storesOut (s : State) (h pos : Nat) : Bool :=
  (s.hart h).remotes.all (fun r => r.load.isSome || decide (pos ≤ r.pos)) && s.asked h pos

/-- Whether every scalar store of hart h before a place in program order has performed (R203, R241). -/
def State.storesDone (s : State) (h pos : Nat) : Bool :=
  (s.hart h).stores.all (fun x => decide (pos ≤ x.pos)) && s.storesOut h pos

/-- Whether the older accesses that a fence.sv before the entry covers are done (R263, R266). -/
def State.svOk (s : State) (h : Nat) (pos : Nat) : Bool :=
  let t := s.hart h
  t.vec.svMarks.all (fun (p, sys) => decide (pos ≤ p) ||
    (t.loads.all (fun l => decide (p ≤ l.pos)) && t.stores.all (fun x => decide (p ≤ x.pos)) && s.asked h p &&
      t.remotes.all (fun r => decide (p ≤ r.pos) || (r.load.isNone && !sys))))

/-! ## L1 and the stream detector (R121, R124) -/

/-- The stream detector on a miss of a line: the new entries, and whether the miss is no-allocate. An entry not advanced for
1,024 cy is free. A miss of an expected line advances its entry; a miss of the line that an entry came from, not allocated
before, is of its run and advances nothing (log 57); another takes the place of the entry least recently advanced, the last
of the list. -/
def detect (d : List (Nat × Nat × Nat)) (line now : Nat) : List (Nat × Nat × Nat) × Bool :=
  let d := d.filter (fun e => decide (now < e.2.2 + 1024))
  match d.find? (fun e => e.1 = line) with
  | some (_, n, _) => ((line + 32, n + 1, now) :: d.filter (fun e => e.1 != line), decide (8 ≤ n + 1))
  | none =>
    match d.find? (fun e => e.1 = line + 32) with
    | some (_, n, _) => (d, decide (8 ≤ n))
    | none => ((line + 32, 1, now) :: d.take 3, false)

/-- A read brings its line nearer: to the home slice, and to the L1 of hart h's core where the slice holds it (R121, R122). -/
def State.bringLine (s : State) (h code pa : Nat) (l1 : Bool) : State :=
  let s := s.sliceRead code pa true
  if l1 && (s.core (s.homeOf code pa)).hasSector pa then s.onCore (coreOf h) (fun k => k.l1Fill (pa / 32 * 32)) else s

/-- A read of PMA device memory by a hart, homed by a code: a hit in L1 touches it; a miss watches the detector, reads the
home slice, and fills both unless it is no-allocate (R118, R121, R122, R124). -/
def State.readLine (s : State) (h code pa : Nat) (nt : Bool) : State :=
  if decide (regionOf pa ≠ .dram) then s
  else if isMgmt h then s.sliceRead code pa true
  else if (s.core (coreOf h)).l1.contains (pa / 32 * 32) then s.l1Touch h pa
  else
    let (d, na) := detect (s.hart h).detector (pa / 32 * 32) s.dev.cy
    let s := s.onHart h (fun t => { t with detector := d })
    if nt || na then s.sliceRead code pa false else s.bringLine h code pa true

/-- A store or an atomic of a hart to PMA device memory, homed by a code, as it goes to its home: a line that L1 holds is
used; a miss watches the detector and brings the line into the home slice unless it is no-allocate, into no L1 (R118, R121,
R122, R124). -/
def State.writeLine (s : State) (h code pa : Nat) (nt : Bool) : State :=
  if decide (regionOf pa ≠ .dram) then s
  else if isMgmt h then s.sliceRead code pa true
  else if (s.core (coreOf h)).l1.contains (pa / 32 * 32) then s.l1Touch h pa
  else
    let (d, na) := detect (s.hart h).detector (pa / 32 * 32) s.dev.cy
    (s.onHart h (fun t => { t with detector := d })).sliceRead code pa (!(nt || na))

/-- The same for the home code of an access that may not be to such memory. -/
def State.writeHomed (s : State) (h : Nat) (code : Option Nat) (pa : Nat) : State :=
  match code with
  | some c => s.writeLine h c pa false
  | none => s

/-- The home code of a line that a vector access reaches: that of the span window's entry, else 0 (R118). -/
def State.vcode (s : State) (h va : Nat) : Nat :=
  match winOf va with
  | .span g _ => fld (s.spanEntry h g) 21 7
  | _ => 0

/-- The k-th store in the buffer performs at its home: after older stores of its granule and older loads of its bytes,
and an stfe after every older store (R67, R203). -/
def State.drain (s : State) (h k : Nat) : Option State :=
  let t := s.hart h
  match t.stores[k]? with
  | none => none
  | some x =>
    if (t.stores.take k).any (fun o => shareGranule o.pa o.width x.pa x.width) ||
        t.loads.any (fun l => decide (l.pos < x.pos) && overlap l.pa l.width x.pa x.width) ||
        (x.fe && decide (k ≠ 0)) then none
    else
      let s := s.onHart h (fun t => { t with stores := dropAt t.stores k })
      let s := (s.writeHomed h x.code x.pa).perform false h (ownCore h) x.pa (bytesOf x.width x.val.toNat)
      some (if x.fe then s.fill (lineOf x.pa) else s)

/-! ## Atomics (R111) -/

/-- The value an application leaves. -/
def AmoOp.eval (f : AmoOp) (ty : BitVec 4) (rm : Nat) (old b : Nat) : Nat :=
  let n := ebits ty
  if ty.toNat = 6 then
    match f with
    | .add => (Fmt.f32.add rm old b).1
    | .min => (Fmt.f32.minmax false old b).1
    | .max => (Fmt.f32.minmax true old b).1
  else
    match f with
    | .add => (old + b) % 2 ^ n
    | .min => if toInt n b < toInt n old then b else old
    | .max => if toInt n old < toInt n b then b else old

/-! ## Performing one access (R107, R164) -/

/-- A vector store of a strand performs (R57: the strand's own reservation is lost too; R121: the home removes every L1
copy in other cores, and the storing core's own copy then holds the new bytes). -/
def State.vstore (s : State) (h pa n v : Nat) : State := s.perform true h (some (coreOf h)) pa (bytesOf n v)

/-- An access of the vector side brings its line nearer, as a read or a write does. -/
def State.vecLine (s : State) (h : Nat) (x : Acc) : State :=
  match x.kind with
  | .load => s.readLine h (s.vcode h x.va) x.pa x.nt
  | .fill => s
  | _ => s.writeLine h (s.vcode h x.va) x.pa x.nt

/-- Perform an access: the state, and the datum it read. -/
def State.doAcc (s : State) (h : Nat) (x : Acc) : State × Option Got :=
  let u := s.vecLine h x
  match x.kind with
  | .load => (u, some ⟨x.group, x.idx, word (s.mem64 x.pa x.width), true⟩)
  | .store => (u.vstore h x.pa x.width x.val.toNat, none)
  | .nibble hi =>
    let old := s.mem64 x.pa 1
    let n := x.val.toNat % 16
    (u.vstore h x.pa 1 (if hi then old % 16 + n * 16 else old / 16 * 16 + n), none)
  | .amo f ty frm => (u.vstore h x.pa x.width (f.eval ty frm.toNat (s.mem64 x.pa x.width) x.val.toNat), none)
  | .tail lo w => (u.vstore h x.pa 8 (setFld (word (s.mem64 x.pa 8)) lo w x.val.toNat).toNat, none)
  | .fill => (s.setFull (lineOf x.pa) true, none)

/-- Whether an entry is a vector store or atomic. -/
def VEntry.toMemory (e : VEntry) : Bool :=
  match e.op with
  | .st _ _ _ _ _ => true
  | .stfe _ _ => true
  | .qst _ _ _ => true
  | .amo _ _ _ _ => true
  | _ => false

/-- Whether an access writes. -/
def Acc.writes (x : Acc) : Bool := decide (x.kind ≠ .load)

/-- Whether the begun access x of entry e may be performed now: the order of R115 and R116, the ascending order of the
bytes of one store (R110) and of atomics (R111), and the condition of a full/empty bit (R203). -/
def State.accReady (s : State) (h : Nat) (e : VEntry) (x : Acc) : Bool :=
  let before := e.pend.takeWhile (fun y => y != x)
  match x.kind with
  | .fill =>
    !(e.pend.any (fun y => decide (y.kind ≠ .fill) && decide (y.group ≤ x.group))) &&
      s.storesDone h e.entered && !(((s.hart h).vec.before e.pos).any VEntry.toMemory)
  | .amo _ _ _ => before.isEmpty && s.mayPerform h e x.pa x.width true
  | .load => s.mayPerform h e x.pa x.width false
  | _ => !(before.any (fun y => decide (y.kind ≠ .fill) && shareGranule y.pa y.width x.pa x.width)) &&
      s.mayPerform h e x.pa x.width true

/-! ## Landing of a load group (R108, R158) -/

/-- The elements that the data of one group make. -/
def VEntry.loaded (e : VEntry) (gots : List Got) : List EW :=
  gots.map (fun x =>
    let c := if e.ty.toNat = 10 then (if x.idx % 2 = 1 then x.val.toNat / 16 % 16 else x.val.toNat % 16)
      else x.val.toNat % 2 ^ ebits e.ty
    ⟨x.idx, c, x.ok && !invalidating e.ty c⟩)

/-- Block j of a quantised load from its bytes (R158): data are numbered 64 j + byte, the tail 64 j + 63. -/
def VEntry.loadedBlock (e : VEntry) (fmt j : Nat) (gots : List Got) : List Nat × Bool :=
  let byte := fun (i : Nat) => ((gots.find? (fun x => x.idx = 64 * j + i)).map Got.val).getD (0 : BitVec 64)
  let bs := (List.range (blockBytes fmt)).map (fun i => (byte i).setWidth 8)
  let b := e.block fmt j
  loadBlock fmt ((fmtOf e.ty).getD .f32) e.frm.toNat bs (fld (byte 63) b.2.2.1 b.2.2.2)

/-- Write what group g has loaded. -/
def VEntry.land (e : VEntry) (v : Vec) (g : Nat) : Vec :=
  let mine := sortBy Got.idx (e.got.filter (fun x => x.group = g))
  match e.op with
  | .ld _ _ vd _ _ => v.write vd (ebits e.ty) (e.loaded mine)
  | .ldfe vd _ => v.write vd (ebits e.ty) (e.loaded mine)
  | .qld vd fmt =>
    (e.blocks g).foldl (fun (w : Vec) j =>
      let (cs, ok) := e.loadedBlock fmt j mine
      w.write vd (ebits e.ty) ((cs.zipIdx).map (fun (c, i) => ⟨32 * j + i, c, ok⟩))) v
  | _ => v

/-- Change the entry with a sequence number. -/
def State.onEntry (s : State) (h seq : Nat) (f : VEntry → VEntry) : State :=
  s.onVec h (fun v => { v with queue := v.queue.map (fun e => if e.seq = seq then f e else e) })

/-- Whether a load or store entry is complete (R117). -/
def VEntry.done (e : VEntry) : Bool := decide (e.groups ≤ e.next) && e.pend.isEmpty && e.got.isEmpty

/-- Land every loaded group whose accesses are all performed, and take complete load and store entries out of their
queues. -/
def State.sweep (s : State) (h : Nat) : State :=
  s.onVec h (fun v =>
    let v := v.queue.foldl (fun (v : Vec) e =>
      let gs := ((e.got.map Got.group).eraseDups).filter (fun g => !(e.pend.any (fun x => x.group = g)))
      let w := gs.foldl (fun (w : Vec) g => e.land w g) v
      { w with queue := w.queue.map (fun b =>
          if b.seq = e.seq then { b with got := b.got.filter (fun x => !gs.contains x.group) } else b) }) v
    { v with queue := v.queue.filter (fun e => decide (e.q = .vaq) || !e.done) })

/-- Whether the elements of one address get one value: those of a strided or indexed load (R110). -/
def VEntry.sameEach (e : VEntry) : Bool :=
  match e.op with
  | .ld .stride _ _ _ _ => true
  | .ld .index _ _ _ _ => true
  | _ => false

/-- The datum that an access takes from a read of its address by the same instruction (R110). -/
def VEntry.again (e : VEntry) (x : Acc) : Option Got :=
  if e.sameEach && decide (x.kind = .load) then (e.seen.find x.pa).map (fun w => ⟨x.group, x.idx, w, true⟩) else none

/-- What the performing of an access leaves in its entry. -/
def VEntry.after (e : VEntry) (x : Acc) (d : Option Got) : VEntry :=
  { e with
    pend := e.pend.erase x
    got := e.got ++ d.toList
    seen := match d with | some g => if e.sameEach then e.seen.ins x.pa g.val else e.seen | none => e.seen }

/-- Perform the k-th begun access of hart h, counted through its queues in order, if it may be performed now. -/
def State.accessStep (s : State) (h k : Nat) : Option State :=
  let all := (s.hart h).vec.queue.flatMap (fun e => e.pend.map (fun x => (e, x)))
  match all[k]? with
  | none => none
  | some (e, x) =>
    if s.accReady h e x then
      let (s, d) := match e.again x with | some g => (s, some g) | none => s.doAcc h x
      some ((s.onEntry h e.seq (fun e => e.after x d)).sweep h)
    else none

/-- Perform all begun accesses of hart h, each as soon as it may; n bounds their number. -/
def State.accessAll (s : State) (h : Nat) : Nat → State
  | 0 => s
  | n + 1 =>
    let m := ((s.hart h).vec.queue.map (fun e => e.pend.length)).foldl (· + ·) 0
    match (List.range m).findSome? (s.accessStep h) with
    | some s => State.accessAll s h n
    | none => s

/-! ## Beginning a group -/

/-- What came of trying to begin a group. -/
inductive Issue where
  /-- it must wait -/
  | wait
  /-- it waits on a full/empty bit or a stream, its watchdog running (R201, R222) -/
  | ext
  /-- it fails a check: the reason and the address (R107) -/
  | stop (x : Stop) (va : Nat)
  /-- it has begun -/
  | go (s : State)

/-- Whether the accesses of a group may all begin. -/
def State.mayBeginAll (s : State) (h : Nat) (e : VEntry) (accs : List Acc) : Bool :=
  accs.all (fun x => decide (x.kind = .fill) || s.mayBegin h e x.va x.pa x.width x.writes)

/-- Begin a group with its accesses and data, where these may begin: the entry goes on to the next group. -/
def State.beginWith (s : State) (h : Nat) (e : VEntry) (accs : List Acc) (gots : List Got) : Issue :=
  if !s.mayBeginAll h e accs then .wait
  else .go ((s.onEntry h e.seq (fun e => { e with
    next := e.next + 1, pend := e.pend ++ accs, got := e.got ++ gots, since := none, probed := none })).sweep h)

/-- The participating elements of a group with their addresses checked (R107). -/
def State.checked (s : State) (h : Nat) (e : VEntry) (a : AddrForm) (v2 : Nat) (is : List Nat) (store : Bool) :
    Except (Stop × Nat) (List (Nat × Nat × Nat)) :=
  let v := (s.hart h).vec
  let w := accBytes e.ty
  let vas := is.map (fun i => e.addr v a v2 i)
  (s.vchks h e.pos store (vas.map (fun va => (va, w, w))) []).map (fun pas => is.zip (vas.zip pas))

/-- A load group (R108, R109). -/
def State.beginLoad (s : State) (h : Nat) (e : VEntry) (a : AddrForm) (nt : Bool) (v2 k : Nat) : Issue :=
  let v := (s.hart h).vec
  let act := e.actives v k e.next
  match s.checked h e a v2 (act.filter (VEntry.indexed v a v2)) false with
  | .error (x, va) => .stop x va
  | .ok els =>
    s.beginWith h e
      (els.map (fun (i, va, pa) => ⟨e.next, i, va, pa, accBytes e.ty, .load, 0, nt⟩))
      ((act.filter (fun i => !VEntry.indexed v a v2 i)).map (fun i => ⟨e.next, i, 0, false⟩))

/-- The value that element i stores (R108). -/
def VEntry.stored (e : VEntry) (v : Vec) (vs i : Nat) : Nat :=
  if (v.reg vs).ok (i / 32) then (v.reg vs).elem (ebits e.ty) i else invalidStored e.ty

/-- A store group (R108 to R110). -/
def State.beginStore (s : State) (h : Nat) (e : VEntry) (a : AddrForm) (nt : Bool) (vs v2 k : Nat) : Issue :=
  let v := (s.hart h).vec
  match s.checked h e a v2 ((e.actives v k e.next).filter (VEntry.indexed v a v2)) true with
  | .error (x, va) => .stop x va
  | .ok els =>
    s.beginWith h e (els.map (fun (i, va, pa) =>
      ⟨e.next, i, va, pa, accBytes e.ty, if e.ty.toNat = 10 then .nibble (decide (i % 2 = 1)) else .store,
        word (e.stored v vs i), nt⟩)) []

/-- A group of vector atomics (R111). -/
def State.beginAmo (s : State) (h : Nat) (e : VEntry) (f : AmoOp) (vs v2 k : Nat) : Issue :=
  let v := (s.hart h).vec
  let act := (e.actives v k e.next).filter (fun i => (v.reg v2).ok (i / 32) && (v.reg vs).ok (i / 32))
  match s.checked h e .index v2 act true with
  | .error (x, va) => .stop x va
  | .ok els =>
    s.beginWith h e (els.map (fun (i, va, pa) =>
      ⟨e.next, i, va, pa, accBytes e.ty, .amo f e.ty e.frm, word ((v.reg vs).elem (ebits e.ty) i), false⟩)) []

/-- A quantised load group (R158). -/
def State.beginQld (s : State) (h : Nat) (e : VEntry) (fmt : Nat) : Issue :=
  let js := e.blocks e.next
  match s.blockChk h e fmt false js with
  | .error (x, va) => .stop x va
  | .ok pas =>
    s.beginWith h e ((js.zipIdx).flatMap (fun (j, n) =>
      let b := e.block fmt j
      let cs := pas.getD (2 * n) []
      ((cs.zipIdx).map (fun (pa, i) => (⟨e.next, 64 * j + i, b.1 + i, pa, 1, .load, 0, false⟩ : Acc))) ++
      [⟨e.next, 64 * j + 63, b.2.1, (pas.getD (2 * n + 1) []).headD 0, 8, .load, 0, false⟩])) []

/-- A quantised store group (R159 to R164): the leeway register is updated and the bytes and scales are to be stored. -/
def State.beginQst (s : State) (h : Nat) (e : VEntry) (vs fmt ly : Nat) : Issue :=
  let js := e.blocks e.next
  match s.blockChk h e fmt true js with
  | .error (x, va) => .stop x va
  | .ok pas =>
    let v := (s.hart h).vec
    let l := v.ly.get Leeway.start ly
    let f := (fmtOf e.ty).getD .f32
    let x := v.reg vs
    let ins := js.map (fun j => (x.ok j, (List.range 32).map (fun i => f.val (x.elem (ebits e.ty) (32 * j + i)))))
    let (outs, res) := shapeBlocks fmt l l.p ins l.res
    let accs := ((js.zip outs).zipIdx).flatMap (fun ((j, o), n) =>
      let b := e.block fmt j
      let cs := pas.getD (2 * n) []
      ((o.1.zipIdx).map (fun (c, i) =>
        (⟨e.next, 64 * j + i, b.1 + i, cs.getD i 0, 1, .store, c.setWidth 64, false⟩ : Acc))) ++
      [⟨e.next, 64 * j + 63, b.2.1, (pas.getD (2 * n + 1) []).headD 0, 8, .tail b.2.2.1 b.2.2.2, word o.2, false⟩])
    let s := s.onVec h (fun v =>
      { v with ly := v.ly.ins ly { l with res := res, p := (l.p + 32 * js.length) % l.c } })
    s.beginWith h e accs []

/-- Whether a full/empty access to an address is in a window it accepts: the own scratch window, or the ring window of a
scratch ring; an unset ring's window fails its own check (R202). -/
def State.feWindow (s : State) (h va : Nat) : Bool :=
  match winOf va with
  | .scratch _ => true
  | .ring r _ =>
    (match (s.hart h).stg.rings.find r with
      | some rs => (match s.ring (clOf h) rs.ring with | some g => !(g.formed && g.vault) | none => true)
      | none => true)
  | _ => false

/-- The active elements of a full/empty group: only the own scratch window and the ring window of a scratch ring, any other
failing check 1 (R202). -/
def State.feChecked (s : State) (h : Nat) (e : VEntry) (k : Nat) (store : Bool) :
    Except (Stop × Nat) (List (Nat × Nat × Nat)) :=
  let v := (s.hart h).vec
  let is := e.actives v k e.next
  let out := fun (i : Nat) => !s.feWindow h (e.addr v .unit 0 i)
  match s.checked h e .unit 0 (is.takeWhile (fun i => !out i)) store with
  | .error x => .error x
  | .ok els => match is.find? out with
    | some i => .error (.exc 30, e.addr v .unit 0 i)
    | none => .ok els

/-- The lines that the vldfe group next to begin at hart h waits for, once it waits (R201). -/
def State.feWaits (s : State) (h : Nat) : List Nat :=
  match (s.hart h).vec.queue.find? (fun e => decide (e.q = .vlq) && decide (e.next < e.groups)) with
  | some e =>
    (match e.op, e.since, s.feChecked h e (match e.op with | .ldfe _ k => k | _ => 0) false with
      | .ldfe _ _, some _, .ok els => (els.map (fun (x : Nat × Nat × Nat) => lineOf x.2.2)).eraseDups
      | _, _, _ => [])
  | none => []

/-- Whether a consuming access of a lower hart waits for line l and finds it full: the bank serves that one first (R200). -/
def State.lowerConsumer (s : State) (h l : Nat) : Bool :=
  s.harts.any (fun (p : Nat × Hart) => decide (p.1 < h) &&
    ((match p.2.wait with
        | .ldfe _ pa _ _ => decide (lineOf pa = l) && s.full l && !p.2.storing pa 8 && !p.2.loading pa 8
        | _ => false) ||
      ((s.feWaits p.1).contains l && (s.feWaits p.1).all s.full)))

/-- A vldfe group (R202): every line full, then read and cleared in one operation (log 49). -/
def State.beginLdfe (s : State) (h : Nat) (e : VEntry) (k : Nat) : Issue :=
  match s.feChecked h e k false with
  | .error (x, va) => .stop x va
  | .ok els =>
    let w := accBytes e.ty
    let lines := (els.map (fun (x : Nat × Nat × Nat) => lineOf x.2.2)).eraseDups
    if !(lines.all (fun l => s.full l && !s.lowerConsumer h l)) then .ext
    else if !(els.all (fun x => s.mayDo h e x.2.1 x.2.2 w false)) then .wait
    else
      let gots := els.map (fun x => (⟨e.next, x.1, word (s.mem64 x.2.2 w), true⟩ : Got))
      (lines.foldl (fun (s : State) l => s.setFull l false) s).beginWith h e [] gots

/-- A vstfe group (R202, R203): the active elements are stored, then the bits of the lines are set. It begins when every
older vector store has begun all its groups, and the older scalar stores that have left the buffer have performed. -/
def State.beginStfe (s : State) (h : Nat) (e : VEntry) (vs k : Nat) : Issue :=
  let v := (s.hart h).vec
  match s.feChecked h e k true with
  | .error (x, va) => .stop x va
  | .ok els =>
    let lines := (els.map (fun (x : Nat × Nat × Nat) => lineOf x.2.2)).eraseDups
    if v.queue.any (fun a => decide (a.seq < e.seq) && decide (a.q = .vsq) && decide (a.next < a.groups)) || !s.storesOut h e.entered then .wait
    else s.beginWith h e
      (els.map (fun (i, va, pa) => ⟨e.next, i, va, pa, accBytes e.ty, .store, word (e.stored v vs i), false⟩) ++
        lines.map (fun l => ⟨e.next, 8192, 0, 128 * l, 128, .fill, 0, false⟩)) []

/-- A prefetch (R112): all its lines at once, into the home slices and, unless nt, the core's L1; the lines that fail a check
in the span window count SPEC_DROP. The stream detector does not watch it (log 57). -/
def State.beginPref (s : State) (h : Nat) (e : VEntry) (nt : Bool) : Issue :=
  let a := e.x1.toNat
  let n := ceilDiv (e.vl * ebits e.ty) 8
  let lines := (List.range ((a + n - 1) / 256 - a / 256 + 1)).map (fun i => (a / 256 + i) * 256 % 2 ^ 64)
  let s' := lines.foldl (fun (s : State) va =>
    match winOf va with
    | .span _ _ =>
      (match s.vchk h e.pos va 1 1 false with
        | .ok pa => (List.range 8).foldl (fun (s : State) i => s.bringLine h (s.vcode h va) (pa + 32 * i) (!nt)) s
        | .stop _ => s.count 0 1)
    | _ => s) s
  .go ((s'.onEntry h e.seq (fun e => { e with next := e.groups })).sweep h)

/-- The taps of a sample record (R302, R303) and the shift of its sum; none reads nothing and gives 0. -/
def texTaps (fetch : Bool) (d : TexDesc) (x : VReg) (i : Nat) : List Tap × Nat :=
  let w := fun j => x.elem 32 (4 * i + j)
  if fetch then (((d.fetch (toInt 32 (w 0)) (toInt 32 (w 1)) (toInt 32 (w 2))).toList), 0)
  else d.sample (w 0) (w 1) (w 2)

/-- A tsamp or tfetch group (R299 to R303): the descriptor, then the texels of each element in the order of Table 5-3, are
checked, then all are read at once (log 49). -/
def State.beginTex (s : State) (h : Nat) (e : VEntry) (fetch : Bool) (vd v1 : Nat) : Issue :=
  let v := (s.hart h).vec
  let x := v.reg v1
  let da := e.x2.toNat
  let is := e.elems e.next
  let okOf := fun i => x.ok (16 * i / 128) && x.ok ((16 * i + 15) / 128)
  match s.vchk h e.pos da 32 32 false with
  | .stop z => .stop z da
  | .ok dpa =>
    if !s.mayDo h e da dpa 32 false then .wait
    else
      let s := s.readLine h (s.vcode h da) dpa false
      match texDesc (s.mem64 dpa 32) with
      | none =>
        .go ((s.onVec h (fun v =>
          let d := (v.reg vd).write 32 (is.map (fun i => ⟨i, 0, true⟩))
          let valid := ((is.map (· / 32)).eraseDups).foldl (fun (b : BitVec 256) j => setBit b j false) d.valid
          v.setReg vd { d with valid := valid }) |>.onEntry h e.seq (fun e => { e with next := e.next + 1 })).sweep h)
      | some d =>
        let bytes := texBytes d.fmt
        let taps := is.map (fun i => (i, texTaps fetch d x i))
        let ranges := fun (t : Nat × List Tap × Nat) => t.2.1.flatMap (fun p => (List.range bytes).map (fun b => (p.addr + b, 1, 1)))
        let rs := taps.flatMap ranges
        match taps.findSome? (fun t => s.elemFail h e.pos false (ranges t)) with
        | some (z, va) => .stop z va
        | none =>
          let rp := rs.filterMap (fun (r : Nat × Nat × Nat) => match s.vchk h e.pos r.1 1 1 false with
            | .ok pa => some (r.1, pa)
            | .stop _ => none)
          if !(rp.all (fun p => s.mayDo h e p.1 p.2 1 false)) then .wait
          else
            let byteAt := fun va => match rp.find? (fun p => p.1 = va) with
              | some p => s.byte p.2
              | none => 0
            let texel := fun (p : Tap) =>
              texDecode d.fmt (ofBytes ((List.range bytes).map (fun b => byteAt (p.addr + b)))) p.place
            let ws := taps.map (fun t =>
              let val := if t.2.1.isEmpty then 0
                else (filterTexel (t.2.1.map (fun p => (p.weight, texel p))) t.2.2).pack
              (⟨t.1, val, okOf t.1⟩ : EW))
            let lines := (rp.map (fun p => (s.vcode h p.1, p.2 / 32 * 32))).eraseDups
            let s := lines.foldl (fun (s : State) (l : Nat × Nat) => s.readLine h l.1 l.2 false) s
            .go (((s.onVec h (fun v => v.write vd 32 ws)).onEntry h e.seq
              (fun e => { e with next := e.next + 1 })).sweep h)

end Sys2Proof.Machine
end

