-- ==== Sys2Proof/Machine/VecQueue.lean ====
section
/-!
DEFINITION. The three vector queues (R77 to R79): entering, beginning a group, landing, stopping between groups and
reinstating (R99 to R102); streams between strands (R220 to R223).
-/
namespace Sys2Proof.Machine

/-! ## Entering a queue (R72, R77) -/

/-- Whether the entry takes a place in a queue; fence.vv takes one in the VLQ and the VSQ (R265). -/
def VEntry.inQueue (e : VEntry) (q : VQueue) : Bool :=
  decide (e.q = q) || (decide (q = .vsq) && (match e.op with | .fence _ => true | _ => false))

/-- Whether a queue has room (R66, R77). -/
def Vec.room (v : Vec) (q : VQueue) : Bool := decide ((v.queue.filter (fun e => e.inQueue q)).length < 16)

/-- What an instruction captures beside vl, vetype, frm, n and S. -/
structure Captured where
  x1 : Word
  x2 : Word
  fv : Half
  scales : List Half

/-- An entry with no group begun (R72). -/
def Hart.entry (t : Hart) (q : VQueue) (op : VOp) (w : BitVec 32) (c : Captured) : VEntry :=
  { seq := t.vec.nextSeq, pos := t.pos, entered := t.pos, q := q, op := op, word := w, x1 := c.x1, x2 := c.x2, fv := c.fv,
    scales := c.scales, vl := t.vec.vl, ty := t.vec.vetype, frm := t.frm, ncode := t.vec.ncode,
    slip := t.vec.slip, next := 0, pend := [], got := [], seen := [], res := none, since := none, probed := none }

/-- Put an entry at the end of its queue; one with no group does nothing (R72). -/
def Vec.append (v : Vec) (e : VEntry) : Vec :=
  if e.groups = 0 then { v with nextSeq := v.nextSeq + 1 }
  else { v with queue := v.queue ++ [e], nextSeq := v.nextSeq + 1 }

/-- A vector instruction of hart h enters its queue and retires; while the queue is full it is not ready and the state
stays. -/
def State.enqueue (s : State) (h : Nat) (q : VQueue) (op : VOp) (w : BitVec 32) (c : Captured) : State :=
  let t := s.hart h
  if t.vec.room q && (match op with | .fence _ => t.vec.room .vsq | _ => true) then
    (s.onVec h (fun v => v.append (t.entry q op w c))).retire h
  else s

/-! ## Array commands of a strand (R189) -/

/-- The leeway register of an mst. -/
def AOp.ly (o : AOp) : Option Nat := match o with | .mst _ _ ly _ => some ly | _ => none

/-! ## Streams (R220 to R223) -/

/-- Endpoint ep of a hart. -/
def State.endpoint (s : State) (h ep : Nat) : Option Endpoint := (s.hart h).stg.eps.find ep

/-- Change endpoint ep of a hart. -/
def State.onEp (s : State) (h ep : Nat) (f : Endpoint → Endpoint) : State :=
  match s.endpoint h ep with
  | some x => s.onStg h (fun g => { g with eps := g.eps.ins ep (f x) })
  | none => s

/-- Discard the groups of the current message: what remains, and whether its end is still to come. -/
def dropMsg : List MsgGroup → List MsgGroup × Bool
  | [] => ([], true)
  | m :: r => if m.last then (r, false) else dropMsg r

/-- Deliver one group into a receive buffer, or discard it with the rest of a longer message. -/
def State.deliver (s : State) (h ep : Nat) (m : MsgGroup) : State :=
  s.onEp h ep (fun x => if x.skip then { x with skip := !m.last } else { x with buf := x.buf ++ [m] })

/-- Set an entry's next group. -/
def State.toGroup (s : State) (h : Nat) (e : VEntry) (g : Nat) : State :=
  (s.onEntry h e.seq (fun e => { e with next := g, since := none, probed := none })).sweep h

/-- The group of a message that a vsend sends. -/
def VEntry.message (e : VEntry) (v : Vec) (vs : Nat) : MsgGroup :=
  let total := ceilDiv (e.vl * ebits e.ty) 8
  let a := 256 * e.next
  { first := e.next, vl := e.vl, ebits := ebits e.ty, data := (v.reg vs).bytes a (min 256 (total - a)),
    valid := (v.reg vs).valid, last := decide (e.groups ≤ e.next + 1) }

/-- A vsend group (R221): it leaves when it has a credit. -/
def State.beginSend (s : State) (h : Nat) (e : VEntry) (vs : Nat) : Issue :=
  match s.endpoint h e.x1.toNat with
  | none => .go (s.toGroup h e e.groups)
  | some x =>
    match x.link with
    | .alone => .ext
    | .closed => .go (s.toGroup h e e.groups)
    | .joined pe =>
      match s.endpoint x.peer pe with
      | none => .go (s.toGroup h e e.groups)
      | some y =>
        if y.skip ∨ y.buf.length < 8 then
          .go ((s.deliver x.peer pe (e.message (s.hart h).vec vs)).toGroup h e (e.next + 1))
        else .ext

/-- The group g of a message that a vrecv of e writes into a register: the bits that both have elements for, and the validity of
each block they reach, the message's own, or cleared where the element sizes differ (R221). With unequal sizes it receives bits,
half a byte for an odd number of e2m1 elements. -/
def VEntry.received (e : VEntry) (m : MsgGroup) (g : Nat) (x : VReg) : VReg :=
  let eb := ebits e.ty
  let n := min (8 * m.data.length) (min (m.vl * m.ebits) (e.vl * eb) - 2048 * g)
  let d := x.putBits (2048 * g) n (ofBytes m.data)
  let j0 := 2048 * g / (32 * eb)
  let js := (List.range (if n = 0 then 0 else (2048 * g + n - 1) / (32 * eb) - j0 + 1)).map (j0 + ·)
  { d with valid := js.foldl (fun (b : BitVec 256) j => setBit b j (decide (m.ebits = eb) && bit m.valid j)) d.valid }

/-- A vrecv group (R221). -/
def State.beginRecv (s : State) (h : Nat) (e : VEntry) (vd : Nat) : Issue :=
  let ep := e.x1.toNat
  match s.endpoint h ep with
  | none => .go (s.toGroup h e e.groups)
  | some x =>
    match x.buf with
    | [] => if x.link = .closed then .go (s.toGroup h e e.groups) else .ext
    | m :: r =>
      let g := e.next
      let s := s.onVec h (fun v => v.setReg vd (e.received m g (v.reg vd)))
      let fin := decide (e.groups ≤ g + 1)
      let s := s.onEp h ep (fun x =>
        if fin && !m.last then { x with buf := (dropMsg r).1, skip := (dropMsg r).2 } else { x with buf := r })
      .go (s.toGroup h e (if m.last then e.groups else g + 1))

/-! ## Beginning the next group of a queue (R77 to R79) -/

/-- The entry of a queue whose group is next to begin. -/
def Vec.head (v : Vec) (q : VQueue) : Option VEntry := v.queue.find? (fun e => decide (e.q = q) && decide (e.next < e.groups))

/-- R78 and R79: the slip bound, which a reinstated instruction keeps to those before it in program order, and no older entry
still to write what the group reads or writes, or to read what it writes. -/
def Vec.ordered (v : Vec) (e : VEntry) : Bool :=
  let (lo, hi) := e.range e.next
  let older := v.queue.filter (fun a => a.seq < e.seq)
  decide ((older.filter (fun a => decide (a.pos ≤ e.pos))).length < e.slip + 1) &&
    older.all (fun a =>
      let (l, u) := a.rest a.landed
      let (l', u') := a.rest a.next
      !(spansMeet (a.writes l u) (e.reads lo hi)) && !(spansMeet (a.writes l u) (e.writes lo hi)) &&
        !(spansMeet (a.reads l' u') (e.writes lo hi)))

/-- Whether the fences before the entry let it begin (R263, R265), and older mst commands on its leeway register are
complete (R165). -/
def State.fenced (s : State) (h : Nat) (e : VEntry) : Bool :=
  let v := (s.hart h).vec
  let memOp := decide (e.q ≠ .vaq)
  (memOp && v.queue.any (fun a => decide (a.seq < e.seq) && (match a.op with | .fence _ => true | _ => false))) ||
    (memOp && !s.svOk h e.pos) ||
    (s.cmdsBefore h e).any (fun a => match a.op.ly with | some l => e.op.names l | none => false)

/-- A fence.vv at its turn: every older vector access and array command is complete (R265, R266). -/
def State.fenceDone (s : State) (h : Nat) (e : VEntry) (sys : Bool) : Bool :=
  let t := s.hart h
  !(t.vec.queue.any (fun a => decide (a.seq < e.seq) && decide (a.q ≠ .vaq))) &&
    (s.cmdsBefore h e).isEmpty && !(sys && t.remotes.any (fun r => r.pos < e.pos))

/-- Begin one group of an entry whose turn it is. -/
def State.beginGroup (s : State) (h : Nat) (e : VEntry) : Issue :=
  match e.op with
  | .ld a nt _ v2 k => s.beginLoad h e a nt v2 k
  | .st a nt vs v2 k => s.beginStore h e a nt vs v2 k
  | .amo f vs v2 k => s.beginAmo h e f vs v2 k
  | .qld _ fmt => s.beginQld h e fmt
  | .qst vs fmt ly => s.beginQst h e vs fmt ly
  | .ldfe _ k => s.beginLdfe h e k
  | .stfe vs k => s.beginStfe h e vs k
  | .pref nt => s.beginPref h e nt
  | .send vs => s.beginSend h e vs
  | .recv vd => s.beginRecv h e vd
  | .fence sys => if s.fenceDone h e sys then .go (s.toGroup h e 1) else .wait
  | .ray .tsamp vd v1 _ => s.beginTex h e false vd v1
  | .ray .tfetch vd v1 _ => s.beginTex h e true vd v1
  | _ =>
    let v := (s.hart h).vec
    let (v', r) := e.run v e.next
    .go ((s.onVec h (fun _ => v')).onEntry h e.seq (fun e => { e with next := e.next + 1, res := r }))

/-- Try to begin the next group of a queue of hart h, of an entry below a sequence number. -/
def State.issue (s : State) (h : Nat) (q : VQueue) (lim : Nat) : Option (VEntry × Issue) :=
  let v := (s.hart h).vec
  match v.head q with
  | none => none
  | some e => if lim ≤ e.seq then none else some (e, if v.ordered e && !s.fenced h e then s.beginGroup h e else .wait)

/-- The oldest arithmetic entry whose groups have all been taken lands: its x result is returned and it is complete
(R91). -/
def State.landVaq (s : State) (h : Nat) : Option State :=
  match (s.hart h).vec.queue.find? (fun e => decide (e.q = .vaq) && decide (e.groups ≤ e.next)) with
  | none => none
  | some e =>
    let s := s.onVec h (fun v => { v with queue := v.queue.filter (fun a => a.seq != e.seq) })
    some (match e.op.xdest, e.res with
      | some r, some w => s.setX h r w
      | _, _ => s)

/-- Land every arithmetic entry that may. -/
def State.landAll (s : State) (h : Nat) : Nat → State
  | 0 => s
  | n + 1 => match s.landVaq h with
    | some s => State.landAll s h n
    | none => s

/-! ## Stopping and reinstating (R99 to R102) -/

/-- The groups and accesses that may still be taken. -/
def Vec.work (v : Vec) : Nat := (v.queue.map (fun e => e.groups - e.next + e.pend.length + 1)).foldl (· + ·) 0

/-- Begun accesses of the vector queues that are not performed. -/
def Vec.begun (v : Vec) : Nat := (v.queue.map (fun e => e.pend.length)).foldl (· + ·) 0

/-- One step towards the completion of what has begun (R99, step 1): a begun access is performed; where each waits on the
strand's own older scalar accesses, one of those is. -/
def State.begunStep (s : State) (h : Nat) : Option State :=
  let t := s.hart h
  ((List.range t.vec.begun).findSome? (s.accessStep h)).orElse fun _ =>
    ((List.range t.stores.length).findSome? (s.drain h)).orElse fun _ =>
      (List.range t.loads.length).findSome? (s.loadReturn h)

/-- Complete every begun group of hart h (R99, step 1); n bounds the accesses that this takes. -/
def State.completeBegun (s : State) (h : Nat) : Nat → State
  | 0 => s
  | n + 1 =>
    if (s.hart h).vec.begun = 0 then s
    else match s.begunStep h with
      | some s => State.completeBegun s h n
      | none => s

/-- Complete what has begun, and land what is done. -/
def State.settle (s : State) (h : Nat) : State :=
  let t := s.hart h
  let s := s.completeBegun h (t.vec.begun + t.stores.length + t.loads.length)
  s.landAll h (s.hart h).vec.queue.length

/-- Run the entries below a sequence number for as long as their next groups can begin without waiting (R99, step 2). -/
def State.runOlder (s : State) (h lim : Nat) : Nat → State
  | 0 => s
  | n + 1 =>
    let next := [VQueue.vlq, VQueue.vaq, VQueue.vsq].findSome? (fun q =>
      match s.issue h q lim with
      | some (_, .go s) => some s
      | _ => none)
    match next with
    | some s => State.runOlder (s.settle h) h lim n
    | none => s

/-- The resume record of an entry (R99). -/
def VEntry.record (e : VEntry) : Resume :=
  { pos := e.pos, word := e.word, x1 := e.x1, x2 := e.x2, fv := e.fv, scales := e.scales, vl := e.vl, ty := e.ty, frm := e.frm,
    ncode := e.ncode, index := e.next * e.gsize }

/-- The vector side of hart h stops (R99): begun groups complete, entries below `lim` run on as far as they can, the
rest is recorded in sequence order and the queues are emptied. While a resume state is held, the handler's instructions
are discarded instead (R101). -/
def State.stopVector (s : State) (h lim : Nat) : State :=
  let held := !(s.hart h).vec.resume.isEmpty
  let s := s.settle h
  let s := if held then s else s.runOlder h lim (s.hart h).vec.work
  s.onVec h (fun v => { v with queue := [], resume := if held then v.resume else v.queue.map VEntry.record })

/-- The sequence number above every entry. -/
def State.allSeq (s : State) (h : Nat) : Nat := (s.hart h).vec.nextSeq

/-- Reinstate records in their queues, in their original order (R101). Two points that the spec leaves open are the model's
choice (log 59): they stand behind what the handler has queued, with no test of the depth of 16, and run with the slip in
force, since a record holds none. -/
def Vec.reinstate (v : Vec) (entered : Nat) (rs : List Resume) : Vec :=
  rs.foldl (fun (v : Vec) r =>
    match r.entry v.nextSeq entered v.slip with
    | some e => { v with queue := v.queue ++ [e], nextSeq := v.nextSeq + 1 }
    | none => v) v

/-- Where hart h stands after a return: the held resume state is reinstated where that is back at the interrupted code (R101),
so that no frame is left. The return's kind k is 0 for upret, 1 for sret, 2 for mret. -/
def State.reinstate (s : State) (h k : Nat) : State :=
  s.onHart h (fun t =>
    let left := framesAfter t.vec.frames k t.mode t.pc
    if left.isEmpty && !t.vec.frames.isEmpty then
      { t with vec := { t.vec with resume := [], frames := [] }.reinstate t.pos t.vec.resume }
    else { t with vec := { t.vec with frames := left } })

/-- Whether a vector instruction before a place in program order, of a kind, has still to touch a granule of n bytes at a
physical address (R195, R215). -/
def State.vecTouches (s : State) (h pos pa n : Nat) (kind : VEntry → Bool) : Bool :=
  let v := (s.hart h).vec
  let held := v.heldBefore pos
  held.zipIdx.any (fun (a, i) => kind a && s.mayTouch h (held.take i) a pa n) ||
    v.queue.any (fun a => decide (a.pos < pos) && kind a && s.touches h a pos pa n)

/-! ## Traps with the vector side (R65, R99) -/

/-- A trap of hart h on its scalar side: the vector side stops, every queued instruction running on as far as it can
(log 11), and the trap is taken. -/
def State.raise (s : State) (h code : Nat) (tval : Word) : State :=
  (s.stopVector h (s.allSeq h)).trapEntry h false code tval

/-- An illegal-instruction exception with the word as trap value (R28). -/
def State.illegal (s : State) (h : Nat) (w : BitVec 32) : State := s.raise h 2 (w.setWidth 64)

/-- Record a DIE_OFFLINE answer for a hart's context (R339). -/
def State.offlineNote (s : State) (h addr cause : Nat) : State :=
  s.fqPostFor h { FqEntry.mk3 10 addr (some h) with cause := cause }

/-- Whether a loop slot's registers wait for loads in flight: the record holds their values at the boundary (R147). -/
def State.slotWaits (s : State) (h : Nat) (base : Option Nat) : Bool :=
  let t := s.hart h
  match base.bind t.vec.slotOf with
  | none => false
  | some i =>
    let l := t.vec.loops.get LoopSlot.empty i
    let rs := l.creg.toList ++ (List.range 4).map (fun j => fld l.cfg (16 * j) 5)
    (t.loads ++ t.remotes.filterMap Remote.load).any (fun x => !x.isF && rs.contains x.rd)

/-- An absent access that cannot become a request raises the page fault of its type (R140); none while the strand must wait
with its request (R146, R147). -/
def State.absentOr (s : State) (h va : Nat) (w span : Bool) (vec : Option (Nat × Nat)) (base : Option Nat)
    (stop : State → State) : Option State :=
  match s.canRequest h with
  | some (tag, c) =>
    if s.pagerWaits c || s.slotWaits h base then none else some ((stop s).request h tag c va w span vec base)
  | none => some ((stop s).trapEntry h false (if w then 15 else 13) (word va))

/-- Whether an exception comes of the address's alignment, before any translation. -/
def Stop.early (x : Stop) : Bool := match x with | .exc c => decide (c = 0) || decide (c = 4) || decide (c = 6) | _ => false

/-- A scalar access of hart h does not go on: the exception, the answer of an offline die, or the absent request
(R56, R140, R339); it waits where two walks run on its core (R133). `base` is the instruction's base register (R147), none for
a fetch. The vector side stops with it; that it does so at an upcall too, where R99 names traps, is the model's reading
(log 60). -/
def State.scalarStop (s : State) (h : Nat) (va : Word) (store : Bool) (base : Option Nat) (x : Stop) : State :=
  let s := if x.early || decide (x = .busy) then s else s.dropStale h va.toNat (if base.isNone then .fetch else if store then .store else .load)
  match x with
  | .exc c => s.raise h c va
  | .offline c => (s.offlineNote h va.toNat c).raise h c va
  | .absent span => (s.absentOr h va.toNat store span none base (fun s => s.stopVector h (s.allSeq h))).getD s
  | .busy => s

/-- The base register of an entry, xs1 (R147); tsamp and tfetch, whose [19:15] names a vector register, have none
(log 61). -/
def VEntry.base (e : VEntry) : Option Nat :=
  match e.op with
  | .ray _ _ _ _ => none
  | _ => some (fld e.word 15 5)

/-- A vector entry stops at a group that fails a check: the older instructions run on, the rest is recorded, and the
cause is taken at the scalar boundary (R99, R100, R107); none while an absent request must wait (R146). -/
def State.vectorStop (s : State) (h : Nat) (e : VEntry) (x : Stop) (va : Nat) : Option State :=
  let stop := fun (s : State) => s.stopVector h e.seq
  match x with
  | .exc c => some ((stop s).trapEntry h false c (Sys2Proof.Machine.word va))
  | .offline c => some ((stop (s.offlineNote h va c)).trapEntry h false c (Sys2Proof.Machine.word va))
  | .absent span => s.absentOr h va (decide (e.q = .vsq)) span (some (e.vl, e.ty.toNat)) e.base stop
  | .busy => none

/-- The vector side takes one step: a group of a queue begins, starts its wait, or fails its checks. -/
def State.issueStep (s : State) (h : Nat) (q : VQueue) : Option State :=
  match s.issue h q (s.allSeq h) with
  | none => none
  | some (e, r) =>
    match r with
    | .wait => none
    | .ext => if e.since.isSome then none else some (s.onEntry h e.seq (fun e => { e with since := some s.dev.cy }))
    | .stop x va => s.vectorStop h e x va
    | .go s => some s

end Sys2Proof.Machine
end

