-- ==== Sys2Proof/Machine/Flags.lean ====
section
/-!
DEFINITION. Rounding modes, exception flags and mstatus.FS (R61); the legality tests that many instructions share.
-/
namespace Sys2Proof.Machine

/-- mstatus.FS is Off. -/
def State.fsOff (s : State) (h : Nat) : Bool := decide (fld (s.hart h).csr.mstatus 13 2 = 0)

/-- The rounding mode that an rm field selects; none where it is illegal (R61). -/
def State.rmode (s : State) (h : Nat) (rm : BitVec 3) : Option Nat :=
  if rm.toNat < 5 then some rm.toNat
  else if rm.toNat = 7 ∧ (s.hart h).frm.toNat < 5 then some (s.hart h).frm.toNat
  else none

/-- frm holds a rounding mode, as the instructions that round by a captured frm need (R61). -/
def State.frmOk (s : State) (h : Nat) : Bool := decide ((s.hart h).frm.toNat < 5)

/-- Accrue exception flags at retirement; a change of fcsr makes FS Dirty (R61) (log 53). -/
def State.accrue (s : State) (h : Nat) (fl : FFlags) : State :=
  if fl = 0 then s else s.onHart h (fun t => { t with fflags := t.fflags ||| fl, csr := t.csr.dirtyFs })

/-- A step of the current hart whose instruction is legal only under a test: else the illegal-instruction exception with
the word as trap value (R28). -/
def State.legal (s : State) (w : BitVec 32) (ok : Bool) (k : State) : Out :=
  if ok then .next k else .next (s.illegal s.cur w)

/-- As `legal`, for an own instruction that no management hart executes (R35). -/
def State.own (s : State) (w : BitVec 32) (ok : Bool) (k : State) : Out := s.legal w (ok && !isMgmt s.cur) k

/-- Whether the hart is not in U-mode (R35). -/
def State.priv (s : State) (h : Nat) : Bool := decide ((s.hart h).mode ≠ .u)

/-- Write X[rd] and go on. -/
def State.putX (s : State) (h : Nat) (rd : BitVec 5) (v : Word) : State := (s.setX h rd.toNat v).retire h

/-- Write F[rd], accrue flags and go on. -/
def State.putF (s : State) (h : Nat) (rd : BitVec 5) (r : Nat × FFlags) : State :=
  ((s.setF h rd.toNat (BitVec.ofNat 32 r.1)).accrue h r.2).retire h

/-- Write X[rd] with flags and go on. -/
def State.putXF (s : State) (h : Nat) (rd : BitVec 5) (v : Word) (fl : FFlags) : State :=
  ((s.setX h rd.toNat v).accrue h fl).retire h

/-- X[n] of the current hart. -/
def State.rx (s : State) (n : BitVec 5) : Word := s.x s.cur n.toNat

/-- F[n] of the current hart, as a number. -/
def State.rf (s : State) (n : BitVec 5) : Nat := (s.f s.cur n.toNat).toNat

end Sys2Proof.Machine
end

