-- ==== Sys2Proof/Machine/Copies.lean ====
section
/-!
DEFINITION. Copies in flight (R213 to R218, R318): the pieces of a transfer, their addresses, the move of one piece,
completion, failure, the watermark, and the arrivals that a copy counts on ring stages (R209).
-/
namespace Sys2Proof.Machine

/-! ## Where a transfer stands -/

/-- The channel numbered ch of a hart: 0 to 3 its own, from 4 on the detached ones (R318). -/
def Hart.chanAt (t : Hart) (ch : Nat) : Option Chan :=
  if ch < 4 then t.stg.chans.find ch else (t.stg.detached[ch - 4]?).map Detached.chan

/-- The number that a channel has in the strand's own registers: a detached one keeps the one it was detached from (R314,
R318). -/
def Hart.chanNum (t : Hart) (ch : Nat) : Nat :=
  if ch < 4 then ch else ((t.stg.detached[ch - 4]?).map Detached.num).getD ch

/-- Change that channel. -/
def Hart.onChan (t : Hart) (ch : Nat) (f : Chan → Chan) : Hart :=
  if ch < 4 then { t with stg := { t.stg with chans := t.stg.chans.ins ch (f (t.stg.chans.get Chan.start ch)) } }
  else { t with stg := { t.stg with detached := t.stg.detached.modify (ch - 4) (fun d => { d with chan := f d.chan }) } }

/-- The k-th transfer of a channel. -/
def State.xfer (s : State) (h ch k : Nat) : Option Xfer := ((s.hart h).chanAt ch).bind (fun c => c.xfers[k]?)

/-- Change the k-th transfer of a channel. -/
def State.onXfer (s : State) (h ch k : Nat) (f : Xfer → Xfer) : State :=
  s.onHart h (fun t => t.onChan ch (fun c => { c with xfers := c.xfers.modify k f }))

/-- The word that cpstat reads (R216). -/
def Chan.stat (c : Chan) : Word := word (c.wm.toNat + c.err.toNat * 2 ^ 32 + c.xfers.length % 16 * 2 ^ 33)

/-- Whether an address lies in a remote window. -/
def isRemote (pa : Nat) : Bool := match regionOf pa with | .remote _ _ => true | _ => false

/-- The engine writes a word of an image: at its home, or in a remote window by an RDMA WRITE. -/
def State.imagePut (s : State) (pa : Nat) (w : Word) : State :=
  if isRemote pa then
    let (_, qp, ra, key) := s.remoteTo pa
    if s.qpSends qp then s.send 2 qp (bytesOf 8 ra.toNat ++ bytesOf 4 key ++ bytesOf 8 w.toNat) else s
  else s.perform true mgmtBase none pa (bytesOf 8 w.toNat)

/-- A detached channel's cpstat word in its image follows it (R318). -/
def State.imageStat (s : State) (h ch : Nat) : State :=
  if ch < 4 then s
  else match (s.hart h).stg.detached[ch - 4]? with
    | none => s
    | some d => s.imagePut d.image d.chan.stat

/-- A detached channel with nothing in flight is no longer kept. -/
def State.dropDetached (s : State) (h : Nat) : State :=
  s.onStg h (fun g => { g with detached := g.detached.filter (fun d => !d.chan.xfers.isEmpty) })

/-! ## Pieces (R215) -/

/-- How many pieces a run may have: those its 8-byte destination granules make. -/
def Xfer.perRun (x : Xfer) : Nat := x.len / 8 + 2

/-- The number of runs. -/
def Xfer.runs (x : Xfer) : Nat := x.dims.foldl (fun n d => n * max d.1 1) 1

/-- The source and destination offsets of run r: Σ i·s, Σ i·d (R213). -/
def runOffs : List (Nat × Int × Int) → Nat → Int × Int
  | [], _ => (0, 0)
  | d :: ds, r =>
    let n := max d.1 1
    let i : Int := (r % n : Nat)
    let (a, b) := runOffs ds (r / n)
    (i * d.2.1 + a, i * d.2.2 + b)

/-- Piece n: its source address, destination address and length; length 0 where the run has no such piece. -/
def Xfer.piece (x : Xfer) (n : Nat) : Nat × Nat × Nat :=
  let r := n / x.perRun
  let j := n % x.perRun
  let (so, do_) := runOffs x.dims r
  let src := ((x.src : Int) + so).toNat
  let dst := ((x.dst : Int) + do_).toNat
  let lo := max dst (dst / 8 * 8 + 8 * j)
  let hi := min (dst + x.len) (dst / 8 * 8 + 8 * j + 8)
  (src + (lo - dst), lo, hi - lo)

/-- The number of pieces that move bytes. -/
def Xfer.total (x : Xfer) : Nat :=
  ((List.range x.runs).map (fun r =>
    let dst := ((x.dst : Int) + (runOffs x.dims r).2).toNat
    (dst % 8 + x.len + 7) / 8)).foldl (· + ·) 0

/-- Whether every byte has been moved. -/
def Xfer.done (x : Xfer) : Bool := decide (x.total ≤ x.moved.length)

/-- The pieces of run r that write bytes of [a, a + n). -/
def Xfer.piecesIn (x : Xfer) (r a n : Nat) : List Nat :=
  let dst := ((x.dst : Int) + (runOffs x.dims r).2).toNat
  let base := dst / 8 * 8
  let lo := (max a base - base) / 8
  let hi := (min (a + n) (dst + x.len) + 7 - base) / 8
  if a + n ≤ dst ∨ dst + x.len ≤ a then [] else (List.range (hi - lo)).map (fun i => r * x.perRun + lo + i)

/-- Whether every byte that the copy writes in [a, a + n) has been moved. -/
def Xfer.landedIn (x : Xfer) (a n : Nat) : Bool :=
  (List.range x.runs).all (fun r => (x.piecesIn r a n).all (fun p => x.moved.contains p))

/-! ## Addresses of the engine -/

/-- The state with the launching strand's hart as the transfer's own address space sees it: that of its mode at the launch,
whatever MPRV then was, which is of loads and stores alone (R127). -/
def Xfer.view (x : Xfer) (s : State) : State :=
  s.onHart x.hart (fun t =>
    { t with mode := x.mode, csr := { t.csr with satp := x.satp, mstatus := setBit x.mstatus 17 false },
             task := some { ctx := x.ctx, cls := 0, prio := 0, slot := none, coord := 0 } })

/-- The physical address of byte o of a captured ring window (R206). -/
def RingEp.addr (g : RingEp) (o : Nat) : Nat := g.basePa + ((g.r + o / g.z) % g.n) * g.z + o % g.z

/-- Whether the endpoints are virtual: not of M-mode, nor of S-mode under Bare (R127). -/
def Xfer.virt (x : Xfer) : Bool := !(decide (x.mode = .m) || (decide (x.mode = .s) && decide (fld x.satp 60 4 ≠ 10)))

/-- The address of one byte of an endpoint: a ring endpoint through R as captured, any other through the address space
of the launch (R206, R215). -/
def State.engineAt (s : State) (x : Xfer) (va : Nat) (store : Bool) : XRes :=
  let a : Acc' := if store then .store else .load
  let win := (match winOf va with | .vault _ => true | .ring _ _ => true | _ => false) && x.virt
  let hit := match winOf va, (if store then x.dstRing else x.srcRing) with
    | .ring _ off, some g => XRes.ok (Hit.phys (g.addr off))
    | _, _ => (x.view s).resolve x.hart va 1 a
  match hit with
  | .stop z => .stop z
  | .ok y => match regionOf y.pa with
    | .reg _ => .stop (.exc a.accessFault)
    | .remote _ _ => .stop (.exc a.accessFault)
    | .vault c w =>
      -- a window endpoint has passed its check at the launch and goes on while a wayset waits for it (R219)
      if win && decide (s.wayRole c w = 1) && s.dieUp (dieOfCore c) then
        (if !store && s.poisoned y.pa 1 then .stop (.exc a.accessFault) else .ok y)
      else s.target y 1 a
    | _ => s.target y 1 a

/-- The addresses of n bytes, or the first that has none. -/
def State.engineRange (s : State) (x : Xfer) (store : Bool) : Nat → Nat → List Hit → Except (Stop × Nat) (List Hit)
  | _, 0, acc => .ok acc.reverse
  | va, n + 1, acc =>
    match s.engineAt x va store with
    | .stop z => .error (z, va)
    | .ok y => s.engineRange x store (va + 1) n (y :: acc)

/-- An address in each page that an endpoint of a transfer touches outside the windows. -/
def Xfer.pages (x : Xfer) (store : Bool) : List Nat :=
  if !x.virt then []
  else ((List.range x.runs).flatMap (fun r =>
    let (so, do_) := runOffs x.dims r
    let a := (if store then (x.dst : Int) + do_ else (x.src : Int) + so).toNat
    (List.range ((a + x.len - 1) / 4096 - a / 4096 + 1)).map (fun i => max a ((a / 4096 + i) * 4096)))).filter
      (fun a => winOf a = .none)

/-- Set A and D in the leaves of these pages, or the first that has none (R131). -/
def State.engineLeaves (s : State) (x : Xfer) (store : Bool) : List Nat → Except (Stop × Nat) State
  | [] => .ok s
  | va :: r =>
    match s.engineAt x va store with
    | .stop z => .error (z, va)
    | .ok y => State.engineLeaves (s.setAD y) x store r

/-! ## Failure and completion (R216) -/

/-- The cause code that an entry of the fault queue carries for a stop of a copy. -/
def Stop.cause (z : Stop) (store : Bool) : Nat :=
  match z with
  | .exc c => c
  | .offline c => c
  | .absent _ => if store then 15 else 13
  | .busy => 0

/-- A transfer fails: it leaves its channel, whose error flag is set, and the failure is reported. -/
def State.failXfer (s : State) (h ch k : Nat) (addr cause : Nat) (offline : Bool) : State :=
  match s.xfer h ch k with
  | none => s
  | some x =>
    let s := s.onHart h (fun t => t.onChan ch (fun c => { c with xfers := dropAt c.xfers k, err := true }))
    let s := s.imageStat h ch
    let s := s.fqPost x.ctx { FqEntry.mk3 1 addr (some h) with chan := (s.hart h).chanNum ch, xfer := x.id.toNat, cause := cause }
    let s := if offline then s.fqPost x.ctx { FqEntry.mk3 10 addr (some h) with cause := cause } else s
    s.dropDetached h

/-- Advance the watermark past contiguous completions. -/
def advanceWm : Nat → BitVec 32 → List (BitVec 32) → BitVec 32 × List (BitVec 32)
  | 0, wm, l => (wm, l)
  | n + 1, wm, l => if l.contains wm then advanceWm n (wm + 1) (l.filter (fun i => i != wm)) else (wm, l)

/-- Transfer k of a channel completes. -/
def State.finishXfer (s : State) (h ch k : Nat) : State :=
  match s.xfer h ch k with
  | none => s
  | some x =>
    let s := s.onHart h (fun t => t.onChan ch (fun c =>
      let l := x.id :: c.above
      let (wm, l) := advanceWm l.length c.wm l
      { c with xfers := dropAt c.xfers k, wm := wm, above := l }))
    (s.imageStat h ch).dropDetached h

/-! ## Ring stages (R206, R208, R209) -/

/-- Change ring `id` of a cluster. -/
def State.onRing (s : State) (cl id : Nat) (f : Ring → Ring) : State :=
  s.onCluster cl (fun c => { c with rings := c.rings.map (fun r => if r.id = id then f r else r) })

/-- The stage with a sequence number. -/
def Ring.stage (r : Ring) (q : Nat) : Option Stage := r.stages.find? (fun t => t.seq = q)

/-- Change the stage with a sequence number. -/
def Ring.onStage (r : Ring) (q : Nat) (f : Stage → Stage) : Ring :=
  { r with stages := r.stages.map (fun t => if t.seq = q then f t else t) }

/-- The lowest sequence number whose stage is not complete (R209). -/
def Ring.open_ (r : Ring) : Nat :=
  match leastBy Stage.seq (r.stages.filter (fun t => !t.complete)) with
  | some t => t.seq
  | none => r.r + r.n

/-- The number of the first scratch line of the stage with a sequence number, and how many it has; none in a vault. -/
def Ring.lines (r : Ring) (q : Nat) : Option (Nat × Nat) :=
  if r.vault then none else some (lineOf (r.basePa + q % r.n * r.z), r.z / 128)

/-- Stage E and those after it complete while their arrivals reach their expectations; completion sets the lines of a
scratch stage full. -/
def State.completeStages (s : State) (cl id : Nat) : Nat → State
  | 0 => s
  | n + 1 =>
    match s.ring cl id with
    | none => s
    | some r =>
      match r.stage r.open_ with
      | none => s
      | some t =>
        if t.exp ≤ t.arr then
          let s := s.onRing cl id (fun r => r.onStage t.seq (fun t => { t with complete := true }))
          let s := match r.lines t.seq with
            | some (l, k) => s.setLines l k true
            | none => s
          State.completeStages s cl id n
        else s

/-- One arrival on a stage that is in the window and not complete; false where it counts nowhere. -/
def State.arrive (s : State) (cl id q : Nat) : State × Bool :=
  match (s.ring cl id).bind (fun r => r.stage q) with
  | none => (s, false)
  | some t =>
    if t.complete then (s, false)
    else ((s.onRing cl id (fun r => r.onStage q (fun t => { t with arr := t.arr + 1 }))).completeStages cl id 17, true)

/-- A copy whose last byte in stage q has landed counts an arrival, or is reported late (R209). -/
def State.copyArrive (s : State) (x : Xfer) (ch id q addr : Nat) : State :=
  let (s, ok) := s.arrive (clOf x.hart) id q
  if ok then s else s.fqPost x.ctx { FqEntry.mk3 3 addr (some x.hart) with chan := (s.hart x.hart).chanNum ch, xfer := x.id.toNat }

/-! ## Moving a piece (R215) -/

/-- Whether an older store, vector store or vector atomic of the launching strand still has to perform on the granules of
n bytes, or, for a write, an older scalar load has still to read there (R215, R261: that R217 leaves only older vector
loads unordered is log 20), or a fence.sv before the launch is not yet met (R263). -/
def State.copyWaits (s : State) (x : Xfer) (pa n : Nat) (write : Bool) : Bool :=
  let t := s.hart x.hart
  !s.svOk x.hart x.pos || t.stores.any (fun y => decide (y.pos < x.pos) && shareGranule y.pa y.width pa n) ||
    (write && t.loads.any (fun y => decide (y.pos < x.pos) && shareGranule y.pa y.width pa n)) ||
    s.vecTouches x.hart x.pos pa n (fun a => decide (a.q = .vsq))

/-- The request tags of a transfer's task, bit by tag: the strand's, or those in the image that a detached channel's task was
saved to (R317, R318); a tag word in a remote window is not read: no tag is free there (log 28). -/
def State.engineTags (s : State) (h ch : Nat) : Word :=
  if ch < 4 then (s.hart h).stg.tags.foldl (fun (w : Word) t => setBit w t true) 0
  else match (s.hart h).stg.detached[ch - 4]? with
  | some d => if isRemote d.head then 0xFFFF else word (s.mem64 d.head 8)
  | none => 0

/-- The engine writes the request tags of a detached channel's image. -/
def State.putImageTags (s : State) (h ch : Nat) (w : Word) : State :=
  match (s.hart h).stg.detached[ch - 4]? with
  | some d => s.imagePut d.head w
  | none => s

/-- The engine takes a request tag. -/
def State.engineTake (s : State) (h ch tag : Nat) : State :=
  if ch < 4 then s.onStg h (fun g => { g with tags := g.tags ++ [tag] })
  else s.putImageTags h ch (setBit (s.engineTags h ch) tag true)

/-- The engine takes a request tag for an absent address and posts its record, with slot valid 0; without a free tag, or
while the pager queue cannot take the record (R146), it waits; without a usable pager queue the transfer fails. That the
engine's requests are never narrow, whatever the strand's NARROW, is the model's choice (log 20). -/
def State.engineAbsent (s : State) (h ch k : Nat) (x : Xfer) (va : Nat) (store span : Bool) : Option State :=
  if !s.pagerOk x.ctx then some (s.failXfer h ch k va (if store then 15 else 13) false)
  else if s.pagerWaits x.ctx then none
  else match (List.range 16).find? (fun i => !bit (s.engineTags h ch) i) with
    | none => none
    | some tag =>
      let rec_ := s.pagerRecord h x.ctx tag va store span false none none
      let s := s.engineTake h ch tag
      let s := s.onXfer h ch k (fun x => { x with tag := some (tag, va) })
      some (s.push (fld (s.ctx x.ctx).pager 0 10) .pager rec_ h).1

/-- A transfer of a detached channel that waits for the notice of a tag finds it in the image, where Pilot sets it (R321,
log 28): the tag becomes free, and the transfer goes on or, starved, fails. -/
def State.copyNotice (s : State) (h ch k : Nat) (x : Xfer) : Option State :=
  match x.tag with
  | none => none
  | some (tag, va) =>
    let w := s.engineTags h ch
    if ch < 4 || !bit w (16 + tag) then none
    else
      let s := s.putImageTags h ch (setBit (setBit (setBit w tag false) (16 + tag) false) (32 + tag) false)
      some (if bit w (32 + tag) then s.failXfer h ch k va 0 false else s.onXfer h ch k (fun x => { x with tag := none }))

/-- The translation of an address that an endpoint of a transfer finds stale, if any (R131). -/
def State.engineStale (s : State) (x : Xfer) (va : Nat) (store : Bool) : Option TlbEntry :=
  (x.view s).staleAt x.hart va (if store then .store else .load)

/-- What a failed address does to a transfer; a translation found stale there is discarded first (R131). The engine waits where
two walks run on its core (R133). -/
def State.engineStop (s : State) (h ch k : Nat) (x : Xfer) (va : Nat) (store : Bool) (z : Stop) : Option State :=
  let u := s.discard x.hart (s.engineStale x va store)
  match z with
  | .absent span => u.engineAbsent h ch k x va store span
  | .offline c => some (u.failXfer h ch k va c true)
  | .exc c => some (u.failXfer h ch k va c false)
  | .busy => none

/-- After a piece has been moved: lines of a full copy that are done become full, and a ring stage whose last byte has
landed counts its arrival. -/
def State.afterPiece (s : State) (h ch k : Nat) (dst pa : Nat) : State :=
  match s.xfer h ch k with
  | none => s
  | some x =>
    let s := match x.full, regionOf pa with
      | true, .scratch _ _ => if x.landedIn (dst / 128 * 128) 128 then s.setFull (lineOf pa) true else s
      | _, _ => s
    match winOf dst, x.dstRing with
    | .ring _ off, some g =>
      let q := g.r + off / g.z
      if !x.stagesDone.contains q && x.landedIn (dst - off % g.z) g.z then
        (s.onXfer h ch k (fun x => { x with stagesDone := x.stagesDone ++ [q] })).copyArrive x ch g.id q dst
      else s
    | _, _ => s

/-- Before its first byte moves, a transfer sets A and D in the leaves of both endpoints (R131). -/
def State.copyLeaves (s : State) (x : Xfer) : Except (Stop × Nat × Bool) State :=
  if !x.moved.isEmpty then .ok s
  else match (if x.zero then .ok s else s.engineLeaves x false (x.pages false)) with
  | .error (z, va) => .error (z, va, false)
  | .ok s =>
    match s.engineLeaves x true (x.pages true) with
    | .error (z, va) => .error (z, va, true)
    | .ok s => .ok s

/-- The engine moves piece n of transfer k of a channel: it translates both endpoints, waits for older stores to the
same granules, and writes the bytes (log 20). -/
def State.copyPiece (s : State) (h ch k n : Nat) : Option State :=
  match s.xfer h ch k with
  | none => none
  | some x =>
    let (src, dst, len) := x.piece n
    if x.tag.isSome then s.copyNotice h ch k x
    else if len = 0 ∨ x.runs * x.perRun ≤ n ∨ x.moved.contains n then none
    else match (if x.zero then .ok [] else s.engineRange x false src len []) with
    | .error (z, va) => s.engineStop h ch k x va false z
    | .ok from_ =>
      match s.engineRange x true dst len [] with
      | .error (z, va) => s.engineStop h ch k x va true z
      | .ok tos =>
        if from_.any (fun y => s.copyWaits x y.pa 1 false) || tos.any (fun y => s.copyWaits x y.pa 1 true) then none
        else match s.copyLeaves x with
        | .error (z, va, store) => s.engineStop h ch k x va store z
        | .ok s =>
          let s := (from_ ++ tos).foldl (fun (s : State) y => s.setAD y) s
          let bytes := if x.zero then List.replicate len 0 else from_.map (fun y => s.byte y.pa)
          let s := match tos.head? with
            | some y =>
              -- the granule of 8 bytes lies in one page and one stage: its bytes are contiguous
              s.perform true mgmtBase none y.pa bytes
            | none => s
          let s := s.onXfer h ch k (fun x => { x with moved := n :: x.moved })
          some (s.afterPiece h ch k dst ((tos.head?.map Hit.pa).getD 0))

end Sys2Proof.Machine
end

