-- ==== Sys2Proof/Machine/DevRegs.lean ====
section
/-!
DEFINITION. The device registers (R326, R351) and what a load or store of each does: home table, shootdown, PGDONE,
ARRBIND, TSAVE, queue descriptors, distributor counters, fault queue descriptors, PREEMPT, PWRCAP, event counters,
chronometer, LINKEV, context descriptors, ALARM, the RoCEv2 tables, BNMBOX.
-/
namespace Sys2Proof.Machine

/-- Which 8-byte register an offset from 0x0180_0000_0000 names (Table 13-9). -/
inductive DevReg where
  | home (code : Nat)
  | shootVa | shootCmd | pgdone
  | arrbind (m : Nat)
  | tsave (m w : Nat)
  | queue (q w : Nat)
  | counter (i w : Nat)
  | fq (c w : Nat)
  | preempt | pwrcap
  | event (i : Nat)
  | chronAdj | chronStep | linkev
  | ctx (c w : Nat)
  | alarm (h : Nat)
  | qpidx
  | qpwin (w : Nat)
  | qpcmd
  | mbox (w : Nat)
  | none
  deriving DecidableEq, Repr

/-- The register at an offset that is a multiple of 8. -/
def devReg (o : Nat) : DevReg :=
  if 0x2008 ≤ o ∧ o < 0x2400 then .home ((o - 0x2000) / 8)
  else if o = 0x3000 then .shootVa
  else if o = 0x3008 then .shootCmd
  else if o = 0x3010 then .pgdone
  else if 0x10000 ≤ o ∧ o < 0x10400 then .arrbind ((o - 0x10000) / 8)
  else if 0x11000 ≤ o ∧ o < 0x12000 then .tsave ((o - 0x11000) / 32) (o % 32 / 8)
  else if 0x20000 ≤ o ∧ o < 0x30000 then .queue ((o - 0x20000) / 64) (o % 64 / 8)
  else if 0x30000 ≤ o ∧ o < 0x34000 then .counter ((o - 0x30000) / 16) (o % 16 / 8)
  else if 0x40000 ≤ o ∧ o < 0x40400 then .fq ((o - 0x40000) / 64) (o % 64 / 8)
  else if o = 0x41000 then .preempt
  else if o = 0x42000 then .pwrcap
  else if 0x43000 ≤ o ∧ o < 0x43028 then .event ((o - 0x43000) / 8)
  else if o = 0x44000 then .chronAdj
  else if o = 0x44008 then .chronStep
  else if o = 0x44010 then .linkev
  else if 0x48000 ≤ o ∧ o < 0x48800 then .ctx ((o - 0x48000) / 128) (o % 128 / 8)
  else if 0x50000 ≤ o ∧ o < 0x54040 then .alarm ((o - 0x50000) / 8)
  else if o = 0x60000 then .qpidx
  else if 0x60040 ≤ o ∧ o < 0x60080 then .qpwin ((o - 0x60040) / 8)
  else if o = 0x60080 then .qpcmd
  else if 0x70000 ≤ o ∧ o < 0x70100 then .mbox ((o - 0x70000) / 8)
  else .none

/-- The 8 bytes from byte lo of a byte table. -/
def tabWord (t : Tab Byte) (lo : Nat) : Word := word (ofBytes ((List.range 8).map (fun i => t.get 0 (lo + i))))

/-- Put 8 bytes into a byte table. -/
def putTabWord (t : Tab Byte) (lo : Nat) (v : Word) : Tab Byte :=
  ((bytesOf 8 v.toNat).zipIdx).foldl (fun (t : Tab Byte) (b, i) => t.put 0 (lo + i) b) t

/-- What the register holds, without the side effects of a load; none where there is no register (R16, R326). -/
def State.devPeek (s : State) (r : DevReg) : Option Word :=
  match r with
  | .home c => some (s.dev.home.get 0 c)
  | .shootVa => some 0
  | .shootCmd => some (wordOfBool s.dev.shoot.isSome)
  | .pgdone => some 0
  | .arrbind m => some ((s.cluster m).arrbind.setWidth 64)
  | .tsave m w => some (tabWord (s.cluster m).tsave (8 * w))
  | .queue q w =>
    let x := s.queue q
    some (match w with
      | 0 => x.qctl | 1 => x.qlim | 2 => x.qovf | 3 => x.qovn | 4 => x.qcons | 5 => x.qbat
      | 6 => word (x.pinned + x.inOverflow * 2 ^ 14)
      | _ => 0)
  | .counter i w => some (s.dev.counters.get 0 (2 * i + w))
  | .fq c w =>
    let x := s.ctx c
    some (match w with
      | 0 => x.fqbase | 1 => x.fqctl
      | 2 => word (x.fqhead % 2 ^ 32 + x.fqtail % 2 ^ 32 * 2 ^ 32)
      | 3 => word x.fqlost
      | _ => 0)
  | .preempt => some 0
  | .pwrcap => some s.dev.pwrcap
  | .event i => some (s.dev.events.get 0 i)
  | .chronAdj => some (s.dev.chronAdj.setWidth 64)
  | .chronStep => some 0
  | .linkev => some (s.dev.linkev.headD 0)
  | .ctx c w =>
    let x := s.ctx c
    some (match w with
      | 0 => x.ctl | 1 => x.pager | 2 => x.upvec | 3 => x.stkb | 4 => x.stks
      | _ => if 8 ≤ w ∧ w < 12 then x.vst.get 0 (w - 8) else 0)
  | .alarm h => some (s.hart h).alarm
  | .qpidx => some s.dev.qpidx
  | .qpwin w => some (s.dev.qpwin.get 0 w)
  | .qpcmd => some (word (s.dev.qpBusy.isSome.toNat + s.dev.qpRefused.toNat * 2))
  | .mbox w => some (tabWord s.dev.bnmbox (8 * w))
  | .none => none

/-- A load of n bytes of a device register: the value and the state. An 8-byte load of LINKEV removes the event
(R332). -/
def State.devLoad (s : State) (off n : Nat) : Option (Nat × State) :=
  let r := devReg (off / 8 * 8)
  (s.devPeek r).map (fun v =>
    (v.toNat / 2 ^ (8 * (off % 8)) % 2 ^ (8 * n),
      if r = .linkev ∧ n = 8 then s.onDev (fun d => { d with linkev := d.linkev.tail }) else s))

/-- The answer of a store to a device register. -/
inductive DevRes where
  /-- a store/AMO access fault; nothing changes (R351) -/
  | fault
  /-- not before something under way is done -/
  | wait
  /-- done -/
  | ok (s : State)
  /-- started: the store retires when the change is done (R120, R327) -/
  | held (s : State)

/-- A management hart in S-mode or M-mode (R351). -/
def State.isPilot (s : State) (h : Nat) : Bool := isMgmt h && s.priv h

/-- Bits lo to hi of a word are 0. -/
def zeroBits (v : Word) (lo n : Nat) : Bool := decide (fld v lo n = 0)

/-- A store that needs only tests: done where they hold, else the fault. -/
def devIf (ok : Bool) (s : State) : DevRes := if ok then .ok s else .fault

/-- Whether a way of a core's slice is reserved (role 10). -/
def State.reservedWay (s : State) (core w : Nat) : Bool := decide (s.wayRole core w = 2)

/-- The four ways that a CXVST word names on a die: core and way (Table 13-12). -/
def vstWays (d : Nat) (v : Word) : List (Nat × Nat) :=
  (List.range 4).map (fun j => (d * 128 + fld v (11 * j + 4) 7, fld v (11 * j) 4))

/-- The join counters that a waiting exit has checked and not decremented (R237, R238). -/
def Hart.joins (t : Hart) : List Nat := match t.wait with | .exit es => es.filterMap ExitEdge.join | _ => []

/-- Whether an access in flight older than a snapshot remains (R135). -/
def State.olderInFlight (s : State) (snap : Tab Nat) : Bool :=
  snap.any (fun (p : Nat × Nat) =>
    let t := s.hart p.1
    t.stores.any (fun x => x.pos < p.2) || t.loads.any (fun x => x.pos < p.2) || t.remotes.any (fun x => x.pos < p.2) ||
      (decide (t.pos ≤ p.2) && !t.joins.isEmpty) || t.vec.queue.any (fun e => decide (e.pos < p.2) && !e.pend.isEmpty)) ||
  s.clusters.any (fun (q : Nat × Cluster) => (q.2.executing.toList ++ q.2.cmdq ++ q.2.fills).any (fun a =>
    a.pos < snap.get 0 a.hart))

/-- Whether an sfence.vma-like selection covers a translation buffer entry (R63, R135): by the 57 bits of the address that
Sv57 translates. -/
def tlbSel (allAddr allAsid : Bool) (va asid : Nat) (e : TlbEntry) : Bool :=
  (allAddr || decide (e.vpn % 2 ^ (57 - e.bits) = va % 2 ^ 57 / 2 ^ e.bits)) &&
    (allAsid || (!e.global && decide (e.asid = asid)))

/-- The same for a walk-cache entry: those on the path to the address. -/
def walkSel (allAddr allAsid : Bool) (va asid : Nat) (w : WalkEntry) : Bool :=
  (allAddr || decide (w.prefix_ = va / 2 ^ (12 + 9 * w.level) % 2 ^ (45 - 9 * w.level))) &&
    (allAsid || decide (w.asid = asid))

/-- Remove the selected translations of a core; walks under way, which may have read what is to go, are given up. -/
def Core.flush (c : Core) (walksOnly allAddr allAsid : Bool) (va asid : Nat) : Core :=
  { c with
    tlb := if walksOnly then c.tlb else c.tlb.filter (fun e => !tlbSel allAddr allAsid va asid e)
    walks := c.walks.filter (fun w => !walkSel allAddr allAsid va asid w)
    walking := [] }

/-- Every core's translations are flushed (R135). -/
def State.flushAll (s : State) (cmd : Word) : State :=
  { s with cores := s.cores.map (fun (p : Nat × Core) =>
      (p.1, p.2.flush (bit cmd 18) (bit cmd 16) (bit cmd 17) s.dev.shootVa.toNat (fld cmd 0 16))) }

/-- The harts with accesses in flight, each with its place in program order. -/
def State.snapshot (s : State) : Tab Nat := s.harts.map (fun (p : Nat × Hart) => (p.1, p.2.pos))

/-- A PGDONE store (R145): the notice goes to the strand, or to the copy engine that took the tag (R215): that of a channel of
the strand's own task, since the tags of a task that is off its core are in its image (R321). A notice for a tag that has
one pending takes its place, where the rule says nothing (log 63). -/
def State.pgdone (s : State) (v : Word) : DevRes :=
  let h := fld v 0 12
  let tag := fld v 12 4
  if !zeroBits v 24 40 || isMgmt h || decide (64 < fld v 17 7) || !(s.hart h).stg.tags.contains tag then .fault
  else
    let starved := bit v 16
    let chs := (List.range 4).flatMap (fun ch =>
      (List.range ((((s.hart h).chanAt ch).map (fun c => c.xfers.length)).getD 0)).map (fun k => (ch, k)))
    let mine := fun (p : Nat × Nat) => match (s.xfer h p.1 p.2).bind Xfer.tag with
      | some (t, _) => decide (t = tag)
      | none => false
    match chs.find? mine with
    | some (ch, k) =>
      let va := (((s.xfer h ch k).bind Xfer.tag).map Prod.snd).getD 0
      let s := s.onStg h (fun g => { g with tags := g.tags.filter (fun t => t != tag) })
      if starved then .ok (s.failXfer h ch k va 0 false)
      else .ok (s.onXfer h ch k (fun x => { x with tag := none }))
    | none =>
      .ok (s.onStg h (fun g => { g with
        notices := g.notices.filter (fun n => n.tag != tag) ++ [⟨tag, starved, fld v 17 7⟩] }))

/-- An ARRBIND store (R179). -/
def State.putArrbind (s : State) (m : Nat) (v : Word) : DevRes :=
  let c := s.cluster m
  let busy := c.lease.holder.isSome || (List.range 16).any (fun i =>
    let t := s.hart (strandAt m i)
    (t.arr.req || t.arr.area.isSome) && decide (t.task.map Task.ctx = some (fld c.arrbind 0 4))) ||
    s.parked.any (fun p => p.held && decide (p.area.map Prod.fst = some m) && decide (p.task.ctx = fld c.arrbind 0 4))
  if !zeroBits v 5 59 then .fault
  else if v.setWidth 5 = c.arrbind ∨ (bit c.arrbind 4 ∧ busy) then .ok s
  else .ok (s.onCluster m (fun c => { c with arrbind := v.setWidth 5, clearing := true }))

/-- A TSAVE store of 8 entries (R184); an area that a park is writing tiles into holds tiles. -/
def State.putTsave (s : State) (m w : Nat) (v : Word) : DevRes :=
  let c := s.cluster m
  let bad := (List.range 8).any (fun i =>
    let n := fld v (8 * i) 8
    let k := 8 * w + i
    let old := (c.tsave.get 0 k).toNat
    decide (n ≠ old) &&
      (decide (n / 64 % 2 = 1) || (decide (128 ≤ n) && !s.reservedWay (coreAt m (n % 4)) (n / 4 % 16)) ||
        (c.areas.find k).isSome || decide (c.lease.parking.map Prod.snd = some k)))
  devIf (!bad) (s.onCluster m (fun c => { c with tsave := putTabWord c.tsave (8 * w) v }))

/-- A QCTL store (R230, R231). -/
def State.putQctl (s : State) (q : Nat) (v : Word) : DevRes :=
  let x := s.queue q
  if !zeroBits v 23 41 || decide (fld v 8 2 = 3) then .fault
  else if bit v 4 && !x.valid then
    devIf (s.reservedWay (queueHome q) (fld x.qbat 32 4) && decide (fld x.qbat 36 13 + x.hard ≤ 8192))
      (s.onQueue q (fun x => { x with qctl := v, eligible := none, aged := 0, passed := [] }))
  else if !bit v 4 then
    let drop := fun (x : Queue) =>
      { x with qctl := v, recs := [], ovPos := 0, eligible := none, aged := 0, passed := [] }
    .ok ((s.count 2 x.recs.length).onQueue q drop)
  else .ok (s.onQueue q (fun x => { x with qctl := v }))

/-- A store to word w of a queue descriptor (Table 10-3). -/
def State.putQueue (s : State) (q w : Nat) (v : Word) : DevRes :=
  let wm := fld v 0 14
  let hl := fld v 16 14
  match w with
  | 0 => s.putQctl q v
  | 1 => devIf (zeroBits v 14 2 && zeroBits v 30 34 && decide (1 ≤ wm) && decide (wm ≤ hl) && decide (hl ≤ 8192))
      (s.onQueue q (fun x => { x with qlim := v }))
  | 2 => devIf (zeroBits v 0 8 && zeroBits v 48 16 && decide (regionOf v.toNat = .dram)) (s.onQueue q (fun x => { x with qovf := v }))
  | 3 => devIf (zeroBits v 32 32) (s.onQueue q (fun x => { x with qovn := v }))
  | 4 => .ok (s.onQueue q (fun x => { x with qcons := v }))
  | 5 => devIf (zeroBits v 0 6 && zeroBits v 20 12 && zeroBits v 49 15) (s.onQueue q (fun x => { x with qbat := v }))
  | _ => .fault

/-- A store to word w of a fault queue descriptor (Table 13-5). -/
def State.putFq (s : State) (c w : Nat) (v : Word) : DevRes :=
  match w with
  | 0 => devIf (zeroBits v 0 12 && zeroBits v 48 16 && decide (regionOf v.toNat = .dram)) (s.onCtx c (fun x => { x with fqbase := v }))
  | 1 => devIf (decide (fld v 0 4 ≤ 10) && zeroBits v 4 12 && zeroBits v 31 33)
      (s.onCtx c (fun x => { x with fqctl := v }))
  | 2 => .fault
  | 3 => .fault
  | _ => devIf (decide (v = 0)) s

/-- A store to CXCTL (R327). -/
def State.putCxctl (s : State) (c : Nat) (v : Word) : DevRes :=
  let x := s.ctx c
  if !zeroBits v 2 62 then .fault
  else if bit v 0 && !bit x.ctl 0 then
    let ways := (List.range 4).map (fun d => vstWays d (x.vst.get 0 d))
    if x.entering then .wait
    else if ways.all (fun l => l.all (fun p => s.reservedWay p.1 p.2) && decide l.Nodup) then
      .held (s.onCtx c (fun x => { x with ctl := setBit v 0 false, entering := true }))
    else .fault
  else if !bit v 0 && bit x.ctl 0 then
    let busy := s.harts.any (fun (p : Nat × Hart) => decide (p.2.task.map Task.ctx = some c)) ||
      s.parked.any (fun p => p.held && decide (p.task.ctx = c)) ||
      s.queues.any (fun (p : Nat × Queue) => p.2.valid && decide (p.2.ctx = c)) ||
      s.clusters.any (fun (p : Nat × Cluster) => bit p.2.arrbind 4 && decide (fld p.2.arrbind 0 4 = c))
    devIf (!busy) (s.onCtx c (fun x => { x with ctl := v }))
  else .ok (s.onCtx c (fun x => { x with ctl := v }))

/-- A store to word w of a context descriptor (Table 13-12). -/
def State.putCtx (s : State) (c w : Nat) (v : Word) : DevRes :=
  let x := s.ctx c
  match w with
  | 0 => s.putCxctl c v
  | 1 => devIf (zeroBits v 11 53) (s.onCtx c (fun x => { x with pager := v }))
  | 2 => .ok (s.onCtx c (fun x => { x with upvec := v }))
  | 3 => devIf (zeroBits v 0 4 && zeroBits v 57 7 && (decide (v = x.stkb) || x.slots.isEmpty))
      (s.onCtx c (fun x => { x with stkb := v }))
  | 4 => devIf (zeroBits v 0 4 && zeroBits v 44 20 && (decide (v = x.stks) || x.slots.isEmpty))
      (s.onCtx c (fun x => { x with stks := v }))
  | _ =>
    if 8 ≤ w ∧ w < 12 then
      devIf (zeroBits v 44 20 && (decide (v = x.vst.get 0 (w - 8)) || !(bit x.ctl 0 || x.entering)))
        (s.onCtx c (fun x => { x with vst := x.vst.put 0 (w - 8) v }))
    else devIf (decide (v = 0)) s

/-! ## The RoCEv2 tables (R330) -/

/-- The selected entry of QPWIN, as a list of eight words. -/
def Device.image (d : Device) : List Word := (List.range 8).map (fun i => d.qpwin.get 0 i)

/-- The stored image of an entry. -/
def Device.tableEntry (d : Device) (idx : Word) : List Word :=
  let i := fld idx 0 12
  match fld idx 12 2 with
  | 0 => d.qps.get [] i
  | 1 => d.windows.get [] i
  | _ => d.regions.get [] i

/-- Whether a context is resident. -/
def State.resident (s : State) (c : Nat) : Bool := bit (s.ctx c).ctl 0

/-- Whether n bytes from a physical base are backed device memory. -/
def dramRange (base n : Nat) : Bool := decide (base + n ≤ 0x7735940000)

/-- Whether an apply is taken (R330): no reserved bit, a resident context, a valid queue pair, a backed range. -/
def State.applyOk (s : State) (idx : Word) (im : List Word) : Bool :=
  let w := fun i => im.getD i 0
  match fld idx 12 2 with
  | 0 =>
    zeroBits (w 0) 8 24 && zeroBits (w 0) 56 8 && decide (fld (w 0) 1 2 ≠ 3) && zeroBits (w 1) 62 2 &&
      decide (1 ≤ fld (w 1) 48 3) && decide (fld (w 1) 48 3 ≤ 3) && zeroBits (w 4) 55 1 && zeroBits (w 5) 32 32 &&
      zeroBits (w 6) 0 6 && zeroBits (w 6) 52 12 && (bit (w 0) 3 || zeroBits (w 6) 0 64) && zeroBits (w 7) 0 64 &&
      (bit (w 0) 3 || s.resident (fld (w 0) 4 4))
  | 1 =>
    let q := fld (w 0) 1 12
    zeroBits (w 0) 13 51 && zeroBits (w 2) 32 32 && (List.range 5).all (fun i => zeroBits (w (3 + i)) 0 64) &&
      bit ((s.dev.qps.get [] q).getD 0 0) 0
  | _ =>
    zeroBits (w 0) 8 24 && zeroBits (w 2) 48 16 && (bit (w 0) 3 || zeroBits (w 2) 0 8) && zeroBits (w 3) 40 24 &&
      (List.range 4).all (fun i => zeroBits (w (4 + i)) 0 64) && s.resident (fld (w 0) 4 4) &&
      (if bit (w 0) 3 then decide ((w 3).toNat ≤ 65536) else dramRange (w 2).toNat (w 3).toNat)

/-- A store to QPCMD (R330). -/
def State.putQpcmd (s : State) (v : Word) : DevRes :=
  if s.dev.qpBusy.isSome then .wait
  else if v = 1 then
    let im := s.dev.image
    if s.applyOk s.dev.qpidx im then .ok (s.onDev (fun d => { d with qpBusy := some (d.qpidx, im), qpRefused := false }))
    else .ok (s.onDev (fun d => { d with qpRefused := true }))
  else if v = 2 then
    .ok (s.onDev (fun d => { d with
      qpwin := (List.range 8).foldl (fun (t : Tab Word) i => t.put 0 i ((d.tableEntry d.qpidx).getD i 0)) []
      qpRefused := false }))
  else .fault

/-- A store of 8 bytes to a register by a hart that may write it, with the checks of R351. -/
def State.devPut (s : State) (h : Nat) (r : DevReg) (v : Word) : DevRes :=
  let pilot := fun (x : DevRes) => if s.isPilot h then x else .fault
  let smode := fun (x : DevRes) => if s.priv h then x else .fault
  match r with
  | .home c => pilot (if s.dev.homeChange.isSome then .wait
      else .held (s.onDev (fun d => { d with homeChange := some (c, v) })))
  | .shootVa => smode (devIf (zeroBits v 0 12 && zeroBits v 57 7) (s.onDev (fun d => { d with shootVa := v })))
  | .shootCmd => smode (if !zeroBits v 19 45 then .fault
      else if s.dev.shoot.isSome then .wait
      else .ok ((s.flushAll v).onDev (fun d => { d with shoot := some v, shootPos := s.snapshot })))
  | .pgdone => smode (s.pgdone v)
  | .arrbind m => pilot (s.putArrbind m v)
  | .tsave m w => pilot (s.putTsave m w v)
  | .queue q w => pilot (s.putQueue q w v)
  | .counter i w => pilot (devIf (if w = 0 then zeroBits v 32 32 else zeroBits v 48 16)
      (s.onDev (fun d => { d with counters := d.counters.put 0 (2 * i + w) v })))
  | .fq c w => pilot (s.putFq c w v)
  | .preempt => pilot (if !zeroBits v 13 51 then .fault
      else
        let k := fld v 0 12
        if isMgmt k || (!bit v 12 && (s.hart k).task.isNone) then .ok s
        else .ok (s.onHart k (fun t => { t with preempt := !bit v 12 })))
  | .pwrcap => pilot (devIf (decide (v.toNat ≤ 1400)) (s.onDev (fun d => { d with pwrcap := v })))
  | .event i => smode (devIf (decide (v = 0)) (s.onDev (fun d => { d with events := d.events.put 0 i 0 })))
  | .chronAdj => pilot (devIf (zeroBits v 32 32) (s.onDev (fun d =>
      let a := toInt 32 v.toNat
      let lim : Int := 500000000
      { d with chronAdj := BitVec.ofInt 32 (if lim < a then lim else if a < -lim then -lim else a) })))
  | .chronStep => pilot (if bit v 63 || decide (2 ^ 64 ≤ s.dev.chron + v.toNat) then .ok s
      else .ok (s.onDev (fun d => { d with chron := d.chron + v.toNat })))
  | .linkev => .fault
  | .ctx c w => pilot (s.putCtx c w v)
  | .alarm k => smode (.ok (s.onHart k (fun t => { t with alarm := v })))
  | .qpidx => pilot (devIf (zeroBits v 14 50 && (match fld v 12 2 with
      | 0 => true | 1 => decide (fld v 0 12 < 32) | 2 => decide (fld v 0 12 < 256) | _ => false))
      (s.onDev (fun d => { d with qpidx := v })))
  | .qpwin w => pilot (.ok (s.onDev (fun d => { d with qpwin := d.qpwin.put 0 w v })))
  | .qpcmd => pilot (s.putQpcmd v)
  | .mbox w => if s.isPilot h ∨ (s.hart h).mode = .m then
      .ok (s.onDev (fun d => { d with bnmbox := putTabWord d.bnmbox (8 * w) v })) else .fault
  | .none => .fault

/-- Whether a register takes 8-byte stores only, as its rule says (R135, R320, R330) (log 47). -/
def DevReg.wideOnly (r : DevReg) : Bool :=
  match r with
  | .shootVa => true
  | .shootCmd => true
  | .preempt => true
  | .qpwin _ => true
  | _ => false

/-- What a 4-byte store finds in the other half: what the register holds; 0 where a load does not read what a store
wrote. -/
def State.otherHalf (s : State) (r : DevReg) : Word :=
  match r with
  | .qpcmd => 0
  | .event _ => 0
  | _ => (s.devPeek r).getD 0

/-- A store of n bytes to a device register. -/
def State.devStore (s : State) (h off n : Nat) (v : Nat) : DevRes :=
  let r := devReg (off / 8 * 8)
  if n = 8 then s.devPut h r (word v)
  else if r.wideOnly then .fault
  else s.devPut h r (setFld (s.otherHalf r) (8 * (off % 8)) 32 v)

end Sys2Proof.Machine
end

