-- ==== Sys2Proof/Machine/ScalarMem.lean ====
section
/-!
DEFINITION. Scalar memory accesses of one hart: loads, stores, the store buffer and its draining, loads that return
later, lr, sc and atomics at the home, full/empty accesses, remote windows, and the waits of fences (R56 to R59, R121,
R126, R200, R259 to R269, R329).
-/
namespace Sys2Proof.Machine

/-! ## Remote windows (R329) -/

/-- The data of a remote load: a register's value, or a word of a vrestore's image or of what an exit reads, which counts while
it is asked for. -/
def State.remoteWord (s : State) (h : Nat) (r : Remote) (v : Nat) : State :=
  match r.img, r.load with
  | some o, _ => s.onHart h (fun t => { t with imageIn := t.imageIn.map (fun i => i.ins o (word v)) })
  | none, some l => s.loadReg h l.rd l.isF l.width l.signed v
  | none, none => s

/-- A remote access of hart h that its pair cannot send, or that is discarded as the pair is reset, fails as a copy fails
(R215, R330): it is recorded with its address for the context it was made for, and a load's register takes a free value
(log 30). -/
def State.failRemote (s : State) (h : Nat) (r : Remote) : State :=
  let s := match r.ctx with
    | some c => s.fqPost c { FqEntry.mk3 1 r.va (some h) with cause := if r.load.isSome then 5 else 7 }
    | none => s
  if r.load.isSome then { s.remoteWord h r (Config.lostLoad s.freeCount).toNat with freeCount := s.freeCount + 1 } else s

/-- A remote access of hart h leaves as a message on its window's pair, and waits for the answer; a pair in state reset or
error sends nothing, and the access fails at once (R323, log 62). -/
def State.remoteAccess (s : State) (h : Nat) (r : Remote) (kind : Nat) (bs : List Byte) : State :=
  if s.qpSends r.qp then (s.onHart h (fun t => { t with remotes := t.remotes ++ [r] })).send kind r.qp bs else s.failRemote h r

/-- A scalar store to a remote window leaves as an RDMA WRITE. -/
def State.remoteStore (s : State) (h va pa n v : Nat) : State :=
  let (w, qp, ra, key) := s.remoteTo pa
  s.remoteAccess h { pos := (s.hart h).pos, va := va, ctx := s.ctxOf h, load := none, img := none, window := w, qp := qp } 2
    (bytesOf 8 ra.toNat ++ bytesOf 4 key ++ bytesOf n v)

/-- A scalar load of a remote window leaves as an RDMA READ; `img` is the word of an image, or of what an exit reads, that it is
for. -/
def State.remoteLoad (s : State) (h va : Nat) (l : Load) (img : Option Nat) : State :=
  let (w, qp, ra, key) := s.remoteTo l.pa
  s.remoteAccess h { pos := (s.hart h).pos, va := va, ctx := s.ctxOf h, load := some l, img := img, window := w, qp := qp } 1
    (bytesOf 8 ra.toNat ++ bytesOf 4 key ++ bytesOf 1 l.width)

/-! ## Loads (R56, R121, R126) -/

/-- Whether a scalar load of memory is answered at once: from the youngest own store that covers it, the own scratchpad,
or L1. -/
def State.quick (s : State) (h : Nat) (x : Hit) (n : Nat) : Bool :=
  !(s.hart h).loading x.pa n &&
    ((s.hart h).forwards x.pa n ||
      (match regionOf x.pa with
        | .scratch c _ => !isMgmt h && decide (c = coreOf h)
        | .dram => !isMgmt h && decide (x.pbmt = 0) && (s.core (coreOf h)).l1.contains (x.pa / 32 * 32)
        | _ => false))

/-- Whether an access is of I/O type: the leaf's type counts for device memory only (R118). -/
def Hit.io (x : Hit) : Bool := decide (x.pbmt = 2) && decide (regionOf x.pa = .dram)

/-- The home code of an access's line, where it is memory of type PMA, the only type that is cached (R118). -/
def Hit.homed (x : Hit) : Option Nat := if x.pbmt = 0 ∧ regionOf x.pa = .dram then some x.code else none

/-- A scalar read of n bytes brings their lines nearer, where they are cached. -/
def State.readHomed (s : State) (h : Nat) (x : Hit) (n : Nat) : State :=
  match x.homed with
  | some c => (List.range (ceilDiv n 32)).foldl (fun (s : State) i => s.readLine h c (x.pa + 32 * i) false) s
  | none => s

/-- Whether an access of I/O type must wait: it goes in order with everything before it (R58) (log 51). -/
def State.ioWaits (s : State) (h : Nat) (x : Hit) : Bool :=
  x.io && (!(s.hart h).stores.isEmpty || !(s.hart h).loads.isEmpty)

/-- A load that has passed its checks and not returned: the register waits for its data. -/
def State.pendLoad (s : State) (h rd : Nat) (isF : Bool) (x : Hit) (n : Nat) (signed : Bool) : State :=
  (s.readHomed h x 1).onHart h (fun t =>
    { t with
      loads := t.loads ++ [{ pos := t.pos, rd := rd, isF := isF, pa := x.pa, width := n, signed := signed }]
      csr := if isF then t.csr.dirtyFs else t.csr })

/-- A scalar load of n bytes into a register; `base` is the base register. It waits behind a copy that holds the bytes
(R217). -/
def State.scalarLoad (s : State) (h base : Nat) (va : Word) (n : Nat) (signed : Bool) (rd : Nat) (isF : Bool) : State :=
  match s.access h va n .load with
  | .stop z => s.scalarStop h va false (some base) z
  | .ok x =>
    match regionOf x.pa with
    | .reg off =>
      (match s.devLoad off n with
        | none => s.raise h 5 va
        | some (v, s) => ((s.setAD x).loadReg h rd isF n signed v).retire h)
    | .remote _ _ =>
      ((s.setAD x).remoteLoad h va.toNat
        { pos := (s.hart h).pos, rd := rd, isF := isF, pa := x.pa, width := n, signed := signed } none).retire h
    | _ =>
      if s.held h (s.hart h).pos va.toNat n false || s.ioWaits h x then s
      else
        let s := s.setAD x
        if s.quick h x n || x.io then
          ((if x.pbmt = 0 then s.l1Touch h x.pa else s).loadReg h rd isF n signed (s.overlay h (s.hart h).pos x.pa n)).retire h
        else (s.pendLoad h rd isF x n signed).retire h

/-! ## Stores (R56, R66, R121) -/

/-- The wait of a store that has started a change in the register at a physical address (R120, R327). -/
def heldWait (pa : Nat) : Wait :=
  match regionOf pa with
  | .reg off => (match devReg (off / 8 * 8) with | .ctx c _ => .ctxStore c | _ => .homeStore)
  | _ => .homeStore

/-- A store to a device register by its owner. -/
def State.regStore (s : State) (h : Nat) (x : Hit) (off n : Nat) (va : Word) (v : Nat) : State :=
  match (s.setAD x).devStore h off n v with
  | .fault => s.raise h 7 va
  | .wait => s
  | .ok s => s.retire h
  | .held s => s.hold h (heldWait x.pa)

/-- A scalar store of n bytes to memory enters the store buffer; `fe` marks an stfe. It is not ready while the buffer is
full or a copy holds the bytes; an stfe not while an older store that has left the buffer has yet to perform (R203). -/
def State.bufferStore (s : State) (h : Nat) (va : Word) (x : Hit) (n v : Nat) (fe : Bool) : State :=
  if s.held h (s.hart h).pos va.toNat n true || s.ioWaits h x || (fe && !s.storesOut h (s.hart h).pos) then s
  else if x.io then ((s.setAD x).perform false h none x.pa (bytesOf n v)).retire h
  else if 8 ≤ (s.hart h).stores.length then s
  else
    ((s.setAD x).onHart h (fun t =>
      { t with stores := t.stores ++ [{ pos := t.pos, va := va.toNat, pa := x.pa, width := n,
                                        val := word (v % 2 ^ (8 * n)), fe := fe,
                                        code := x.homed }] })).retire h

/-- A scalar store of n bytes. -/
def State.scalarStore (s : State) (h base : Nat) (va : Word) (n v : Nat) : State :=
  match s.access h va n .store with
  | .stop z => s.scalarStop h va true (some base) z
  | .ok x =>
    match regionOf x.pa with
    | .reg off => s.regStore h x off n va (v % 2 ^ (8 * n))
    | .remote _ _ => ((s.setAD x).remoteStore h va.toNat x.pa n (v % 2 ^ (8 * n))).retire h
    | _ => s.bufferStore h va x n v false

/-! ## lr, sc, atomics (R57, R268, R269) -/

/-- Whether an atomic may perform now: own older accesses of its granule are done; with `rel`, all older scalar
accesses; with `sys`, remote accesses too (R269). -/
def State.atomicReady (s : State) (h pa n : Nat) (rel sys : Bool) : Bool :=
  let t := s.hart h
  !t.storing pa n && !t.loading pa n && (!rel || (t.stores.isEmpty && t.loads.isEmpty && s.asked h t.pos)) &&
    (!sys || t.remotes.isEmpty)

/-- lr of n bytes. -/
def State.loadReserve (s : State) (h base : Nat) (va : Word) (n rd : Nat) (rel : Bool) : State :=
  match s.access h va n .reserve with
  | .stop z => s.scalarStop h va false (some base) z
  | .ok x =>
    if s.held h (s.hart h).pos va.toNat n false || !s.atomicReady h x.pa n rel false then s
    else
      let s := s.setAD x
      let s := (s.readHomed h x 1).setX h rd (sx (8 * n) (s.mem64 x.pa n))
      (s.onHart h (fun t => { t with resv := some (x.pa, n) })).retire h

/-- An sc that fails sets A and leaves D unchanged (R131). -/
def Hit.aOnly (x : Hit) : Hit :=
  { x with ad := x.ad.bind (fun (p, old, new) =>
      let w := setBit new 7 (bit old 7)
      if w = old then none else some (p, old, w)) }

/-- sc of n bytes: 0 to the register where it succeeds, else 1. -/
def State.storeCond (s : State) (h base : Nat) (va : Word) (n v rd : Nat) (rel : Bool) : State :=
  match s.access h va n .atomic with
  | .stop z => s.scalarStop h va true (some base) z
  | .ok x =>
    if s.held h (s.hart h).pos va.toNat n true || !s.atomicReady h x.pa n rel false then s
    else
      let ok := decide ((s.hart h).resv = some (x.pa, n))
      let s := if ok then ((s.setAD x).writeHomed h x.homed x.pa).perform false h (ownCore h) x.pa (bytesOf n v) else s.setAD x.aOnly
      ((s.setX h rd (wordOfBool (!ok))).onHart h (fun t => { t with resv := none })).retire h

/-- An atomic of n bytes: the old value to the register, sign-extended, and `f old` to memory, in one operation at the
home. -/
def State.amo (s : State) (h base : Nat) (va : Word) (n rd : Nat) (rel sys : Bool) (f : Nat → Nat) : State :=
  match s.access h va n .atomic with
  | .stop z => s.scalarStop h va true (some base) z
  | .ok x =>
    if s.held h (s.hart h).pos va.toNat n true || !s.atomicReady h x.pa n rel sys then s
    else
      let s := s.setAD x
      let old := s.mem64 x.pa n
      let s := (s.writeHomed h x.homed x.pa).perform false h (ownCore h) x.pa (bytesOf n (f old))
      (s.setX h rd (sx (8 * n) old)).retire h

/-! ## ldfe and stfe (R200, R201) -/

/-- Whether an access resolves to a scratchpad. -/
def Hit.scratch (x : Hit) : Bool := match regionOf x.pa with | .scratch _ _ => true | _ => false

/-- Whether a waiting ldfe finds its line full, its own older accesses of the granule done, and no lower hart before it
(R200). -/
def State.ldfeReady (s : State) (h pa : Nat) : Bool :=
  s.full (lineOf pa) && !(s.hart h).storing pa 8 && !(s.hart h).loading pa 8 && !s.lowerConsumer h (lineOf pa)

/-- Read the 8 bytes and clear the line's bit, in one bank operation. -/
def State.ldfeTake (s : State) (h rd pa : Nat) : State :=
  ((s.setX h rd (word (s.mem64 pa 8))).setFull (lineOf pa) false).retire h

/-- ldfe. -/
def State.ldfe (s : State) (h base : Nat) (va : Word) (rd : Nat) : State :=
  if va.toNat % 8 ≠ 0 then s.raise h 4 va
  else match s.access h va 8 .load with
  | .stop z => s.scalarStop h va false (some base) z
  | .ok x =>
    if !x.scratch then s.raise h 5 va
    else if s.held h (s.hart h).pos va.toNat 8 false then s
    else
      let s := s.setAD x
      if s.ldfeReady h x.pa then s.ldfeTake h rd x.pa else s.hold h (.ldfe rd x.pa va s.dev.cy)

/-- stfe. -/
def State.stfe (s : State) (h base : Nat) (va : Word) (v : Nat) : State :=
  if va.toNat % 8 ≠ 0 then s.raise h 6 va
  else match s.access h va 8 .store with
  | .stop z => s.scalarStop h va true (some base) z
  | .ok x => if !x.scratch then s.raise h 7 va else s.bufferStore h va x 8 v true

/-! ## Fences (R58, R59, R263 to R266) -/

/-- Whether the older scalar accesses that a fence covers are done: loads (remote ones too), stores (R261). -/
def State.quiet (s : State) (h : Nat) (r w : Bool) : Bool :=
  let t := s.hart h
  (!r || (t.loads.isEmpty && t.remotes.all (fun x => x.load.isNone))) && (!w || (t.stores.isEmpty && s.asked h t.pos))

/-- A base fence: it waits for the accesses of its predecessor set when it has a successor set (log 50). -/
def State.fence (s : State) (h : Nat) (pred succ : BitVec 4) : State :=
  if decide (succ = 0) || s.quiet h (bit pred 1 || bit pred 3) (bit pred 0 || bit pred 2) then s.retire h else s

/-- fence.i: the store buffer is empty, the fetch buffer and the core's instruction cache are invalidated. -/
def State.fenceI (s : State) (h : Nat) : State :=
  if (s.hart h).stores.isEmpty then
    ((s.onHart h (fun t => { t with fetchBuf := [] })).onCore (bufCore h) (fun c => { c with icache := [] })).retire h
  else s

/-- The condition of fence.vs: every older vector access and array command is complete; at scope 5 also remote
accesses. -/
def State.vsReady (s : State) (h : Nat) (sys : Bool) : Bool :=
  let t := s.hart h
  !(t.vec.queue.any (fun e => e.q ≠ .vaq)) && (s.acmds h).isEmpty && (!sys || t.remotes.isEmpty)

/-- One of the three fences on a management hart: FENCE rw,rw at the scope (R35, R266). -/
def State.mgmtFence (s : State) (h : Nat) (sys : Bool) : State :=
  if s.quiet h true true && (!sys || (s.hart h).remotes.isEmpty) then s.retire h else s

end Sys2Proof.Machine
end

