-- ==== Sys2Proof/Machine/LoadStore.lean ====
section
/-!
DEFINITION. Scalar loads and stores, base fences, ldfe and stfe (Tables 3-1 and 3-3, R56 to R59, R200).
-/
namespace Sys2Proof.Machine

/-- lb (Table 3-1, R56). -/
def execLb (rd rs1 : BitVec 5) (imm : BitVec 12) (s : State) : Out :=
  .next (s.scalarLoad s.cur rs1.toNat (s.rx rs1 + imm12 imm) 1 true rd.toNat false)

/-- lh (Table 3-1, R56). -/
def execLh (rd rs1 : BitVec 5) (imm : BitVec 12) (s : State) : Out :=
  .next (s.scalarLoad s.cur rs1.toNat (s.rx rs1 + imm12 imm) 2 true rd.toNat false)

/-- lw (Table 3-1, R56). -/
def execLw (rd rs1 : BitVec 5) (imm : BitVec 12) (s : State) : Out :=
  .next (s.scalarLoad s.cur rs1.toNat (s.rx rs1 + imm12 imm) 4 true rd.toNat false)

/-- ld (Table 3-1, R56). -/
def execLd (rd rs1 : BitVec 5) (imm : BitVec 12) (s : State) : Out :=
  .next (s.scalarLoad s.cur rs1.toNat (s.rx rs1 + imm12 imm) 8 true rd.toNat false)

/-- lbu (Table 3-1, R56). -/
def execLbu (rd rs1 : BitVec 5) (imm : BitVec 12) (s : State) : Out :=
  .next (s.scalarLoad s.cur rs1.toNat (s.rx rs1 + imm12 imm) 1 false rd.toNat false)

/-- lhu (Table 3-1, R56). -/
def execLhu (rd rs1 : BitVec 5) (imm : BitVec 12) (s : State) : Out :=
  .next (s.scalarLoad s.cur rs1.toNat (s.rx rs1 + imm12 imm) 2 false rd.toNat false)

/-- lwu (Table 3-1, R56). -/
def execLwu (rd rs1 : BitVec 5) (imm : BitVec 12) (s : State) : Out :=
  .next (s.scalarLoad s.cur rs1.toNat (s.rx rs1 + imm12 imm) 4 false rd.toNat false)

/-- sb (Table 3-1, R56). -/
def execSb (rs1 rs2 : BitVec 5) (imm : BitVec 12) (s : State) : Out :=
  .next (s.scalarStore s.cur rs1.toNat (s.rx rs1 + imm12 imm) 1 (s.rx rs2).toNat)

/-- sh (Table 3-1, R56). -/
def execSh (rs1 rs2 : BitVec 5) (imm : BitVec 12) (s : State) : Out :=
  .next (s.scalarStore s.cur rs1.toNat (s.rx rs1 + imm12 imm) 2 (s.rx rs2).toNat)

/-- sw (Table 3-1, R56). -/
def execSw (rs1 rs2 : BitVec 5) (imm : BitVec 12) (s : State) : Out :=
  .next (s.scalarStore s.cur rs1.toNat (s.rx rs1 + imm12 imm) 4 (s.rx rs2).toNat)

/-- sd (Table 3-1, R56). -/
def execSd (rs1 rs2 : BitVec 5) (imm : BitVec 12) (s : State) : Out :=
  .next (s.scalarStore s.cur rs1.toNat (s.rx rs1 + imm12 imm) 8 (s.rx rs2).toNat)

/-- flw (Table 3-3, R56, R61). -/
def execFlw (rd rs1 : BitVec 5) (imm : BitVec 12) (s : State) : Out :=
  s.legal (fieldsFlw rd rs1 imm).toWord (!s.fsOff s.cur)
    (s.scalarLoad s.cur rs1.toNat (s.rx rs1 + imm12 imm) 4 false rd.toNat true)

/-- fsw (Table 3-3, R56, R61). -/
def execFsw (rs1 rs2 : BitVec 5) (imm : BitVec 12) (s : State) : Out :=
  s.legal (fieldsFsw rs1 rs2 imm).toWord (!s.fsOff s.cur)
    (s.scalarStore s.cur rs1.toNat (s.rx rs1 + imm12 imm) 4 (s.rf rs2))

/-- fence (R58): fm, rs1 and rd are ignored. -/
def execFence (_rd _rs1 : BitVec 5) (succ pred _fm : BitVec 4) (s : State) : Out :=
  .next (s.fence s.cur pred succ)

/-- fence.tso (R58), carried out as FENCE rw,rw. -/
def execFenceTso (_rd _rs1 : BitVec 5) (s : State) : Out :=
  .next (s.fence s.cur 3 3)

/-- pause: no issue for 32 cy (R58). The pc stays until the hold ends. -/
def execPause  (s : State) : Out :=
  .next (s.hold s.cur (.pause (s.dev.cy + 32)))

/-- fence.i (R59). -/
def execFenceI (_rd _rs1 : BitVec 5) (_imm : BitVec 12) (s : State) : Out :=
  .next (s.fenceI s.cur)

/-- ldfe (R200, R201). -/
def execLdfe (rd rs1 : BitVec 5) (s : State) : Out :=
  s.own (fieldsLdfe rd rs1).toWord true (s.ldfe s.cur rs1.toNat (s.rx rs1) rd.toNat)

/-- stfe (R200, R203). -/
def execStfe (rs1 rs2 : BitVec 5) (s : State) : Out :=
  s.own (fieldsStfe rs1 rs2).toWord true (s.stfe s.cur rs1.toNat (s.rx rs1) (s.rx rs2).toNat)

end Sys2Proof.Machine
end

