-- ==== Sys2Proof/Machine/Atomics.lean ====
section
/-!
DEFINITION. lr, sc, the base AMOs and the scoped floating-point atomics (Table 3-4, R57, R268, R269).
-/
namespace Sys2Proof.Machine

/-- lr.w (R57). -/
def execLrW (rd rs1 : BitVec 5) (rl _aq : BitVec 1) (s : State) : Out :=
  .next (s.loadReserve s.cur rs1.toNat (s.rx rs1) 4 rd.toNat (rl = 1))

/-- lr.d (R57). -/
def execLrD (rd rs1 : BitVec 5) (rl _aq : BitVec 1) (s : State) : Out :=
  .next (s.loadReserve s.cur rs1.toNat (s.rx rs1) 8 rd.toNat (rl = 1))

/-- sc.w (R57). -/
def execScW (rd rs1 rs2 : BitVec 5) (rl _aq : BitVec 1) (s : State) : Out :=
  .next (s.storeCond s.cur rs1.toNat (s.rx rs1) 4 (s.rx rs2).toNat rd.toNat (rl = 1))

/-- sc.d (R57). -/
def execScD (rd rs1 rs2 : BitVec 5) (rl _aq : BitVec 1) (s : State) : Out :=
  .next (s.storeCond s.cur rs1.toNat (s.rx rs1) 8 (s.rx rs2).toNat rd.toNat (rl = 1))

/-- The new value of a base AMO of n bytes (Table 3-4). -/
inductive AmoFn where
  | swap | add | xor | and | or | min | max | minu | maxu
  deriving DecidableEq, Repr

/-- The value that the atomic leaves, from the old value and the register. -/
def AmoFn.eval (f : AmoFn) (n old v : Nat) : Nat :=
  let b := v % 2 ^ (8 * n)
  match f with
  | .swap => b
  | .add => (old + b) % 2 ^ (8 * n)
  | .xor => old ^^^ b
  | .and => old &&& b
  | .or => old ||| b
  | .min => if toInt (8 * n) b < toInt (8 * n) old then b else old
  | .max => if toInt (8 * n) old < toInt (8 * n) b then b else old
  | .minu => if b < old then b else old
  | .maxu => if old < b then b else old

/-- amoswap.w (Table 3-4, R57). -/
def execAmoswapW (rd rs1 rs2 : BitVec 5) (rl _aq : BitVec 1) (s : State) : Out :=
  .next (s.amo s.cur rs1.toNat (s.rx rs1) 4 rd.toNat (rl = 1) false (fun o => AmoFn.eval .swap 4 o (s.rx rs2).toNat))

/-- amoswap.d (Table 3-4, R57). -/
def execAmoswapD (rd rs1 rs2 : BitVec 5) (rl _aq : BitVec 1) (s : State) : Out :=
  .next (s.amo s.cur rs1.toNat (s.rx rs1) 8 rd.toNat (rl = 1) false (fun o => AmoFn.eval .swap 8 o (s.rx rs2).toNat))

/-- amoadd.w (Table 3-4, R57). -/
def execAmoaddW (rd rs1 rs2 : BitVec 5) (rl _aq : BitVec 1) (s : State) : Out :=
  .next (s.amo s.cur rs1.toNat (s.rx rs1) 4 rd.toNat (rl = 1) false (fun o => AmoFn.eval .add 4 o (s.rx rs2).toNat))

/-- amoadd.d (Table 3-4, R57). -/
def execAmoaddD (rd rs1 rs2 : BitVec 5) (rl _aq : BitVec 1) (s : State) : Out :=
  .next (s.amo s.cur rs1.toNat (s.rx rs1) 8 rd.toNat (rl = 1) false (fun o => AmoFn.eval .add 8 o (s.rx rs2).toNat))

/-- amoxor.w (Table 3-4, R57). -/
def execAmoxorW (rd rs1 rs2 : BitVec 5) (rl _aq : BitVec 1) (s : State) : Out :=
  .next (s.amo s.cur rs1.toNat (s.rx rs1) 4 rd.toNat (rl = 1) false (fun o => AmoFn.eval .xor 4 o (s.rx rs2).toNat))

/-- amoxor.d (Table 3-4, R57). -/
def execAmoxorD (rd rs1 rs2 : BitVec 5) (rl _aq : BitVec 1) (s : State) : Out :=
  .next (s.amo s.cur rs1.toNat (s.rx rs1) 8 rd.toNat (rl = 1) false (fun o => AmoFn.eval .xor 8 o (s.rx rs2).toNat))

/-- amoand.w (Table 3-4, R57). -/
def execAmoandW (rd rs1 rs2 : BitVec 5) (rl _aq : BitVec 1) (s : State) : Out :=
  .next (s.amo s.cur rs1.toNat (s.rx rs1) 4 rd.toNat (rl = 1) false (fun o => AmoFn.eval .and 4 o (s.rx rs2).toNat))

/-- amoand.d (Table 3-4, R57). -/
def execAmoandD (rd rs1 rs2 : BitVec 5) (rl _aq : BitVec 1) (s : State) : Out :=
  .next (s.amo s.cur rs1.toNat (s.rx rs1) 8 rd.toNat (rl = 1) false (fun o => AmoFn.eval .and 8 o (s.rx rs2).toNat))

/-- amoor.w (Table 3-4, R57). -/
def execAmoorW (rd rs1 rs2 : BitVec 5) (rl _aq : BitVec 1) (s : State) : Out :=
  .next (s.amo s.cur rs1.toNat (s.rx rs1) 4 rd.toNat (rl = 1) false (fun o => AmoFn.eval .or 4 o (s.rx rs2).toNat))

/-- amoor.d (Table 3-4, R57). -/
def execAmoorD (rd rs1 rs2 : BitVec 5) (rl _aq : BitVec 1) (s : State) : Out :=
  .next (s.amo s.cur rs1.toNat (s.rx rs1) 8 rd.toNat (rl = 1) false (fun o => AmoFn.eval .or 8 o (s.rx rs2).toNat))

/-- amomin.w (Table 3-4, R57). -/
def execAmominW (rd rs1 rs2 : BitVec 5) (rl _aq : BitVec 1) (s : State) : Out :=
  .next (s.amo s.cur rs1.toNat (s.rx rs1) 4 rd.toNat (rl = 1) false (fun o => AmoFn.eval .min 4 o (s.rx rs2).toNat))

/-- amomin.d (Table 3-4, R57). -/
def execAmominD (rd rs1 rs2 : BitVec 5) (rl _aq : BitVec 1) (s : State) : Out :=
  .next (s.amo s.cur rs1.toNat (s.rx rs1) 8 rd.toNat (rl = 1) false (fun o => AmoFn.eval .min 8 o (s.rx rs2).toNat))

/-- amomax.w (Table 3-4, R57). -/
def execAmomaxW (rd rs1 rs2 : BitVec 5) (rl _aq : BitVec 1) (s : State) : Out :=
  .next (s.amo s.cur rs1.toNat (s.rx rs1) 4 rd.toNat (rl = 1) false (fun o => AmoFn.eval .max 4 o (s.rx rs2).toNat))

/-- amomax.d (Table 3-4, R57). -/
def execAmomaxD (rd rs1 rs2 : BitVec 5) (rl _aq : BitVec 1) (s : State) : Out :=
  .next (s.amo s.cur rs1.toNat (s.rx rs1) 8 rd.toNat (rl = 1) false (fun o => AmoFn.eval .max 8 o (s.rx rs2).toNat))

/-- amominu.w (Table 3-4, R57). -/
def execAmominuW (rd rs1 rs2 : BitVec 5) (rl _aq : BitVec 1) (s : State) : Out :=
  .next (s.amo s.cur rs1.toNat (s.rx rs1) 4 rd.toNat (rl = 1) false (fun o => AmoFn.eval .minu 4 o (s.rx rs2).toNat))

/-- amominu.d (Table 3-4, R57). -/
def execAmominuD (rd rs1 rs2 : BitVec 5) (rl _aq : BitVec 1) (s : State) : Out :=
  .next (s.amo s.cur rs1.toNat (s.rx rs1) 8 rd.toNat (rl = 1) false (fun o => AmoFn.eval .minu 8 o (s.rx rs2).toNat))

/-- amomaxu.w (Table 3-4, R57). -/
def execAmomaxuW (rd rs1 rs2 : BitVec 5) (rl _aq : BitVec 1) (s : State) : Out :=
  .next (s.amo s.cur rs1.toNat (s.rx rs1) 4 rd.toNat (rl = 1) false (fun o => AmoFn.eval .maxu 4 o (s.rx rs2).toNat))

/-- amomaxu.d (Table 3-4, R57). -/
def execAmomaxuD (rd rs1 rs2 : BitVec 5) (rl _aq : BitVec 1) (s : State) : Out :=
  .next (s.amo s.cur rs1.toNat (s.rx rs1) 8 rd.toNat (rl = 1) false (fun o => AmoFn.eval .maxu 8 o (s.rx rs2).toNat))

/-- amoaddf (R268, R269); scopes 6 and 7 are illegal (R34). -/
def execAmoaddf (rd rs1 rs2 : BitVec 5) (scope : BitVec 3) (s : State) : Out :=
  s.legal (fieldsAmoaddf rd rs1 rs2 scope).toWord (decide (scope.toNat ≤ 5))
    (s.amo s.cur rs1.toNat (s.rx rs1) 4 rd.toNat (scope ≠ 0) (scope = 5) (fun o => (Fmt.f32.add 0 o ((s.rx rs2).toNat % 2 ^ 32)).1))

/-- amomaxf (R268, R269); scopes 6 and 7 are illegal (R34). -/
def execAmomaxf (rd rs1 rs2 : BitVec 5) (scope : BitVec 3) (s : State) : Out :=
  s.legal (fieldsAmomaxf rd rs1 rs2 scope).toWord (decide (scope.toNat ≤ 5))
    (s.amo s.cur rs1.toNat (s.rx rs1) 4 rd.toNat (scope ≠ 0) (scope = 5) (fun o => (Fmt.f32.minmax true o ((s.rx rs2).toNat % 2 ^ 32)).1))

end Sys2Proof.Machine
end

