-- ==== Sys2Proof/Machine/Base.lean ====
section
/-!
DEFINITION. RV64I and M: immediates, jumps, branches, arithmetic (Tables 3-1 and 3-2, R26, R55).
-/
namespace Sys2Proof.Machine

/-- lui (Table 3-1). -/
def execLui (rd : BitVec 5) (imm : BitVec 20) (s : State) : Out :=
  .next (s.putX s.cur rd (immU imm))

/-- auipc (Table 3-1). -/
def execAuipc (rd : BitVec 5) (imm : BitVec 20) (s : State) : Out :=
  .next (s.putX s.cur rd ((s.hart s.cur).pc + immU imm))

/-- Go to a target, or raise instruction-address-misaligned where it is no multiple of 4 (R26); `rd` gets the return
address only where the jump is made. -/
def State.jump (s : State) (rd : Nat) (t : Word) : Out :=
  let h := s.cur
  if t.toNat % 4 ≠ 0 then .next (s.raise h 0 t)
  else .next ((s.setX h rd ((s.hart h).pc + 4)).retireTo h t)

/-- A branch: taken to a target that must be a multiple of 4, or not taken (R26). -/
def State.branch (s : State) (take : Bool) (off : BitVec 12) : Out :=
  let h := s.cur
  let t := (s.hart h).pc + offB off
  if !take then .next (s.retire h)
  else if t.toNat % 4 ≠ 0 then .next (s.raise h 0 t)
  else .next (s.retireTo h t)

/-- jal (Table 3-1). -/
def execJal (rd : BitVec 5) (off : BitVec 20) (s : State) : Out :=
  s.jump rd.toNat ((s.hart s.cur).pc + offJ off)

/-- jalr (Table 3-1). -/
def execJalr (rd rs1 : BitVec 5) (imm : BitVec 12) (s : State) : Out :=
  s.jump rd.toNat (setBit (s.rx rs1 + imm12 imm) 0 false)

/-- beq (Table 3-1). -/
def execBeq (rs1 rs2 : BitVec 5) (off : BitVec 12) (s : State) : Out :=
  s.branch (s.rx rs1 == s.rx rs2) off

/-- bne (Table 3-1). -/
def execBne (rs1 rs2 : BitVec 5) (off : BitVec 12) (s : State) : Out :=
  s.branch (s.rx rs1 != s.rx rs2) off

/-- blt (Table 3-1). -/
def execBlt (rs1 rs2 : BitVec 5) (off : BitVec 12) (s : State) : Out :=
  s.branch ((s.rx rs1).slt (s.rx rs2)) off

/-- bge (Table 3-1). -/
def execBge (rs1 rs2 : BitVec 5) (off : BitVec 12) (s : State) : Out :=
  s.branch (!(s.rx rs1).slt (s.rx rs2)) off

/-- bltu (Table 3-1). -/
def execBltu (rs1 rs2 : BitVec 5) (off : BitVec 12) (s : State) : Out :=
  s.branch ((s.rx rs1).ult (s.rx rs2)) off

/-- bgeu (Table 3-1). -/
def execBgeu (rs1 rs2 : BitVec 5) (off : BitVec 12) (s : State) : Out :=
  s.branch (!(s.rx rs1).ult (s.rx rs2)) off

/-- addi (Table 3-1). -/
def execAddi (rd rs1 : BitVec 5) (imm : BitVec 12) (s : State) : Out :=
  .next (s.putX s.cur rd (s.rx rs1 + imm12 imm))

/-- slti (Table 3-1). -/
def execSlti (rd rs1 : BitVec 5) (imm : BitVec 12) (s : State) : Out :=
  .next (s.putX s.cur rd (wordOfBool ((s.rx rs1).slt (imm12 imm))))

/-- sltiu (Table 3-1). -/
def execSltiu (rd rs1 : BitVec 5) (imm : BitVec 12) (s : State) : Out :=
  .next (s.putX s.cur rd (wordOfBool ((s.rx rs1).ult (imm12 imm))))

/-- xori (Table 3-1). -/
def execXori (rd rs1 : BitVec 5) (imm : BitVec 12) (s : State) : Out :=
  .next (s.putX s.cur rd (s.rx rs1 ^^^ imm12 imm))

/-- ori (Table 3-1). -/
def execOri (rd rs1 : BitVec 5) (imm : BitVec 12) (s : State) : Out :=
  .next (s.putX s.cur rd (s.rx rs1 ||| imm12 imm))

/-- andi (Table 3-1). -/
def execAndi (rd rs1 : BitVec 5) (imm : BitVec 12) (s : State) : Out :=
  .next (s.putX s.cur rd (s.rx rs1 &&& imm12 imm))

/-- slli (Table 3-1). -/
def execSlli (rd rs1 : BitVec 5) (shamt : BitVec 6) (s : State) : Out :=
  .next (s.putX s.cur rd (s.rx rs1 <<< shamt.toNat))

/-- srli (Table 3-1). -/
def execSrli (rd rs1 : BitVec 5) (shamt : BitVec 6) (s : State) : Out :=
  .next (s.putX s.cur rd (s.rx rs1 >>> shamt.toNat))

/-- srai (Table 3-1). -/
def execSrai (rd rs1 : BitVec 5) (shamt : BitVec 6) (s : State) : Out :=
  .next (s.putX s.cur rd ((s.rx rs1).sshiftRight shamt.toNat))

/-- A 32-bit result, sign-extended from bit 31. -/
def sext32 (v : BitVec 32) : Word := v.signExtend 64

/-- The low 32 bits of a register. -/
def low32 (v : Word) : BitVec 32 := v.setWidth 32

/-- addiw (Table 3-1). -/
def execAddiw (rd rs1 : BitVec 5) (imm : BitVec 12) (s : State) : Out :=
  .next (s.putX s.cur rd (sext32 (low32 (s.rx rs1 + imm12 imm))))

/-- slliw (Table 3-1). -/
def execSlliw (rd rs1 : BitVec 5) (shamt : BitVec 5) (s : State) : Out :=
  .next (s.putX s.cur rd (sext32 (low32 (s.rx rs1) <<< shamt.toNat)))

/-- srliw (Table 3-1). -/
def execSrliw (rd rs1 : BitVec 5) (shamt : BitVec 5) (s : State) : Out :=
  .next (s.putX s.cur rd (sext32 (low32 (s.rx rs1) >>> shamt.toNat)))

/-- sraiw (Table 3-1). -/
def execSraiw (rd rs1 : BitVec 5) (shamt : BitVec 5) (s : State) : Out :=
  .next (s.putX s.cur rd (sext32 ((low32 (s.rx rs1)).sshiftRight shamt.toNat)))

/-- add (Table 3-1). -/
def execAdd (rd rs1 rs2 : BitVec 5) (s : State) : Out :=
  .next (s.putX s.cur rd (s.rx rs1 + s.rx rs2))

/-- sub (Table 3-1). -/
def execSub (rd rs1 rs2 : BitVec 5) (s : State) : Out :=
  .next (s.putX s.cur rd (s.rx rs1 - s.rx rs2))

/-- sll (Table 3-1). -/
def execSll (rd rs1 rs2 : BitVec 5) (s : State) : Out :=
  .next (s.putX s.cur rd (s.rx rs1 <<< ((s.rx rs2).toNat % 64)))

/-- slt (Table 3-1). -/
def execSlt (rd rs1 rs2 : BitVec 5) (s : State) : Out :=
  .next (s.putX s.cur rd (wordOfBool ((s.rx rs1).slt (s.rx rs2))))

/-- sltu (Table 3-1). -/
def execSltu (rd rs1 rs2 : BitVec 5) (s : State) : Out :=
  .next (s.putX s.cur rd (wordOfBool ((s.rx rs1).ult (s.rx rs2))))

/-- xor (Table 3-1). -/
def execXor (rd rs1 rs2 : BitVec 5) (s : State) : Out :=
  .next (s.putX s.cur rd (s.rx rs1 ^^^ s.rx rs2))

/-- srl (Table 3-1). -/
def execSrl (rd rs1 rs2 : BitVec 5) (s : State) : Out :=
  .next (s.putX s.cur rd (s.rx rs1 >>> ((s.rx rs2).toNat % 64)))

/-- sra (Table 3-1). -/
def execSra (rd rs1 rs2 : BitVec 5) (s : State) : Out :=
  .next (s.putX s.cur rd ((s.rx rs1).sshiftRight ((s.rx rs2).toNat % 64)))

/-- or (Table 3-1). -/
def execOr (rd rs1 rs2 : BitVec 5) (s : State) : Out :=
  .next (s.putX s.cur rd (s.rx rs1 ||| s.rx rs2))

/-- and (Table 3-1). -/
def execAnd (rd rs1 rs2 : BitVec 5) (s : State) : Out :=
  .next (s.putX s.cur rd (s.rx rs1 &&& s.rx rs2))

/-- addw (Table 3-1). -/
def execAddw (rd rs1 rs2 : BitVec 5) (s : State) : Out :=
  .next (s.putX s.cur rd (sext32 (low32 (s.rx rs1 + s.rx rs2))))

/-- subw (Table 3-1). -/
def execSubw (rd rs1 rs2 : BitVec 5) (s : State) : Out :=
  .next (s.putX s.cur rd (sext32 (low32 (s.rx rs1 - s.rx rs2))))

/-- sllw (Table 3-1). -/
def execSllw (rd rs1 rs2 : BitVec 5) (s : State) : Out :=
  .next (s.putX s.cur rd (sext32 (low32 (s.rx rs1) <<< ((s.rx rs2).toNat % 32))))

/-- srlw (Table 3-1). -/
def execSrlw (rd rs1 rs2 : BitVec 5) (s : State) : Out :=
  .next (s.putX s.cur rd (sext32 (low32 (s.rx rs1) >>> ((s.rx rs2).toNat % 32))))

/-- sraw (Table 3-1). -/
def execSraw (rd rs1 rs2 : BitVec 5) (s : State) : Out :=
  .next (s.putX s.cur rd (sext32 ((low32 (s.rx rs1)).sshiftRight ((s.rx rs2).toNat % 32))))

/-! ## Multiplication and division (Table 3-2, R55) -/

/-- The high half of a product of integers. -/
def mulHigh (a b : Int) : Word := BitVec.ofInt 64 (a * b / 2 ^ 64)

/-- Signed quotient rounded towards zero; a zero divisor gives all ones; the overflow case keeps the dividend (R55). -/
def divS {n : Nat} (a b : BitVec n) : BitVec n := if b = 0 then BitVec.allOnes n else a.sdiv b

/-- Unsigned quotient; a zero divisor gives all ones (R55). -/
def divU {n : Nat} (a b : BitVec n) : BitVec n := if b = 0 then BitVec.allOnes n else a / b

/-- Signed remainder; a zero divisor gives the dividend; the overflow case gives 0 (R55). -/
def remS {n : Nat} (a b : BitVec n) : BitVec n := if b = 0 then a else a.srem b

/-- Unsigned remainder; a zero divisor gives the dividend (R55). -/
def remU {n : Nat} (a b : BitVec n) : BitVec n := if b = 0 then a else a % b

/-- mul (Table 3-2). -/
def execMul (rd rs1 rs2 : BitVec 5) (s : State) : Out :=
  .next (s.putX s.cur rd (s.rx rs1 * s.rx rs2))

/-- mulh (Table 3-2). -/
def execMulh (rd rs1 rs2 : BitVec 5) (s : State) : Out :=
  .next (s.putX s.cur rd (mulHigh (s.rx rs1).toInt (s.rx rs2).toInt))

/-- mulhsu (Table 3-2). -/
def execMulhsu (rd rs1 rs2 : BitVec 5) (s : State) : Out :=
  .next (s.putX s.cur rd (mulHigh (s.rx rs1).toInt (s.rx rs2).toNat))

/-- mulhu (Table 3-2). -/
def execMulhu (rd rs1 rs2 : BitVec 5) (s : State) : Out :=
  .next (s.putX s.cur rd (mulHigh (s.rx rs1).toNat (s.rx rs2).toNat))

/-- div (Table 3-2). -/
def execDiv (rd rs1 rs2 : BitVec 5) (s : State) : Out :=
  .next (s.putX s.cur rd (divS (s.rx rs1) (s.rx rs2)))

/-- divu (Table 3-2). -/
def execDivu (rd rs1 rs2 : BitVec 5) (s : State) : Out :=
  .next (s.putX s.cur rd (divU (s.rx rs1) (s.rx rs2)))

/-- rem (Table 3-2). -/
def execRem (rd rs1 rs2 : BitVec 5) (s : State) : Out :=
  .next (s.putX s.cur rd (remS (s.rx rs1) (s.rx rs2)))

/-- remu (Table 3-2). -/
def execRemu (rd rs1 rs2 : BitVec 5) (s : State) : Out :=
  .next (s.putX s.cur rd (remU (s.rx rs1) (s.rx rs2)))

/-- mulw (Table 3-2). -/
def execMulw (rd rs1 rs2 : BitVec 5) (s : State) : Out :=
  .next (s.putX s.cur rd (sext32 (low32 (s.rx rs1 * s.rx rs2))))

/-- divw (Table 3-2). -/
def execDivw (rd rs1 rs2 : BitVec 5) (s : State) : Out :=
  .next (s.putX s.cur rd (sext32 (divS (low32 (s.rx rs1)) (low32 (s.rx rs2)))))

/-- divuw (Table 3-2). -/
def execDivuw (rd rs1 rs2 : BitVec 5) (s : State) : Out :=
  .next (s.putX s.cur rd (sext32 (divU (low32 (s.rx rs1)) (low32 (s.rx rs2)))))

/-- remw (Table 3-2). -/
def execRemw (rd rs1 rs2 : BitVec 5) (s : State) : Out :=
  .next (s.putX s.cur rd (sext32 (remS (low32 (s.rx rs1)) (low32 (s.rx rs2)))))

/-- remuw (Table 3-2). -/
def execRemuw (rd rs1 rs2 : BitVec 5) (s : State) : Out :=
  .next (s.putX s.cur rd (sext32 (remU (low32 (s.rx rs1)) (low32 (s.rx rs2)))))

end Sys2Proof.Machine
end

