-- ==== Sys2Proof/Machine/Ready.lean ====
section
/-!
DEFINITION. Which instruction may issue (R66): the registers it names, those that wait for data, and the rest of the
readiness of a strand.
-/
namespace Sys2Proof.Machine

/-- The x registers that an instruction reads or writes through its fields; fp tells whether vetype is a floating-point type,
where the scalar operand of vmv and vmerge is an f register (Table 4-3). -/
def xregsOf (fp : Bool) (i : Instr) : List Nat :=
  match i with
  | .lui rd _ => [rd.toNat]
  | .auipc rd _ => [rd.toNat]
  | .jal rd _ => [rd.toNat]
  | .jalr rd rs1 _ => [rd.toNat, rs1.toNat]
  | .beq rs1 rs2 _ => [rs1.toNat, rs2.toNat]
  | .bne rs1 rs2 _ => [rs1.toNat, rs2.toNat]
  | .blt rs1 rs2 _ => [rs1.toNat, rs2.toNat]
  | .bge rs1 rs2 _ => [rs1.toNat, rs2.toNat]
  | .bltu rs1 rs2 _ => [rs1.toNat, rs2.toNat]
  | .bgeu rs1 rs2 _ => [rs1.toNat, rs2.toNat]
  | .lb rd rs1 _ => [rd.toNat, rs1.toNat]
  | .lh rd rs1 _ => [rd.toNat, rs1.toNat]
  | .lw rd rs1 _ => [rd.toNat, rs1.toNat]
  | .ld rd rs1 _ => [rd.toNat, rs1.toNat]
  | .lbu rd rs1 _ => [rd.toNat, rs1.toNat]
  | .lhu rd rs1 _ => [rd.toNat, rs1.toNat]
  | .lwu rd rs1 _ => [rd.toNat, rs1.toNat]
  | .sb rs1 rs2 _ => [rs1.toNat, rs2.toNat]
  | .sh rs1 rs2 _ => [rs1.toNat, rs2.toNat]
  | .sw rs1 rs2 _ => [rs1.toNat, rs2.toNat]
  | .sd rs1 rs2 _ => [rs1.toNat, rs2.toNat]
  | .addi rd rs1 _ => [rd.toNat, rs1.toNat]
  | .slti rd rs1 _ => [rd.toNat, rs1.toNat]
  | .sltiu rd rs1 _ => [rd.toNat, rs1.toNat]
  | .xori rd rs1 _ => [rd.toNat, rs1.toNat]
  | .ori rd rs1 _ => [rd.toNat, rs1.toNat]
  | .andi rd rs1 _ => [rd.toNat, rs1.toNat]
  | .slli rd rs1 _ => [rd.toNat, rs1.toNat]
  | .srli rd rs1 _ => [rd.toNat, rs1.toNat]
  | .srai rd rs1 _ => [rd.toNat, rs1.toNat]
  | .addiw rd rs1 _ => [rd.toNat, rs1.toNat]
  | .slliw rd rs1 _ => [rd.toNat, rs1.toNat]
  | .srliw rd rs1 _ => [rd.toNat, rs1.toNat]
  | .sraiw rd rs1 _ => [rd.toNat, rs1.toNat]
  | .add rd rs1 rs2 => [rd.toNat, rs1.toNat, rs2.toNat]
  | .sub rd rs1 rs2 => [rd.toNat, rs1.toNat, rs2.toNat]
  | .sll rd rs1 rs2 => [rd.toNat, rs1.toNat, rs2.toNat]
  | .slt rd rs1 rs2 => [rd.toNat, rs1.toNat, rs2.toNat]
  | .sltu rd rs1 rs2 => [rd.toNat, rs1.toNat, rs2.toNat]
  | .xor rd rs1 rs2 => [rd.toNat, rs1.toNat, rs2.toNat]
  | .srl rd rs1 rs2 => [rd.toNat, rs1.toNat, rs2.toNat]
  | .sra rd rs1 rs2 => [rd.toNat, rs1.toNat, rs2.toNat]
  | .or rd rs1 rs2 => [rd.toNat, rs1.toNat, rs2.toNat]
  | .and rd rs1 rs2 => [rd.toNat, rs1.toNat, rs2.toNat]
  | .addw rd rs1 rs2 => [rd.toNat, rs1.toNat, rs2.toNat]
  | .subw rd rs1 rs2 => [rd.toNat, rs1.toNat, rs2.toNat]
  | .sllw rd rs1 rs2 => [rd.toNat, rs1.toNat, rs2.toNat]
  | .srlw rd rs1 rs2 => [rd.toNat, rs1.toNat, rs2.toNat]
  | .sraw rd rs1 rs2 => [rd.toNat, rs1.toNat, rs2.toNat]
  | .mul rd rs1 rs2 => [rd.toNat, rs1.toNat, rs2.toNat]
  | .mulh rd rs1 rs2 => [rd.toNat, rs1.toNat, rs2.toNat]
  | .mulhsu rd rs1 rs2 => [rd.toNat, rs1.toNat, rs2.toNat]
  | .mulhu rd rs1 rs2 => [rd.toNat, rs1.toNat, rs2.toNat]
  | .div rd rs1 rs2 => [rd.toNat, rs1.toNat, rs2.toNat]
  | .divu rd rs1 rs2 => [rd.toNat, rs1.toNat, rs2.toNat]
  | .rem rd rs1 rs2 => [rd.toNat, rs1.toNat, rs2.toNat]
  | .remu rd rs1 rs2 => [rd.toNat, rs1.toNat, rs2.toNat]
  | .mulw rd rs1 rs2 => [rd.toNat, rs1.toNat, rs2.toNat]
  | .divw rd rs1 rs2 => [rd.toNat, rs1.toNat, rs2.toNat]
  | .divuw rd rs1 rs2 => [rd.toNat, rs1.toNat, rs2.toNat]
  | .remw rd rs1 rs2 => [rd.toNat, rs1.toNat, rs2.toNat]
  | .remuw rd rs1 rs2 => [rd.toNat, rs1.toNat, rs2.toNat]
  | .lrW rd rs1 _ _ => [rd.toNat, rs1.toNat]
  | .lrD rd rs1 _ _ => [rd.toNat, rs1.toNat]
  | .scW rd rs1 rs2 _ _ => [rd.toNat, rs1.toNat, rs2.toNat]
  | .scD rd rs1 rs2 _ _ => [rd.toNat, rs1.toNat, rs2.toNat]
  | .amoswapW rd rs1 rs2 _ _ => [rd.toNat, rs1.toNat, rs2.toNat]
  | .amoswapD rd rs1 rs2 _ _ => [rd.toNat, rs1.toNat, rs2.toNat]
  | .amoaddW rd rs1 rs2 _ _ => [rd.toNat, rs1.toNat, rs2.toNat]
  | .amoaddD rd rs1 rs2 _ _ => [rd.toNat, rs1.toNat, rs2.toNat]
  | .amoxorW rd rs1 rs2 _ _ => [rd.toNat, rs1.toNat, rs2.toNat]
  | .amoxorD rd rs1 rs2 _ _ => [rd.toNat, rs1.toNat, rs2.toNat]
  | .amoandW rd rs1 rs2 _ _ => [rd.toNat, rs1.toNat, rs2.toNat]
  | .amoandD rd rs1 rs2 _ _ => [rd.toNat, rs1.toNat, rs2.toNat]
  | .amoorW rd rs1 rs2 _ _ => [rd.toNat, rs1.toNat, rs2.toNat]
  | .amoorD rd rs1 rs2 _ _ => [rd.toNat, rs1.toNat, rs2.toNat]
  | .amominW rd rs1 rs2 _ _ => [rd.toNat, rs1.toNat, rs2.toNat]
  | .amominD rd rs1 rs2 _ _ => [rd.toNat, rs1.toNat, rs2.toNat]
  | .amomaxW rd rs1 rs2 _ _ => [rd.toNat, rs1.toNat, rs2.toNat]
  | .amomaxD rd rs1 rs2 _ _ => [rd.toNat, rs1.toNat, rs2.toNat]
  | .amominuW rd rs1 rs2 _ _ => [rd.toNat, rs1.toNat, rs2.toNat]
  | .amominuD rd rs1 rs2 _ _ => [rd.toNat, rs1.toNat, rs2.toNat]
  | .amomaxuW rd rs1 rs2 _ _ => [rd.toNat, rs1.toNat, rs2.toNat]
  | .amomaxuD rd rs1 rs2 _ _ => [rd.toNat, rs1.toNat, rs2.toNat]
  | .flw _ rs1 _ => [rs1.toNat]
  | .fsw rs1 _ _ => [rs1.toNat]
  | .fcvtWS rd _ _ => [rd.toNat]
  | .fcvtWuS rd _ _ => [rd.toNat]
  | .fcvtLS rd _ _ => [rd.toNat]
  | .fcvtLuS rd _ _ => [rd.toNat]
  | .fcvtSW _ _ rs1 => [rs1.toNat]
  | .fcvtSWu _ _ rs1 => [rs1.toNat]
  | .fcvtSL _ _ rs1 => [rs1.toNat]
  | .fcvtSLu _ _ rs1 => [rs1.toNat]
  | .fmvXW rd _ => [rd.toNat]
  | .fclassS rd _ => [rd.toNat]
  | .feqS rd _ _ => [rd.toNat]
  | .fltS rd _ _ => [rd.toNat]
  | .fleS rd _ _ => [rd.toNat]
  | .fmvWX _ rs1 => [rs1.toNat]
  | .csrrw rd rs1 _ => [rd.toNat, rs1.toNat]
  | .csrrs rd rs1 _ => [rd.toNat, rs1.toNat]
  | .csrrc rd rs1 _ => [rd.toNat, rs1.toNat]
  | .csrrwi rd _ _ => [rd.toNat]
  | .csrrsi rd _ _ => [rd.toNat]
  | .csrrci rd _ _ => [rd.toNat]
  | .sfenceVma rs1 rs2 => [rs1.toNat, rs2.toNat]
  | .vloop xc _ _ => [xc.toNat]
  | .vloopcfg _ rs1 => [rs1.toNat]
  | .vcfg rd rs1 => [rd.toNat, rs1.toNat]
  | .vsetlen rd rs1 _ => [rd.toNat, rs1.toNat]
  | .lycfg _ rs1 => [rs1.toNat]
  | .flsc _ rs1 _ => [rs1.toNat]
  | .ldfe rd rs1 => [rd.toNat, rs1.toNat]
  | .stfe rs1 rs2 => [rs1.toNat, rs2.toNat]
  | .ringset _ rs1 => [rs1.toNat]
  | .ringacq rd rs1 _ => [rd.toNat, rs1.toNat]
  | .ringrel rd _ => [rd.toNat]
  | .ringexp _ rs1 => [rs1.toNat]
  | .ringtst rd rs1 _ => [rd.toNat, rs1.toNat]
  | .cpset _ rs1 _ => [rs1.toNat]
  | .cplaunch rd _ => [rd.toNat]
  | .cpstat rd _ => [rd.toNat]
  | .strmopen rd rs1 => [rd.toNat, rs1.toNat]
  | .strmclose rs1 => [rs1.toNat]
  | .tack rd rs1 rs2 => [rd.toNat, rs1.toNat, rs2.toNat]
  | .qpush rd rs1 rs2 => [rd.toNat, rs1.toNat, rs2.toNat]
  | .qpop rd rs1 rs2 => [rd.toNat, rs1.toNat, rs2.toNat]
  | .exit rs1 _ => [rs1.toNat]
  | .wdq rs1 rs2 => [rs1.toNat, rs2.toNat]
  | .tcommit rs1 rs2 => [rs1.toNat, rs2.toNat]
  | .tskip rs1 => [rs1.toNat]
  | .tcfg rs1 rs2 => [rs1.toNat, rs2.toNat]
  | .gangarm rs1 rs2 => [rs1.toNat, rs2.toNat]
  | .amoaddf rd rs1 rs2 _ => [rd.toNat, rs1.toNat, rs2.toNat]
  | .amomaxf rd rs1 rs2 _ => [rd.toNat, rs1.toNat, rs2.toNat]
  | .bwcfg rs1 _ => [rs1.toNat]
  | .bwarr rs1 _ => [rs1.toNat]
  | .bwtst rd _ => [rd.toNat]
  | .wev rd rs1 => [rd.toNat, rs1.toNat]
  | .fqpop rd rs1 => [rd.toNat, rs1.toNat]
  | .vstupd rs1 rs2 => [rs1.toNat, rs2.toNat]
  | .kill rs1 => [rs1.toNat]
  | .islctl rd rs1 rs2 => [rd.toNat, rs1.toNat, rs2.toNat]
  | .vsave rs1 => [rs1.toNat]
  | .vrestore rs1 => [rs1.toNat]
  | .wayset rs1 rs2 => [rs1.toNat, rs2.toNat]
  | .vadd _ _ v1 _ s => if s = 1 then [v1.toNat] else []
  | .vsub _ _ v1 _ s => if s = 1 then [v1.toNat] else []
  | .vmul _ _ v1 _ s => if s = 1 then [v1.toNat] else []
  | .vmulh _ _ v1 _ s => if s = 1 then [v1.toNat] else []
  | .vmulhu _ _ v1 _ s => if s = 1 then [v1.toNat] else []
  | .vmacc _ _ v1 _ s => if s = 1 then [v1.toNat] else []
  | .vand _ _ v1 _ s => if s = 1 then [v1.toNat] else []
  | .vor _ _ v1 _ s => if s = 1 then [v1.toNat] else []
  | .vxor _ _ v1 _ s => if s = 1 then [v1.toNat] else []
  | .vsll _ _ v1 _ s => if s = 1 then [v1.toNat] else []
  | .vsrl _ _ v1 _ s => if s = 1 then [v1.toNat] else []
  | .vsra _ _ v1 _ s => if s = 1 then [v1.toNat] else []
  | .vmin _ _ v1 _ s => if s = 1 then [v1.toNat] else []
  | .vminu _ _ v1 _ s => if s = 1 then [v1.toNat] else []
  | .vmax _ _ v1 _ s => if s = 1 then [v1.toNat] else []
  | .vmaxu _ _ v1 _ s => if s = 1 then [v1.toNat] else []
  | .vseq _ _ v1 _ s => if s = 1 then [v1.toNat] else []
  | .vsne _ _ v1 _ s => if s = 1 then [v1.toNat] else []
  | .vslt _ _ v1 _ s => if s = 1 then [v1.toNat] else []
  | .vsltu _ _ v1 _ s => if s = 1 then [v1.toNat] else []
  | .vsle _ _ v1 _ s => if s = 1 then [v1.toNat] else []
  | .vsleu _ _ v1 _ s => if s = 1 then [v1.toNat] else []
  | .vmv _ _ v1 s => if s = 1 ∧ !fp then [v1.toNat] else []
  | .vmvxs d _ => [d.toNat]
  | .vmerge _ _ v1 _ s => if s = 1 ∧ !fp then [v1.toNat] else []
  | .vslideup _ _ v1 _ => [v1.toNat]
  | .vslidedn _ _ v1 _ => [v1.toNat]
  | .kpopc d _ => [d.toNat]
  | .kfirst d _ => [d.toNat]
  | .vbvrd d _ _ => [d.toNat]
  | .vbvwr _ rs1 _ => [rs1.toNat]
  | .vld _ _ rs1 _ => [rs1.toNat]
  | .vst _ _ rs1 _ => [rs1.toNat]
  | .vlds _ _ rs1 rs2 _ => [rs1.toNat, rs2.toNat]
  | .vsts _ _ rs1 rs2 _ => [rs1.toNat, rs2.toNat]
  | .vldx _ _ rs1 _ _ => [rs1.toNat]
  | .vstx _ _ rs1 _ _ => [rs1.toNat]
  | .vpref rs1 _ => [rs1.toNat]
  | .vldfe _ _ rs1 => [rs1.toNat]
  | .vstfe _ _ rs1 => [rs1.toNat]
  | .vqld _ rs1 _ => [rs1.toNat]
  | .vqst _ rs1 _ _ => [rs1.toNat]
  | .vamoadd _ _ rs1 _ => [rs1.toNat]
  | .vamomin _ _ rs1 _ => [rs1.toNat]
  | .vamomax _ _ rs1 _ => [rs1.toNat]
  | .vsend _ rs1 => [rs1.toNat]
  | .vrecv _ rs1 => [rs1.toNat]
  | .mlease d => [d.toNat]
  | .mwld rs1 rs2 => [rs1.toNat, rs2.toNat]
  | .mld _ rs1 => [rs1.toNat]
  | .mst _ _ rs1 _ _ => [rs1.toNat]
  | .mmacE4e4 _ rs1 rs2 _ => [rs1.toNat, rs2.toNat]
  | .mmacE5e4 _ rs1 rs2 _ => [rs1.toNat, rs2.toNat]
  | .mmacE4e5 _ rs1 rs2 _ => [rs1.toNat, rs2.toNat]
  | .mmacE5e5 _ rs1 rs2 _ => [rs1.toNat, rs2.toNat]
  | .mmacBf16 _ rs1 rs2 _ => [rs1.toNat, rs2.toNat]
  | .mmacE4q _ rs1 rs2 _ => [rs1.toNat, rs2.toNat]
  | .mmacF4 _ rs1 rs2 _ => [rs1.toNat, rs2.toNat]
  | .mmacF4q _ rs1 rs2 _ => [rs1.toNat, rs2.toNat]
  | .rbox _ _ rs2 => [rs2.toNat]
  | .rtri _ _ rs2 => [rs2.toNat]
  | .qsph _ _ rs2 => [rs2.toNat]
  | .qknn _ _ rs2 => [rs2.toNat]
  | .qkey _ _ rs2 => [rs2.toNat]
  | .vedge _ _ rs2 => [rs2.toNat]
  | .tsamp _ _ rs2 => [rs2.toNat]
  | .tfetch _ _ rs2 => [rs2.toNat]
  | .tdecode _ _ rs2 => [rs2.toNat]
  | _ => []

/-- The f registers that an instruction reads or writes, for the same kind of vetype. -/
def fregsOf (fp : Bool) (i : Instr) : List Nat :=
  match i with
  | .flw rd _ _ => [rd.toNat]
  | .fsw _ rs2 _ => [rs2.toNat]
  | .fmaddS rd _ rs1 rs2 rs3 => [rd.toNat, rs1.toNat, rs2.toNat, rs3.toNat]
  | .fmsubS rd _ rs1 rs2 rs3 => [rd.toNat, rs1.toNat, rs2.toNat, rs3.toNat]
  | .fnmsubS rd _ rs1 rs2 rs3 => [rd.toNat, rs1.toNat, rs2.toNat, rs3.toNat]
  | .fnmaddS rd _ rs1 rs2 rs3 => [rd.toNat, rs1.toNat, rs2.toNat, rs3.toNat]
  | .faddS rd _ rs1 rs2 => [rd.toNat, rs1.toNat, rs2.toNat]
  | .fsubS rd _ rs1 rs2 => [rd.toNat, rs1.toNat, rs2.toNat]
  | .fmulS rd _ rs1 rs2 => [rd.toNat, rs1.toNat, rs2.toNat]
  | .fdivS rd _ rs1 rs2 => [rd.toNat, rs1.toNat, rs2.toNat]
  | .fsqrtS rd _ rs1 => [rd.toNat, rs1.toNat]
  | .fsgnjS rd rs1 rs2 => [rd.toNat, rs1.toNat, rs2.toNat]
  | .fsgnjnS rd rs1 rs2 => [rd.toNat, rs1.toNat, rs2.toNat]
  | .fsgnjxS rd rs1 rs2 => [rd.toNat, rs1.toNat, rs2.toNat]
  | .fminS rd rs1 rs2 => [rd.toNat, rs1.toNat, rs2.toNat]
  | .fmaxS rd rs1 rs2 => [rd.toNat, rs1.toNat, rs2.toNat]
  | .fcvtWS _ _ rs1 => [rs1.toNat]
  | .fcvtWuS _ _ rs1 => [rs1.toNat]
  | .fcvtLS _ _ rs1 => [rs1.toNat]
  | .fcvtLuS _ _ rs1 => [rs1.toNat]
  | .fcvtSW rd _ _ => [rd.toNat]
  | .fcvtSWu rd _ _ => [rd.toNat]
  | .fcvtSL rd _ _ => [rd.toNat]
  | .fcvtSLu rd _ _ => [rd.toNat]
  | .fmvXW _ rs1 => [rs1.toNat]
  | .fclassS _ rs1 => [rs1.toNat]
  | .feqS _ rs1 rs2 => [rs1.toNat, rs2.toNat]
  | .fltS _ rs1 rs2 => [rs1.toNat, rs2.toNat]
  | .fleS _ rs1 rs2 => [rs1.toNat, rs2.toNat]
  | .fmvWX rd _ => [rd.toNat]
  | .flsc rd _ _ => [rd.toNat]
  | .vfadd _ _ v1 _ s => if s = 1 then [v1.toNat] else []
  | .vfsub _ _ v1 _ s => if s = 1 then [v1.toNat] else []
  | .vfmul _ _ v1 _ s => if s = 1 then [v1.toNat] else []
  | .vfdiv _ _ v1 _ s => if s = 1 then [v1.toNat] else []
  | .vfmacc _ _ v1 _ s => if s = 1 then [v1.toNat] else []
  | .vfnmacc _ _ v1 _ s => if s = 1 then [v1.toNat] else []
  | .vfmsac _ _ v1 _ s => if s = 1 then [v1.toNat] else []
  | .vfmin _ _ v1 _ s => if s = 1 then [v1.toNat] else []
  | .vfmax _ _ v1 _ s => if s = 1 then [v1.toNat] else []
  | .vfsgnj _ _ v1 _ s => if s = 1 then [v1.toNat] else []
  | .vfeq _ _ v1 _ s => if s = 1 then [v1.toNat] else []
  | .vflt _ _ v1 _ s => if s = 1 then [v1.toNat] else []
  | .vfle _ _ v1 _ s => if s = 1 then [v1.toNat] else []
  | .vmv _ _ v1 s => if s = 1 ∧ fp then [v1.toNat] else []
  | .vmerge _ _ v1 _ s => if s = 1 ∧ fp then [v1.toNat] else []
  | .vmmaE4e4 _ _ _ fs3 => (List.range 16).map (fun i => fs3.toNat + i)
  | .vmmaE5e4 _ _ _ fs3 => (List.range 16).map (fun i => fs3.toNat + i)
  | .vmmaBf16 _ _ _ fs3 => (List.range 16).map (fun i => fs3.toNat + i)
  | .vmmaE4q _ _ _ fs3 => (List.range 16).map (fun i => fs3.toNat + i)
  | _ => []

/-- The slot of a vloop, whose address registers it also reads and writes (R74). -/
def loopSlotOf (i : Instr) : Option Nat := match i with | .vloop _ slot _ => some slot.toNat | _ => none

/-- Whether an instruction is a CSR instruction, which issues only with nothing older in flight (R66). -/
def isCsr (i : Instr) : Bool :=
  match i with
  | .csrrw _ _ _ => true
  | .csrrs _ _ _ => true
  | .csrrc _ _ _ => true
  | .csrrwi _ _ _ => true
  | .csrrsi _ _ _ => true
  | .csrrci _ _ _ => true
  | _ => false

/-- The address registers of a loop slot's used entries (R73). -/
def LoopSlot.regs (l : LoopSlot) : List Nat := ((List.range 4).map (fun j => fld l.cfg (16 * j) 5)).filter (fun r => r != 0)

/-- The x registers that wait for the data of a load or for a value from the VAQ (R66, R91). -/
def Hart.busyX (t : Hart) : List Nat :=
  (t.loads.filter (fun l => !l.isF)).map Load.rd ++
    (t.remotes.filterMap Remote.load |>.filter (fun l => !l.isF)).map Load.rd ++ t.vec.queue.filterMap (fun e => e.op.xdest)

/-- The f registers that wait for the data of a load. -/
def Hart.busyF (t : Hart) : List Nat :=
  (t.loads.filter (fun l => l.isF)).map Load.rd ++ (t.remotes.filterMap Remote.load |>.filter (fun l => l.isF)).map Load.rd

/-- Whether the registers of an instruction are ready, and a CSR instruction has nothing older in flight. -/
def Hart.ready (t : Hart) (i : Instr) : Bool :=
  let fp := (fmtOf t.vec.vetype).isSome
  let xs := xregsOf fp i ++ (match loopSlotOf i with
    | some k => (t.vec.loops.get LoopSlot.empty k).regs
    | none => [])
  xs.all (fun r => decide (r = 0) || !t.busyX.contains r) && (fregsOf fp i).all (fun r => !t.busyF.contains r) &&
    (!isCsr i || (t.loads.isEmpty && t.remotes.all (fun r => r.load.isNone) && t.vec.queue.all (fun e => e.op.xdest.isNone)))

end Sys2Proof.Machine
end

