-- ==== Sys2Proof/Machine/VecConfig.lean ====
section
/-!
DEFINITION. Vector configuration and strip-mined loops (R68 to R76), leeway registers (R165 to R169), flsc (R170).
-/
namespace Sys2Proof.Machine

/-! ## Legality shared by the vector instructions (R30, R37) -/

/-- The vector side of the current hart. -/
def State.vec (s : State) : Vec := (s.hart s.cur).vec

/-- Whether a field names a vector register below n (R30). -/
def State.vreg (s : State) (r : BitVec 5) : Bool := decide (r.toNat < nregs s.vec.ncode)

/-- Whether the vetype in force is a defined code (R37, R104, Table 2-8). -/
def State.tyOk (s : State) : Bool := typeDefined s.vec.vetype

/-! ## vcfg (R68, R69) -/

/-- The configuration in force, as a word of Table 4-1. -/
def Vec.config (v : Vec) : Word := word (v.ncode + v.slip * 16)

/-- Whether the three queues are empty and every vector access issued is complete. -/
def Vec.idle (v : Vec) : Bool := v.queue.isEmpty

/-- vcfg changes n: every register to contents 0, clean and valid, vl to 0. -/
def Vec.reconfigure (v : Vec) (ncode slip : Nat) : Vec := { v with ncode := ncode, slip := slip, vl := 0, v := [] }

/-- A vcfg that changes n is done, its queues empty. -/
def State.vcfgDone (s : State) (h rd ncode slip : Nat) : State :=
  let old := (s.hart h).vec.config
  ((s.setX h rd old).onVec h (fun v => v.reconfigure ncode slip)).retire h

/-- vcfg (R68, R69). -/
def execVcfg (rd rs1 : BitVec 5) (s : State) : Out :=
  let h := s.cur
  let w := s.rx rs1
  let v := s.vec
  let n := fld w 0 2
  let slip := fld w 4 4
  s.own (fieldsVcfg rd rs1).toWord
    (decide (n ≠ 3) && zeroBits w 2 2 && zeroBits w 8 56 && (decide (n = v.ncode) || v.resume.isEmpty))
    (if n = v.ncode then ((s.setX h rd.toNat v.config).onVec h (fun v => { v with slip := slip })).retire h
    else if v.idle then s.vcfgDone h rd.toNat n slip
    else s.hold h (.vcfg rd.toNat n slip))

/-- The granted length of a request (R70). -/
def grant (vgrant ncode : Nat) (ty : BitVec 4) (req : Nat) : Nat :=
  min req (min (vlmax ncode ty) (vgrant * 2048 / ebits ty))

/-- vsetlen (R70). -/
def execVsetlen (rd rs1 : BitVec 5) (ty : BitVec 4) (s : State) : Out :=
  let h := s.cur
  let vl := grant s.vec.vgrant s.vec.ncode ty (s.rx rs1).toNat
  s.own (fieldsVsetlen rd rs1 ty).toWord (typeDefined ty)
    ((s.onVec h (fun v => { v with vl := vl, vetype := ty })).putX h rd (word vl))

/-! ## Loops (R73 to R75) -/

/-- The scale of entry j, a signed value of 11 bits (R73). -/
def LoopSlot.scale (l : LoopSlot) (j : Nat) : Word := sx 11 (fld l.cfg (16 * j + 5) 11)

/-- vloopcfg (R73). -/
def execVloopcfg (slot : BitVec 2) (rs1 : BitVec 5) (s : State) : Out :=
  let l : LoopSlot := { LoopSlot.empty with cfg := s.rx rs1 }
  s.own (fieldsVloopcfg slot rs1).toWord (decide l.regs.Nodup)
    ((s.onVec s.cur (fun v => { v with loops := v.loops.ins slot.toNat l })).retire s.cur)

/-- The address registers of a slot advance by VL elements (R74). -/
def State.advance (s : State) (h : Nat) (l : LoopSlot) (vl : Nat) : State :=
  (List.range 4).foldl (fun (s : State) j =>
    let r := fld l.cfg (16 * j) 5
    if r = 0 then s else s.setX h r (s.x h r + word vl * l.scale j)) s

/-- Change a loop slot. -/
def State.setSlot (s : State) (h k : Nat) (l : LoopSlot) : State :=
  s.onVec h (fun v => { v with loops := v.loops.ins k l })

/-- vloop (R74, R75). -/
def execVloop (xc : BitVec 5) (slot : BitVec 2) (off : BitVec 12) (s : State) : Out :=
  let h := s.cur
  let k := slot.toNat
  let l := s.vec.loops.get LoopSlot.empty k
  let vl := s.vec.vl
  let new := s.rx xc - word vl
  let goes := (0 : Word).slt new
  let base := l.prev.getD (s.rx xc)
  let miss := if base.sle new then min 2 (l.miss + 1) else 0
  let target := (s.hart h).pc + offB off
  let body : State :=
    if goes && decide (miss = 2) then
      (s.setSlot h k { l with miss := 2 }).raise h 24 (word (k + vl * 2 ^ 16))
    else if goes && decide (target.toNat % 4 ≠ 0) then s.raise h 0 target
    else
      let s := (s.advance h l vl).setX h xc.toNat new
      if goes then (s.setSlot h k { l with prev := some new, miss := miss, creg := some xc.toNat }).retireTo h target
      else (s.setSlot h k { l with prev := none, miss := 0, creg := some xc.toNat }).retire h
  s.own (fieldsVloop xc slot off).toWord (decide (xc ≠ 0) && !l.regs.contains xc.toNat) body

/-! ## Leeway registers (R165 to R167) and flsc (R170) -/

/-- Whether every older vqst, lysave, lyload and mst that names the register is complete (R165). -/
def State.lyReady (s : State) (h ly : Nat) : Bool :=
  !((s.hart h).vec.queue.any (fun e => e.op.names ly)) &&
    !((s.acmds h).any (fun a => match a.op.ly with | some l => decide (l = ly) | none => false))

/-- Change a leeway register. -/
def State.onLy (s : State) (h ly : Nat) (f : Leeway → Leeway) : State :=
  s.onVec h (fun v => { v with ly := v.ly.ins ly (f (v.ly.get Leeway.start ly)) })

/-- The state that a chain configuration word gives (R166). -/
def Leeway.ofWord (w : Word) : Leeway := { res := [], c := fld w 0 9, p := fld w 16 8, ns := bit w 31 }

/-- Whether a chain configuration word is legal (R166, Table 7-7). -/
def chainOk (w : Word) : Bool :=
  decide (1 ≤ fld w 0 9) && decide (fld w 0 9 ≤ 256) && decide (fld w 16 8 < fld w 0 9) && zeroBits w 9 7 &&
    zeroBits w 24 7 && zeroBits w 32 32

/-- A waiting lycfg takes effect. -/
def State.lycfgDone (s : State) (h ly : Nat) (w : Word) : State := (s.onLy h ly (fun _ => Leeway.ofWord w)).retire h

/-- A waiting lyclr takes effect. -/
def State.lyclrDone (s : State) (h ly : Nat) : State := (s.onLy h ly (fun l => { l with res := [] })).retire h

/-- lycfg (R165, R166). -/
def execLycfg (ly : BitVec 2) (rs1 : BitVec 5) (s : State) : Out :=
  s.own (fieldsLycfg ly rs1).toWord (chainOk (s.rx rs1))
    (if s.lyReady s.cur ly.toNat then s.lycfgDone s.cur ly.toNat (s.rx rs1)
    else s.hold s.cur (.lycfg ly.toNat (s.rx rs1)))

/-- lyclr (R165, R167). -/
def execLyclr (ly : BitVec 2) (s : State) : Out :=
  s.own (fieldsLyclr ly).toWord true
    (if s.lyReady s.cur ly.toNat then s.lyclrDone s.cur ly.toNat else s.hold s.cur (.lyclr ly.toNat))

/-- Nothing captured from registers. -/
def Captured.none : Captured := { x1 := 0, x2 := 0, fv := 0, scales := [] }

/-- lysave (R168): into the VAQ. -/
def execLysave (d : BitVec 5) (ly : BitVec 2) (s : State) : Out :=
  s.own (fieldsLysave d ly).toWord (s.vreg d)
    (s.enqueue s.cur .vaq (.lysave d.toNat ly.toNat) (fieldsLysave d ly).toWord Captured.none)

/-- lyload (R169): into the VAQ. -/
def execLyload (ly : BitVec 2) (v1 : BitVec 5) (s : State) : Out :=
  s.own (fieldsLyload ly v1).toWord (s.vreg v1)
    (s.enqueue s.cur .vaq (.lyload ly.toNat v1.toNat) (fieldsLyload ly v1).toWord Captured.none)

/-- flsc (R170). -/
def execFlsc (rd rs1 : BitVec 5) (sf : BitVec 1) (s : State) : Out :=
  s.own (fieldsFlsc rd rs1 sf).toWord (!s.fsOff s.cur)
    (let m4 := decide (sf = 1)
     (s.setF s.cur rd.toNat (scaleF32 m4 (fld (s.rx rs1) 0 (if m4 then 12 else 8)))).retire s.cur)

end Sys2Proof.Machine
end

