-- ==== Sys2Proof/Machine/Staging.lean ====
section
/-!
DEFINITION. Rings (R204 to R212), copy channels (R213 to R218), streams (R220 to R223), way roles (R219), link turns
(R224, R225), waitc and the three directional fences (R33, R262 to R266).
-/
namespace Sys2Proof.Machine

/-! ## Reads of memory that an instruction makes at its retirement -/

/-- Read n bytes as a scalar load does; the number goes to `k`. The hart waits behind a copy that holds the bytes and for
its own loads of them. A remote window or a device register gives a load access fault: the model's choice for a ringset's
descriptor, of a width that R56 does not name there (log 27). -/
def State.readThen (s : State) (h base : Nat) (va : Word) (n : Nat) (k : State → Nat → State) : State :=
  match s.access h va n .load with
  | .stop z => s.scalarStop h va false (some base) z
  | .ok x =>
    match regionOf x.pa with
    | .remote _ _ => s.raise h 5 va
    | .reg _ => s.raise h 5 va
    | _ =>
      if s.held h (s.hart h).pos va.toNat n false || s.ioWaits h x || (s.hart h).loading x.pa n then s
      else k ((s.setAD x).readHomed h x n) ((s.setAD x).overlay h (s.hart h).pos x.pa n)

/-! ## Rings (R204 to R210) -/

/-- The group of the task that a hart runs: context and group serial; a hart with no task is a group of its own. -/
def State.groupOf (s : State) (h : Nat) : Nat × Nat :=
  match (s.hart h).task with
  | some k => (k.ctx, fld k.coord 8 24)
  | none => (16, h)

/-- The region that a descriptor names: physical base and whether it is a vault's; none where the base is not a multiple
of 128 in the own scratch or vault window with the whole region inside (Table 9-2). -/
def State.ringRegion (h : Nat) (base size : Nat) : Option (Nat × Bool) :=
  if base % 128 ≠ 0 then none
  else match winOf base with
  | .scratch o => if o + size ≤ 0xC0000 then some (scratchBase (coreOf h) + o, false) else none
  | .vault o => if o + size ≤ 0x2000000 then some (vaultBase (clOf h) + o, true) else none
  | _ => none

/-- Whether the fields of a descriptor are within Table 9-2. -/
def ringFieldsOk (d : BitVec 256) : Bool :=
  let z := fld d 0 32
  let n := fld d 32 8
  let dd := fld d 40 8
  let p := fld d 48 8
  let q := fld d 56 8
  decide (z % 128 = 0) && decide (128 ≤ z) && decide (z ≤ 0x1000000) && decide (2 ≤ n) && decide (n ≤ 16) &&
    decide (1 ≤ dd) && decide (dd < n) && decide (1 ≤ p) && decide (p ≤ 16) && decide (1 ≤ q) && decide (q ≤ 16) &&
    decide (p + q ≤ 16) && decide (fld d 128 128 = 0)

/-- A stage that enters the window. -/
def Stage.fresh (seq exp : Nat) : Stage := { seq := seq, exp := exp, arr := 0, complete := false, released := 0 }

/-- A ring just created from a descriptor. -/
def Ring.create (id : Nat) (group : Nat × Nat) (d : BitVec 256) (reg : Nat × Bool) : Ring :=
  { id := id, group := group, desc := d, vault := reg.2, basePa := reg.1, z := fld d 0 32, n := fld d 32 8,
    d := fld d 40 8, p := fld d 48 8, q := fld d 56 8, prods := 0, cons := 0, formed := false, r := 0, stages := [],
    pendExp := 0 }

/-- The last joiner forms the ring (R205): R := 0, its stages fresh, the bits of a scratch region cleared; what its
members had posted for or released of the ring's earlier stages counts no more, and what the members that stay hold
acquired keeps its sequence numbers, where the rule says nothing (log 21). -/
def State.formRing (s : State) (cl id : Nat) : State :=
  match s.ring cl id with
  | none => s
  | some r =>
    if r.prods = r.p ∧ r.cons = r.q ∧ r.formed = false then
      let s := s.onRing cl id (fun r =>
        { r with formed := true, r := 0, stages := (List.range r.n).map (fun q => Stage.fresh q r.p), pendExp := 0 })
      let anew := fun (q : Nat × RingSlot) => if q.2.ring = id then (q.1, { q.2 with left := [] }) else q
      let f := fun (g : Staging) =>
        { g with releases := g.releases.filter (fun l => l.ring != id), rings := g.rings.map anew }
      let s := { s with harts := s.harts.map (fun (p : Nat × Hart) =>
        if clOf p.1 = cl then (p.1, { p.2 with stg := f p.2.stg }) else p) }
      if r.vault then s else s.setLines (lineOf r.basePa) (r.n * r.z / 128) false
    else s

/-- A strand joins a ring in a role. -/
def State.joinRing (s : State) (h slot id : Nat) (consumer : Bool) : State :=
  let f := fun (r : Ring) => if consumer then { r with cons := r.cons + 1 } else { r with prods := r.prods + 1 }
  let s := s.onRing (clOf h) id f
  let s := s.onStg h (fun g => { g with rings := g.rings.ins slot { ring := id, consumer := consumer, acq := [], left := [] } })
  s.formRing (clOf h) id

/-- ringset with the descriptor read (R205); none where RING_BOUND is raised. -/
def State.ringset (s : State) (h slot : Nat) (x : Word) (d : BitVec 256) : Option State :=
  let cl := clOf h
  let cons := bit x 0
  match State.ringRegion h (fld d 64 64) (fld d 0 32 * fld d 32 8) with
  | none => none
  | some reg =>
    if !ringFieldsOk d || decide (fld x 1 4 ≠ 0) || ((s.hart h).stg.rings.find slot).isSome then none
    else match (s.cluster cl).rings.find? (fun r => decide (r.group = s.groupOf h) && decide (r.basePa = reg.1)) with
    | some r =>
      if r.desc ≠ d ∨ (if cons then r.q ≤ r.cons else r.p ≤ r.prods) then none else some (s.joinRing h slot r.id cons)
    | none =>
      if 32 ≤ (s.cluster cl).rings.length then none
      else
        let id := (s.cluster cl).ringSerial
        let s := s.onCluster cl (fun c =>
          { c with rings := c.rings ++ [Ring.create id (s.groupOf h) d reg], ringSerial := id + 1 })
        some (s.joinRing h slot id cons)

/-- A strand withdraws from the ring of a slot: its acquisitions are dropped, the slot becomes unset, the ring is no
longer formed, and its entry is freed with its last member. -/
def State.withdraw (s : State) (h slot : Nat) : State :=
  match (s.hart h).stg.rings.find slot with
  | none => s
  | some rs =>
    let s := s.onStg h (fun g => { g with rings := g.rings.del slot })
    let f := fun (r : Ring) =>
      { r with formed := false
               cons := if rs.consumer then r.cons - 1 else r.cons
               prods := if rs.consumer then r.prods else r.prods - 1 }
    let s := s.onRing (clOf h) rs.ring f
    s.onCluster (clOf h) (fun c => { c with rings := c.rings.filter (fun r => decide (r.prods + r.cons ≠ 0)) })

/-- The ring slot and ring of a strand where the ring is formed. -/
def State.ringOf (s : State) (h slot : Nat) : Option (RingSlot × Ring) :=
  match (s.hart h).stg.rings.find slot with
  | none => none
  | some rs => match s.ring (clOf h) rs.ring with
    | some r => if r.formed then some (rs, r) else none
    | none => none

/-- Whether the stage of a sequence number is complete. -/
def Ring.completeAt (r : Ring) (q : Nat) : Bool := match r.stage q with | some t => t.complete | none => false

/-- The result code of ringacq for relative stage k (R207). A member that has released the stage waits for the next one
(log 36). -/
def acqCode (x : Option (RingSlot × Ring)) (k : Nat) : Nat :=
  match x with
  | none => 3
  | some (rs, r) =>
    if r.d ≤ k then 2
    else if r.completeAt (r.r + k) = rs.consumer ∧ rs.left.contains (r.r + k) = false then 0
    else 1

/-- Change the acquisitions of a ring slot. -/
def State.onAcq (s : State) (h slot : Nat) (f : List Nat → List Nat) : State :=
  s.onStg h (fun g => match g.rings.find slot with
    | some rs => { g with rings := g.rings.ins slot { rs with acq := f rs.acq } }
    | none => g)

/-- A member releases a stage: it is no longer acquired, and it is kept as released while R has not passed
it. -/
def State.leaveStage (s : State) (h slot rr q : Nat) : State :=
  let f := fun (rs : RingSlot) =>
    { rs with acq := rs.acq.filter (fun y => y != q), left := rs.left.filter (fun y => rr ≤ y) ++ [q] }
  s.onStg h (fun g => match g.rings.find slot with
    | some rs => { g with rings := g.rings.ins slot (f rs) }
    | none => g)

/-- ringacq (R207). -/
def State.ringacq (s : State) (h slot k : Nat) : State × Nat :=
  let x := s.ringOf h slot
  let c := acqCode x k
  match x with
  | some (_, r) => if c = 0 then (s.onAcq h slot (fun a => if a.contains (r.r + k) then a else a ++ [r.r + k]), 0) else (s, c)
  | none => (s, c)

/-- ringrel (R208): the release is posted. -/
def State.ringrel (s : State) (h slot : Nat) : State × Nat :=
  match s.ringOf h slot with
  | none => (s, 3)
  | some (rs, r) =>
    let pick := if rs.consumer then (if rs.acq.contains r.r then some r.r else none) else leastBy id rs.acq
    match pick with
    | none => (s, 1)
    | some q =>
      let s := s.leaveStage h slot r.r q
      (s.onHart h (fun t => { t with stg := { t.stg with
        releases := t.stg.releases ++ [{ ring := rs.ring, stage := q, producer := !rs.consumer, pos := t.pos }] } }), 0)

/-- ringexp (R209); none where RING_BOUND is raised. -/
def State.ringexp (s : State) (h slot v : Nat) : Option State :=
  match s.ringOf h slot with
  | none => none
  | some (rs, r) =>
    if rs.consumer ∨ 65535 < v then none
    else match r.stage r.open_ with
    | some t =>
      if 65535 < t.exp + v then none
      else some (s.onRing (clOf h) r.id (fun r => r.onStage t.seq (fun t => { t with exp := t.exp + v })))
    | none =>
      if 65535 < r.p + r.pendExp + v then none
      else some (s.onRing (clOf h) r.id (fun r => { r with pendExp := r.pendExp + v }))

/-- ringtst (R210). With the slot unset or the ring not formed only the code stands. -/
def State.ringtst (s : State) (h slot k : Nat) : Word :=
  let x := s.ringOf h slot
  match x with
  | none => 3
  | some (rs, r) =>
    let left := match r.stage (r.r + k) with | some t => min 65535 (t.exp - t.arr) | none => 0
    word (acqCode x k + (r.completeAt (r.r + k)).toNat * 4 + (rs.acq.contains (r.r + k)).toNat * 8 + r.r % r.n * 16 +
      left * 2 ^ 16)

/-! ## Posted releases (R208, R209) -/

/-- The physical place of the stage with a sequence number. -/
def Ring.place (r : Ring) (q : Nat) : Nat × Nat := (r.basePa + q % r.n * r.z, r.z)

/-- Whether an endpoint of a copy in flight covers a stage. -/
def RingEp.covers (g : Option RingEp) (id q : Nat) (bnd : Nat × Nat) : Bool :=
  match g, winOf bnd.1 with
  | some g, .ring _ off => decide (g.id = id) && decide (g.r + off / g.z ≤ q) && decide (q ≤ g.r + (off + bnd.2 - 1) / g.z)
  | _, _ => false

/-- Whether the older accesses of the strand that resolved to the stage are done: a producer's stores, vector stores,
atomics and mst, a consumer's loads, vector loads, array commands and copies (R208). Vector instructions and array commands
that a resume state holds are older accesses still to be made. -/
def State.releaseReady (s : State) (h : Nat) (l : Release) (r : Ring) : Bool :=
  let t := s.hart h
  let (pa, n) := r.place l.stage
  let q := if l.producer then VQueue.vsq else VQueue.vlq
  !(s.vecTouches h l.pos pa n (fun a => decide (a.q = q))) &&
    !((s.acmds h ++ t.arr.resume).any (fun a => decide (a.pos < l.pos) && a.range.any (fun (p : Nat × Nat) => overlap p.1 p.2 pa n) &&
      (!l.producer || a.op.ly.isSome))) &&
    (if l.producer then !(t.stores.any (fun x => decide (x.pos < l.pos) && overlap x.pa x.width pa n))
     else !(t.loads.any (fun x => decide (x.pos < l.pos) && overlap x.pa x.width pa n)) &&
       !(t.xfers.any (fun x => decide (x.pos < l.pos) &&
         (RingEp.covers x.srcRing r.id l.stage x.srcBound || RingEp.covers x.dstRing r.id l.stage x.dstBound))))

/-- No member of a ring holds a stage acquired any more (R208). -/
def State.passStage (s : State) (cl id q : Nat) : State :=
  let pass := fun (p : Nat × RingSlot) => if p.2.ring = id then (p.1, { p.2 with acq := p.2.acq.filter (fun y => y != q) }) else p
  { s with harts := s.harts.map (fun (p : Nat × Hart) =>
      if clOf p.1 = cl then (p.1, { p.2 with stg := { p.2.stg with rings := p.2.stg.rings.map pass } }) else p) }

/-- The Q-th consumer release of stage R advances R in one cy (R208, R209). -/
def State.advanceRing (s : State) (cl id : Nat) : State :=
  match s.ring cl id with
  | none => s
  | some r =>
    match r.stage r.r with
    | none => s
    | some t =>
      if t.released < r.q then s
      else
        let s := match r.lines r.r with
          | some (l, k) => s.setLines l k false
          | none => s
        let next := Stage.fresh (r.r + r.n) (r.p + r.pendExp)
        (s.passStage cl id r.r).onRing cl id (fun r =>
          { r with stages := r.stages.filter (fun t => t.seq != r.r) ++ [next], r := r.r + 1, pendExp := 0 })

/-- The k-th posted release of hart h takes effect; `producer` says which kind is asked for. -/
def State.takeRelease (s : State) (h k : Nat) (producer : Bool) : Option State :=
  match (s.hart h).stg.releases[k]? with
  | none => none
  | some l =>
    let drop := s.onStg h (fun g => { g with releases := dropAt g.releases k })
    match s.ring (clOf h) l.ring with
    | none => if l.producer = producer then some drop else none
    | some r =>
      if l.producer ≠ producer ∨ s.releaseReady h l r = false then none
      else if producer then some (drop.arrive (clOf h) l.ring l.stage).1
      else
        let up := fun (t : Stage) => { t with released := t.released + 1 }
        some ((drop.onRing (clOf h) l.ring (fun r => r.onStage l.stage up)).advanceRing (clOf h) l.ring)

/-- Every posted release of hart h takes effect that can. -/
def State.takeReleases (s : State) (h : Nat) : Nat → State
  | 0 => s
  | n + 1 =>
    match (List.range (s.hart h).stg.releases.length).findSome? (fun k =>
      (s.takeRelease h k true).orElse (fun _ => s.takeRelease h k false)) with
    | some s => State.takeReleases s h n
    | none => s

/-! ## cplaunch (R214) -/

/-- A dimension register (Table 9-3). -/
def dimOf (v : Word) : Nat × Int × Int := (fld v 0 16, toInt 24 (fld v 16 24), toInt 24 (fld v 40 24))

/-- The transfer that a launch on a channel makes. -/
def State.newXfer (s : State) (h : Nat) (c : Chan) : Xfer :=
  let t := s.hart h
  let g := fun i => c.sh.get 0 i
  { id := c.nextId, src := (g 0).toNat, dst := (g 1).toNat, len := fld (g 2) 0 32,
    dims := [dimOf (g 3), dimOf (g 4), dimOf (g 5)], zero := bit (g 6) 0, full := bit (g 6) 1, noAlloc := bit (g 6) 2,
    srcRing := none, dstRing := none, hart := h, ctx := (s.ctxOf h).getD 16, mode := t.mode, pos := t.pos,
    satp := t.csr.satp, mstatus := t.csr.mstatus, moved := [], stagesDone := [], tag := none }

/-- Checks 3 and 4 of Table 5-3 over a range of one window extent, stage by stage and way by way; the first failing
address. -/
def State.extentChk (s : State) (h pos : Nat) (store : Bool) : Nat → Nat → Nat → Except (Nat × Nat) Unit
  | 0, _, _ => .ok ()
  | f + 1, va, e =>
    if e ≤ va then .ok ()
    else match winOf va with
    | .vault off =>
      if s.backing (vaultBase (clOf h) + off) = .unbacked then .error (30, va)
      else State.extentChk s h pos store f (va / 0x80000 * 0x80000 + 0x80000) e
    | .ring r off =>
      (match ((s.hart h).stg.rings.find r).bind (fun rs => s.ring (clOf h) rs.ring) with
        | none => .error (25, va)
        | some g =>
          let n := min (e - va) (g.z - off % g.z)
          if (s.ringHit h pos r off n store).isSome then State.extentChk s h pos store f (va + n) e else .error (25, va))
    | _ => .ok ()

/-- Check 4 of Table 5-3 behind a ring window: every vault way that a range of it touches is marked vault (R205). -/
def State.ringWays (s : State) (h : Nat) : Nat → Nat → Nat → Except (Nat × Nat) Unit
  | 0, _, _ => .ok ()
  | f + 1, va, e =>
    if e ≤ va then .ok ()
    else match winOf va with
    | .ring r off =>
      (match ((s.hart h).stg.rings.find r).bind (fun rs => s.ring (clOf h) rs.ring) with
        | none => .ok ()
        | some g =>
          let pa := g.addr g.r off
          if s.backing pa = .unbacked then .error (30, va)
          else State.ringWays s h f (va + min (g.z - off % g.z) (0x80000 - pa % 0x80000)) e)
    | _ => .ok ()

/-- Checks 3 and 4 over a range of one window extent, in that order. -/
def State.rangeChk (s : State) (h pos : Nat) (store : Bool) (va e : Nat) : Except (Nat × Nat) Unit :=
  match s.extentChk h pos store 65 va e with
  | .error x => .error x
  | .ok _ => s.ringWays h 130 va e

/-- Checks 1, 3 and 4 of Table 5-3 over the bounding range of an endpoint in a fixed window (R214). -/
def State.boundChk (s : State) (h pos : Nat) (store : Bool) (b : Nat × Nat) : Except (Nat × Nat) Unit :=
  let e := b.1 + b.2
  if winOf b.1 = .none ∧ winOf (e - 1) = .none then .ok ()
  else if extentOf b.1 = none ∨ extentOf b.1 ≠ extentOf (e - 1) then .error (30, b.1)
  else if !(s.hart h).csr.winOk (s.hart h).mode then .error (if store then 15 else 13, b.1)
  else s.rangeChk h pos store b.1 e

/-- Whether a range of untranslated addresses meets the device registers (Table 1-6). -/
def regRange (b : Nat × Nat) : Bool := overlap b.1 b.2 0x018000000000 0x100000000

/-- The ring endpoint at an address, as captured. -/
def State.ringEp (s : State) (h va : Nat) : Option RingEp :=
  match winOf va with
  | .ring slot _ =>
    (match s.ringOf h slot with
      | some (_, r) => some { id := r.id, r := r.r, basePa := r.basePa, z := r.z, n := r.n }
      | none => none)
  | _ => none

/-- Whether an endpoint's addresses are physical: untranslated, or outside the windows in U-mode under Bare (log 13). -/
def Xfer.raw (x : Xfer) (b : Nat × Nat) : Bool := !x.virt || (decide (fld x.satp 60 4 ≠ 10) && decide (winOf b.1 = .none))

/-- cplaunch on a channel of hart h (R214) (log 48). -/
def State.cplaunch (s : State) (h rd ch : Nat) (w : BitVec 32) : State :=
  let c := (s.hart h).stg.chans.get Chan.start ch
  let x := s.newXfer h c
  let pos := x.pos
  let bad := fld (c.sh.get 0 2) 32 32 ≠ 0 ∨ fld (c.sh.get 0 6) 3 61 ≠ 0 ∨ x.len = 0 ∨
    (!x.zero && overlap x.srcBound.1 x.srcBound.2 x.dstBound.1 x.dstBound.2)
  let chk := fun (store : Bool) (b : Nat × Nat) =>
    if x.virt then s.boundChk h pos store b else .ok ()
  if 8 ≤ c.xfers.length ∨ 16 ≤ (s.scoreboard (coreOf h)).length then s
  else if bad then s.illegal h w
  else match (if x.zero then .ok () else chk false x.srcBound) with
  | .error (code, va) => s.raise h code (word va)
  | .ok _ =>
    match chk true x.dstBound with
    | .error (code, va) => s.raise h code (word va)
    | .ok _ =>
      if x.raw x.srcBound && !x.zero && regRange x.srcBound then s.raise h 7 (word x.srcBound.1)
      else if x.raw x.dstBound && regRange x.dstBound then s.raise h 7 (word x.dstBound.1)
      else
        let ep := fun va => if x.virt then s.ringEp h va else none
        let x := { x with srcRing := if x.zero then none else ep x.src, dstRing := ep x.dst }
        let s := s.onHart h (fun t => t.onChan ch (fun c => { c with nextId := c.nextId + 1, xfers := c.xfers ++ [x] }))
        (s.setX h rd (x.id.setWidth 64)).retire h

/-- A channel reset: the watermark goes to the next identifier and the error flag is cleared (R213). -/
def State.cpReset (s : State) (h ch : Nat) : State :=
  (s.onHart h (fun t => t.onChan ch (fun c => { c with wm := c.nextId, err := false, above := [] }))).retire h

/-- Whether every transfer of a channel has completed or failed. -/
def State.chanIdle (s : State) (h ch : Nat) : Bool := ((s.hart h).stg.chans.get Chan.start ch).xfers.isEmpty

/-! ## waitc (R33, R218) -/

/-- The outstanding vector loads, vector stores, copies and array commands of a strand (R218). -/
def State.counts (s : State) (h : Nat) : Nat × Nat × Nat × Nat :=
  let t := s.hart h
  let ld := fun (e : VEntry) => decide (e.q = .vlq) && (match e.op with | .pref _ => false | .fence _ => false | _ => true)
  ((t.vec.queue.filter ld).length, (t.vec.queue.filter (fun e => decide (e.q = .vsq))).length,
    ((t.stg.chans.map (fun (p : Nat × Chan) => p.2.xfers.length)).foldl (· + ·) 0), (s.acmds h).length)

/-- Whether the counts are at most a, b, c and d. -/
def State.waitcOk (s : State) (h a b c d : Nat) : Bool :=
  let n := s.counts h
  decide (n.1 ≤ a) && decide (n.2.1 ≤ b) && decide (n.2.2.1 ≤ c) && decide (n.2.2.2 ≤ d)

/-! ## Streams (R220, R223) -/

/-- Close endpoint ep of hart h: it is free, and a joined peer's endpoint is closed. -/
def State.closeEp (s : State) (h ep : Nat) : State :=
  match s.endpoint h ep with
  | none => s
  | some x =>
    let s := s.onStg h (fun g => { g with eps := g.eps.del ep })
    match x.link with
    | .joined pe => s.onEp x.peer pe (fun y => if y.link = .joined ep ∧ y.peer = h then { y with link := .closed } else y)
    | _ => s

/-- The lowest endpoint of the peer that names hart h, in the opposite role and of the same context, unconnected. -/
def State.epMatch (s : State) (h peer : Nat) (recv : Bool) : Option Nat :=
  (List.range 4).find? (fun e => match s.endpoint peer e with
    | some y => decide (y.peer = h) && (y.recv != recv) && decide (y.link = .alone) && decide (s.ctxOf h = some y.ctx)
    | none => false)

/-- strmopen (R220): the state and the result. -/
def State.strmopen (s : State) (h peer : Nat) (recv : Bool) : State × Word :=
  match (List.range 4).find? (fun e => (s.endpoint h e).isNone) with
  | none => (s, BitVec.allOnes 64)
  | some e =>
    if 2048 ≤ peer ∨ peer = h then (s, BitVec.allOnes 64 - 1)
    else
      let m_ := s.epMatch h peer recv
      let lk := match m_ with | some pe => EpLink.joined pe | none => EpLink.alone
      let x : Endpoint :=
        { ctx := (s.ctxOf h).getD 16, parked := none, peer := peer, recv := recv, link := lk, buf := [], skip := false }
      let s := s.onStg h (fun g => { g with eps := g.eps.ins e x })
      match m_ with
      | some pe => (s.onEp peer pe (fun y => { y with link := .joined e }), word e)
      | none => (s, word e)

/-- Whether the older vsend and vrecv of an endpoint are complete, those of a held resume state among them (R220). -/
def State.epIdle (s : State) (h ep : Nat) : Bool :=
  !(((s.hart h).vec.before (s.hart h).pos).any (fun e => (match e.op with | .send _ => true | .recv _ => true | _ => false) &&
    decide (e.x1.toNat = ep)))

/-! ## Link turns (R9, R224) -/

/-- The physical link l of a die, and whether the die is the one whose outward groups are counted. -/
def linkOf (die l : Nat) : Nat × Bool :=
  match l with
  | 0 => (die, true)
  | 1 => (4 + die / 2, decide (die % 2 = 0))
  | _ => (6 + die % 2, decide (die / 2 = 0))

/-- The groups of a link (Table 1-2). -/
def linkGroups (l : Nat) : Nat := if l < 4 then 32 else 16

/-- The dies at the ends of a link. -/
def linkDies (l : Nat) : List Nat :=
  if l < 4 then [l] else if l < 6 then [(l - 4) * 2, (l - 4) * 2 + 1] else [l - 6, l - 6 + 2]

/-- tack (R224): the state and the result code, tested in the order 3, 2, 4, 1. -/
def State.tack (s : State) (h : Nat) (a b : Word) : State × Nat :=
  let (l, lower) := linkOf (fld a 2 2) (fld a 0 2)
  let g := linkGroups l
  let k := s.link l
  let c := if isMgmt h then none else s.ctxOf h
  if fld a 0 2 = 3 ∨ fld a 4 60 ≠ 0 ∨ b.toNat < 2 ∨ g - 2 < b.toNat then (s, 3)
  else if !isMgmt h && !(match c with | some c => bit (s.ctx c).ctl 1 | none => false) then (s, 2)
  else if k.down || (linkDies l).any (fun d => !s.dieUp d) then (s, 4)
  else if 8 ≤ k.fifo.length ∨ (c.isSome ∧ 2 ≤ (k.fifo.filter (fun e => e.1 = c)).length) then (s, 1)
  else (s.onLink l (fun k => { k with fifo := k.fifo ++ [(c, if lower then b.toNat else g - b.toNat)] }), 0)

/-! ## Way roles (R219) -/

/-- Whether a way holds what wayset must not move: a valid queue's pinned storage, a resident context's VST replica, a
valid TSAVE entry's area. -/
def State.wayInUse (s : State) (core w : Nat) : Bool :=
  s.queues.any (fun (p : Nat × Queue) => p.2.valid && decide (queueHome p.1 = core) && decide (fld p.2.qbat 32 4 = w)) ||
  s.ctxs.any (fun (p : Nat × Context) => (bit p.2.ctl 0 || p.2.entering) &&
    (vstWays (core / 128) (p.2.vst.get 0 (core / 128))).contains (core, w)) ||
  (s.cluster (clusterOf core)).tsave.any (fun (p : Nat × Byte) =>
    let e := p.2.toNat
    decide (128 ≤ e) && decide (coreAt (clusterOf core) (e % 4) = core) && decide (e / 4 % 16 = w))

/-- The ways whose role a new word changes. -/
def State.waysChanged (s : State) (core : Nat) (n : BitVec 32) : List Nat :=
  (List.range 16).filter (fun w => decide (s.wayRole core w ≠ fld n (2 * w) 2))

/-- Whether a wayset is legal (R219). -/
def State.waysetOk (s : State) (a b : Word) : Bool :=
  let core := fld a 0 9
  zeroBits a 9 55 && zeroBits b 32 32 && (List.range 16).all (fun w => decide (fld b (2 * w) 2 ≠ 3)) &&
    (s.waysChanged core (b.setWidth 32)).all (fun w => !s.wayInUse core w)

/-- The physical base of a way in its cluster's vault (Table 1-6). -/
def wayBase (core w : Nat) : Nat := vaultBase (clusterOf core) + quarterOf core * 0x800000 + w * 0x80000

/-- The memory ranges of array commands that have been accepted and are not complete, those that a pre-emption recorded among
them, at their strands or parked (R195, R197). -/
def State.arrayRanges (s : State) : List (Nat × Nat) :=
  s.clusters.flatMap (fun (p : Nat × Cluster) => (p.2.executing.toList ++ p.2.cmdq ++ p.2.fills).flatMap ACmd.range) ++
    s.harts.flatMap (fun (p : Nat × Hart) => p.2.arr.resume.flatMap ACmd.range) ++
    (s.parked.filter Parked.held).flatMap (fun p => p.ranges.flatten)

/-- Whether a scalar, vector or array access that has passed its checks to n bytes from b has not performed (R139, R219): one
of an fqpop between its stores, and the join counter of a waiting exit, among them. -/
def State.rangeBusy (s : State) (b n : Nat) : Bool :=
  s.harts.any (fun (p : Nat × Hart) =>
    p.2.stores.any (fun x => overlap x.pa x.width b n) || p.2.loads.any (fun x => overlap x.pa x.width b n) ||
    p.2.vec.queue.any (fun e => e.pend.any (fun x => overlap x.pa x.width b n)) ||
    p.2.joins.any (fun a => overlap a 4 b n) ||
    (match p.2.wait with | .fqpop _ _ l => l.any (fun x => overlap x.pa x.width b n) | _ => false)) ||
  s.arrayRanges.any (fun r => overlap r.1 r.2 b n)

/-- Whether something that passed its checks against a way is still under way. -/
def State.wayBusy (s : State) (core w : Nat) : Bool :=
  let b := wayBase core w
  let n := 0x80000
  let win := fun (x : Xfer) (r : Nat × Nat) => match winOf r.1 with
    | .vault off => x.virt && overlap (vaultBase (clOf x.hart) + off) r.2 b n
    | _ => false
  let ep := fun (g : Option RingEp) => match g with
    | some g => overlap g.basePa (g.z * g.n) b n
    | none => false
  s.rangeBusy b n || s.harts.any (fun (p : Nat × Hart) =>
    p.2.xfers.any (fun x => win x x.srcBound || win x x.dstBound || ep x.srcRing || ep x.dstRing))

/-- The bytes of a range read as zero, and nothing of them is reserved. -/
def State.clearRange (s : State) (a n : Nat) : State :=
  ({ s with mem := s.mem.filter (fun c => !(decide (a ≤ c.1) && decide (c.1 < a + n))) }.heal a n).breakResv true
    mgmtBase a n

/-- A wayset under way takes effect: the lines of ways that cached are written back and invalidated with their L1 copies,
the ways that join or leave the vault read as zero, the roles change, and the instruction retires. -/
def State.waysetDone (s : State) (core : Nat) : Option State :=
  match (s.core core).waysNew with
  | none => none
  | some n =>
    let ws := s.waysChanged core n
    if ws.any (s.wayBusy core) then none
    else
      let s := s.dropSlice core (fun x => ws.contains x.way)
      let s := ws.foldl (fun (s : State) w =>
        if s.wayRole core w = 1 ∨ fld n (2 * w) 2 = 1 then s.clearRange (wayBase core w) 0x80000 else s) s
      let s := s.onCore core (fun c => { c with ways := n, waysNew := none })
      some (match s.harts.find? (fun (p : Nat × Hart) => decide (p.2.wait = .wayset core)) with
        | some p => s.retire p.1
        | none => s)

/-! ## The instructions of chapter 9 -/

/-- ringset (R205). -/
def execRingset (ring : BitVec 3) (rs1 : BitVec 5) (s : State) : Out :=
  let h := s.cur
  let x := s.rx rs1
  let a := setFld x 0 5 0
  s.own (fieldsRingset ring rs1).toWord true
    (s.readThen h rs1.toNat a 32 (fun s d =>
      match s.ringset h ring.toNat x (BitVec.ofNat 256 d) with
      | some s => s.retire h
      | none => s.raise h 25 a))

/-- ringset with xs1 = 0 withdraws (R205). -/
def execRingsetWithdraw (ring : BitVec 3) (s : State) : Out :=
  s.own (fieldsRingsetWithdraw ring).toWord true ((s.withdraw s.cur ring.toNat).retire s.cur)

/-- ringacq (R207). -/
def execRingacq (rd rs1 : BitVec 5) (ring : BitVec 3) (s : State) : Out :=
  let r := s.ringacq s.cur ring.toNat (s.rx rs1).toNat
  s.own (fieldsRingacq rd rs1 ring).toWord true (r.1.putX s.cur rd (word r.2))

/-- ringrel (R208). -/
def execRingrel (rd : BitVec 5) (ring : BitVec 3) (s : State) : Out :=
  let r := s.ringrel s.cur ring.toNat
  s.own (fieldsRingrel rd ring).toWord true (r.1.putX s.cur rd (word r.2))

/-- ringexp (R209). -/
def execRingexp (ring : BitVec 3) (rs1 : BitVec 5) (s : State) : Out :=
  let h := s.cur
  s.own (fieldsRingexp ring rs1).toWord true
    (match s.ringexp h ring.toNat (s.rx rs1).toNat with
      | some s => s.retire h
      | none => s.raise h 25 (s.rx rs1))

/-- ringtst (R210). -/
def execRingtst (rd rs1 : BitVec 5) (ring : BitVec 3) (s : State) : Out :=
  s.own (fieldsRingtst rd rs1 ring).toWord true
    (s.putX s.cur rd (s.ringtst s.cur ring.toNat (s.rx rs1).toNat))

/-- cpset (R213). -/
def execCpset (ch : BitVec 2) (rs1 : BitVec 5) (sel : BitVec 5) (s : State) : Out :=
  let h := s.cur
  let c := ch.toNat
  s.own (fieldsCpset ch rs1 sel).toWord (decide (sel.toNat < 7))
    (if sel.toNat = 6 ∧ bit (s.rx rs1) 63 then
      (if s.chanIdle h c then s.cpReset h c else s.hold h (.cpReset c))
    else (s.onHart h (fun t => t.onChan c (fun k => { k with sh := k.sh.ins sel.toNat (s.rx rs1) }))).retire h)

/-- cplaunch (R214). -/
def execCplaunch (rd : BitVec 5) (ch : BitVec 2) (s : State) : Out :=
  s.own (fieldsCplaunch rd ch).toWord true (s.cplaunch s.cur rd.toNat ch.toNat (fieldsCplaunch rd ch).toWord)

/-- cpstat (R216). -/
def execCpstat (rd : BitVec 5) (ch : BitVec 2) (s : State) : Out :=
  s.own (fieldsCpstat rd ch).toWord true
    (s.putX s.cur rd ((s.hart s.cur).stg.chans.get Chan.start ch.toNat).stat)

/-- waitc (R33, R218). -/
def execWaitc (na nb nc nd : BitVec 3) (s : State) : Out :=
  s.own (fieldsWaitc na nb nc nd).toWord true
    (if s.waitcOk s.cur na.toNat nb.toNat nc.toNat nd.toNat then s.retire s.cur
    else s.hold s.cur (.waitc na.toNat nb.toNat nc.toNat nd.toNat))

/-- strmopen (R220). -/
def execStrmopen (rd rs1 : BitVec 5) (s : State) : Out :=
  let x := s.rx rs1
  let r := s.strmopen s.cur (fld x 0 12) (bit x 12)
  s.own (fieldsStrmopen rd rs1).toWord (zeroBits x 13 51) (r.1.putX s.cur rd r.2)

/-- strmclose (R220); an endpoint that a parked task keeps is not open to another (R223). -/
def execStrmclose (rs1 : BitVec 5) (s : State) : Out :=
  let h := s.cur
  let e := (s.rx rs1).toNat
  s.own (fieldsStrmclose rs1).toWord (decide (e ≤ 3) && (s.endpoint h e).any (fun x => x.parked.isNone))
    (if s.epIdle h e then (s.closeEp h e).retire h else s.hold h (.strmclose e))

/-- tack (R224). -/
def execTack (rd rs1 rs2 : BitVec 5) (s : State) : Out :=
  let r := s.tack s.cur (s.rx rs1) (s.rx rs2)
  s.legal (fieldsTack rd rs1 rs2).toWord true (r.1.putX s.cur rd (word r.2))

/-- wayset (R35, R219): a second wayset on a slice waits for the first. -/
def execWayset (rs1 rs2 : BitVec 5) (s : State) : Out :=
  let core := fld (s.rx rs1) 0 9
  s.legal (fieldsWayset rs1 rs2).toWord (s.priv s.cur && s.waysetOk (s.rx rs1) (s.rx rs2))
    (if (s.core core).waysNew.isSome then s
    else (s.onCore core (fun c => { c with waysNew := some ((s.rx rs2).setWidth 32) })).hold s.cur (.wayset core))

/-! ## The directional fences (R262 to R266) -/

/-- fence.sv (R263): what follows into the vector queues, the array and the copy engine waits; the hart does not. -/
def State.fenceSv (s : State) (h : Nat) (sys : Bool) : State :=
  (s.onHart h (fun t =>
    let open_ := fun (p : Nat × Bool) =>
      t.loads.any (fun l => l.pos < p.1) || t.stores.any (fun x => x.pos < p.1) || !s.asked h p.1 ||
        t.remotes.any (fun r => decide (r.pos < p.1) && (r.load.isSome || p.2))
    { t with vec := { t.vec with svMarks := (t.vec.svMarks ++ [(t.pos, sys)]).filter open_ } })).retire h

/-- fence.sv (R262, R263, R266). -/
def execFenceSv (scope : BitVec 3) (s : State) : Out :=
  let sys := decide (scope = 5)
  s.legal (fieldsFenceSv scope).toWord (decide (scope.toNat < 6))
    (if isMgmt s.cur then s.mgmtFence s.cur sys else s.fenceSv s.cur sys)

/-- fence.vs (R262, R264, R266). -/
def execFenceVs (scope : BitVec 3) (s : State) : Out :=
  let sys := decide (scope = 5)
  s.legal (fieldsFenceVs scope).toWord (decide (scope.toNat < 6))
    (if isMgmt s.cur then s.mgmtFence s.cur sys
    else if s.vsReady s.cur sys then s.retire s.cur else s.hold s.cur (.fenceVs sys))

/-- fence.vv (R262, R265, R266). -/
def execFenceVv (scope : BitVec 3) (s : State) : Out :=
  let sys := decide (scope = 5)
  s.legal (fieldsFenceVv scope).toWord (decide (scope.toNat < 6))
    (if isMgmt s.cur then s.mgmtFence s.cur sys
    else s.enqueue s.cur .vlq (.fence sys) (fieldsFenceVv scope).toWord Captured.none)

end Sys2Proof.Machine
end

