-- ==== Sys2Proof/Machine/ArrayOps.lean ====
section
/-!
DEFINITION. The cluster array (R179 to R198): the lease, its grant, budgets, revocation, parking and restoring; the
checks, acceptance, start and completion of array commands; the array instructions.
-/
namespace Sys2Proof.Machine

/-! ## Parking and restoring (R182 to R185) -/

/-- The entries of the live tiles. -/
def liveTiles (tiles : Tab (BitVec 32)) (mask : Nat) : Tab (BitVec 32) :=
  tiles.filter (fun p => mask / 2 ^ (p.1 / 32768) % 2 = 1)

/-- The tiles of the ended lease have been written to their area (R183, R184). -/
def State.parkDone (s : State) (cl : Nat) : Option State :=
  let c := s.cluster cl
  match c.lease.parking with
  | none => none
  | some (h, k) =>
    let s := s.onCluster cl (fun c =>
      { c with areas := c.areas.ins k (liveTiles c.tiles c.live), tiles := [], live := 0,
               lease := { c.lease with parking := none, ending := none, freed := s.dev.cy } })
    some (s.onArr h (fun a => { a with area := some k, mask := c.live }))

/-- The grantee's parked tiles have been read back: the area is free, and the cy budget starts (R182, R183). -/
def State.restoreDone (s : State) (cl : Nat) : Option State :=
  let c := s.cluster cl
  let who := match c.lease.holder, c.lease.ending with
    | some h, _ => some h
    | none, some (h, _) => some h
    | none, none => none
  match who with
  | none => none
  | some h =>
    if !c.lease.restoring then none
    else
      let a := (s.hart h).arr
      let saved := match a.area with | some k => (c.areas.find k).getD [] | none => []
      let s := s.onCluster cl (fun c =>
        { c with tiles := saved, live := a.mask
                 areas := (match a.area with | some k => c.areas.del k | none => c.areas)
                 lease := { c.lease with restoring := false
                                         start := if c.lease.holder.isSome then some s.dev.cy else none } })
      let s := s.onArr h (fun a => { a with area := none, mask := 0 })
      let s := if c.lease.holder.isSome then s.reenter cl h else s
      some (s.leaseSettle cl)

/-- Free a strand's save area and forget its tiles. -/
def State.dropArea (s : State) (cl h : Nat) : State :=
  let s := match (s.hart h).arr.area with
    | some k => s.onCluster cl (fun c => { c with areas := c.areas.del k })
    | none => s
  (s.onArr h (fun a => { a with area := none, mask := 0, req := false })).leaseSettle cl

/-- The strand whose lease a cluster's array is under: its holder, or the one whose lease has ended and not passed on. -/
def Lease.under (l : Lease) : Option Nat := l.holder.orElse (fun _ => l.ending.map Prod.fst)

/-- mrel for a strand (R185): the lease ends and its tiles are discarded; without a lease, the request and the parked
tiles go. Tiles that are being read back for commands accepted under the lease (R182) are discarded once those have completed.
A strand with parked tiles and neither lease nor request loses them too: of the rule's two sentences, which differ
there, the model follows the first (log 64). -/
def State.release (s : State) (h : Nat) : State :=
  let cl := clOf h
  let s := s.leaseCheck cl
  let c := s.cluster cl
  if c.lease.restoring && decide (c.lease.under = some h) && !c.quiet then
    (s.onLease cl (fun l => { l with holder := none, ending := some (h, false), start := none })).onArr h
      (fun a => { a with req := false })
  else
    let l := c.lease
    let s :=
      if l.holder = some h then
        s.onLease cl (fun l => { l with holder := none, ending := some (h, false), start := none, restoring := false })
      else match l.ending, l.parking with
      | some (k, _), some _ =>
        if k = h then
          s.onCluster cl (fun c => { c with tiles := [], live := 0, lease := { c.lease with ending := none, parking := none, freed := s.dev.cy } })
        else s
      | some (k, _), none => if k = h then s.onLease cl (fun l => { l with ending := some (h, false), restoring := false }) else s
      | none, _ => s
    s.dropArea cl h

/-- Whether the cluster's array is bound to the context of a strand's task (R179). -/
def State.arrayBound (s : State) (h : Nat) : Bool :=
  let b := (s.cluster (clOf h)).arrbind
  bit b 4 && decide (s.ctxOf h = some (fld b 0 4))

/-- The result of mlease (Table 8-2). Without the lease the budget's fields, [30:16] and [8:0], are 0 by the model's choice: the
table does not say what they hold then (log 67). -/
def State.leaseWord (s : State) (h : Nat) : Word :=
  let c := s.cluster (clOf h)
  let thr := c.throttle * 2 ^ 32
  if c.lease.holder = some h then
    let left := match c.lease.start with | some t => 16384 - (s.dev.cy - t) | none => 16384
    word (c.lease.cmds + left * 2 ^ 16 + thr)
  else if s.arrayBound h then word (2 ^ 63 + thr)
  else word (2 ^ 63 + 2 ^ 62 + thr)

/-- mlease (R180): reports, grants a free lease that nobody else asks for, or posts the request. -/
def State.mlease (s : State) (h : Nat) : State :=
  let cl := clOf h
  let s := s.leaseCheck cl
  let c := s.cluster cl
  if c.lease.holder = some h ∨ s.arrayBound h = false then s
  else if c.leaseFree && (s.requesters cl h).isEmpty && (s.hart h).arr.area.isNone then s.grantLease cl h s.dev.cy
  else s.onArr h (fun a => a.ask s.dev.cy)

/-! ## Operands and ranges (R187, R188, R190 to R192) -/

/-- The block format of A and of B by mmac code; none for bf16 (Table 8-3). -/
def mmacFmts (code : Nat) : Option (Nat × Nat) :=
  match code with
  | 6 => some (0, 0)
  | 7 => some (1, 0)
  | 8 => some (0, 1)
  | 9 => some (1, 1)
  | 11 => some (0, 5)
  | 12 => some (2, 2)
  | 13 => some (2, 5)
  | _ => none

/-- K of an mmac (R40). -/
def mmacK (kf : Nat) : Nat := (kf + 1) * 32

/-- The bytes of the A and B panels (Table 8-3). -/
def mmacBytes (code kf : Nat) : Nat × Nat :=
  let g := ceilDiv (mmacK kf) 128
  match mmacFmts code with
  | some (a, b) => (g * 256 * superSize a, g * 128 * superSize b)
  | none => (g * 65536, g * 32768)

/-- The weight-buffer range that a command reads or writes: start and length. -/
def ACmd.weights (a : ACmd) : Nat × Nat :=
  match a.op with
  | .mwld => (fld a.x2 0 21, fld a.x2 22 22)
  | .mmac f _ kf => (a.x2.toNat, (mmacBytes f kf).2)
  | _ => (0, 0)

/-- The blocks and tails that an mst writes, as ranges of addresses: up to the end of the last whole superblock, and
the blocks and the tail of a last one used in part (R156, R192). -/
def mstRanges (x1 fmt : Nat) : List (Nat × Nat) :=
  let n := x1 % 4
  let a := x1 / 8 * 8
  let sz := superSize fmt
  let bb := blockBytes fmt
  if n = 0 then [(a, 256 * sz)]
  else [(a + n * bb, 256 * sz - n * bb), (a + 256 * sz, n * bb), (a + 256 * sz + 4 * bb, 8)]

/-- The memory range of a command, in addresses (R188). -/
def AOp.ranges (o : AOp) (x1 x2 : Word) : List (Nat × Nat) :=
  match o with
  | .mwld => [(x1.toNat, fld x2 22 22)]
  | .mzero _ => []
  | .mld _ => [(x1.toNat, 131072)]
  | .mst _ fmt _ _ => mstRanges x1.toNat fmt
  | .mmac f _ kf => [(x1.toNat, (mmacBytes f kf).1)]

/-- Whether a command accepts the window extent that holds an address (check 1 of Table 8-4). -/
def AOp.accepts (o : AOp) (va : Nat) : Bool :=
  match winOf va with
  | .scratch _ => true
  | .vault _ => true
  | .ring _ _ => (match o with | .mwld => false | _ => true)
  | .span _ _ => (match o with | .mwld => true | .mst _ _ _ _ => true | _ => false)
  | _ => false

/-- The parts of a range of the span window in one granule each: address and length. -/
def spanParts (va n : Nat) : List (Nat × Nat) :=
  (List.range ((va + n - 1) / 0x200000 - va / 0x200000 + 1)).map (fun i =>
    let a := max va ((va / 0x200000 + i) * 0x200000)
    (a, min (va + n) ((va / 0x200000 + i + 1) * 0x200000) - a))

/-- The first address of a part of a granule, which the entry maps, that is not backed device memory (R16). -/
def unbackedIn (e : BitVec 32) (a n : Nat) : Option Nat :=
  let pa := fld e 0 18 * 0x200000 + a % 0x200000
  if pa + n ≤ 0x7735940000 then none else some (a + (0x7735940000 - pa))

/-- Checks 5 to 7 of Table 8-4 over the granules of a command's ranges. -/
def State.spanChk (s : State) (h : Nat) (store : Bool) (rs : List (Nat × Nat)) : Except (Stop × Nat) Unit :=
  let gs := rs.flatMap (fun (r : Nat × Nat) => spanParts r.1 r.2)
  let ent : Nat → BitVec 32 := fun a => match winOf a with | .span g _ => s.spanEntry h g | _ => 0
  match gs.find? (fun r => !bit (ent r.1) 18) with
  | some r => .error (.absent true, r.1)
  | none =>
    match gs.find? (fun r => store && !bit (ent r.1) 19) with
    | some r => .error (.exc 15, r.1)
    | none =>
      match gs.findSome? (fun r => unbackedIn (ent r.1) r.1 r.2) with
      | some a => .error (.exc 30, a)
      | none => .ok ()

/-- The physical pieces of a range that has passed its checks. -/
def State.pieces (s : State) (h : Nat) : Nat → Nat → Nat → List (Nat × Nat)
  | 0, _, _ => []
  | f + 1, va, e =>
    if e ≤ va then []
    else match winOf va with
    | .scratch off => [(scratchBase (coreOf h) + off, e - va)]
    | .vault off => [(vaultBase (clOf h) + off, e - va)]
    | .ring r off =>
      (match ((s.hart h).stg.rings.find r).bind (fun rs => s.ring (clOf h) rs.ring) with
        | none => []
        | some g =>
          let n := min (e - va) (g.z - off % g.z)
          (g.addr g.r off, n) :: s.pieces h f (va + n) e)
    | .span g off =>
      let n := min (e - va) (0x200000 - off)
      (fld (s.spanEntry h g) 0 18 * 0x200000 + off, n) :: s.pieces h f (va + n) e
    | _ => []

/-- The address, in a range that starts at `va`, of its first piece that answers DIE_OFFLINE (R339). -/
def State.offlineIn (s : State) (va : Nat) : List (Nat × Nat) → Option Nat
  | [] => none
  | (pa, n) :: r => if s.backing pa = .offline then some va else State.offlineIn s (va + n) r

/-- What a check found. -/
def failedAt (r : Except (Nat × Nat) Unit) : Option (Nat × Nat) := match r with | .error x => some x | .ok _ => none

/-- The checks of Table 8-4, in order; the physical pieces where all pass. Two that the table does not place stand where the
model puts them (log 64): the page fault of R19 after check 1, at the range's first address, and the answer of an offline die
(R339) after check 7. -/
def State.arrayChk (s : State) (h pos : Nat) (o : AOp) (x1 x2 : Word) : Except (Stop × Nat) (List (Nat × Nat)) :=
  let rs := o.ranges x1 x2
  let store := o.ly.isSome
  let first := (rs.head?.map Prod.fst).getD 0
  let bad1 := fun (r : Nat × Nat) =>
    if !(o.accepts r.1) || decide (extentOf r.1 ≠ extentOf first) then some r.1
    else if extentEnd r.1 < r.1 + r.2 then some (extentEnd r.1)
    else none
  let mis := match o with
    | .mzero _ => false
    | .mst _ _ _ _ => bit x1 2
    | _ => decide (fld x1 0 3 ≠ 0)
  match rs.findSome? bad1 with
  | some a => .error (.exc 30, a)
  | none =>
    if !rs.isEmpty && !(s.hart h).csr.winOk (s.hart h).mode then .error (.exc (if store then 15 else 13), first)
    else if mis then .error (.exc (if store then 6 else 4), x1.toNat)
    else match (rs.findSome? (fun (r : Nat × Nat) => failedAt (s.extentChk h pos store 65 r.1 (r.1 + r.2)))).orElse
        (fun _ => rs.findSome? (fun (r : Nat × Nat) => failedAt (s.ringWays h 130 r.1 (r.1 + r.2)))) with
    | some (c, a) => .error (.exc c, a)
    | none =>
      match (match winOf first with | .span _ _ => s.spanChk h store rs | _ => .ok ()) with
      | .error e => .error e
      | .ok _ =>
        match rs.findSome? (fun (r : Nat × Nat) => s.offlineIn r.1 (s.pieces h 65 r.1 (r.1 + r.2))) with
        | some a => .error (.offline (if store then 7 else 5), a)
        | none =>
        let w := match o with
          | .mwld => (fld x2 0 21, fld x2 22 22)
          | .mmac f _ kf => (x2.toNat, (mmacBytes f kf).2)
          | _ => (0, 0)
        if w.1 % 8 ≠ 0 then .error (.exc 30, w.1)
        else if 2097152 < w.1 + w.2 then .error (.exc 30, 2097152)
        else .ok (rs.flatMap (fun r => s.pieces h 65 r.1 (r.1 + r.2)))

/-- An array command at its retirement (R186, R188, R189): it waits for room while its strand holds the lease, raises
LEASE_ABSENT without the lease, takes the checks, and is accepted and charged. `base` is its address register. -/
def State.arrayCmd (s : State) (h base : Nat) (w : BitVec 32) (o : AOp) (x1 x2 : Word) : State :=
  let cl := clOf h
  let s := s.leaseCheck cl
  let c := s.cluster cl
  if c.lease.holder ≠ some h then s.raise h 29 (w.setWidth 64)
  else if 8 ≤ c.cmdq.length then s
  else match s.arrayChk h (s.hart h).pos o x1 x2 with
  | .error (z, va) => s.scalarStop h (word va) o.ly.isSome (some base) z
  | .ok ps =>
    let a : ACmd :=
      { hart := h, pos := (s.hart h).pos, op := o, word := w, x1 := x1, x2 := x2, range := ps, va := x1.toNat, since := 0 }
    let s := s.onCluster cl (fun c =>
      { c with cmdq := c.cmdq ++ [a], lease := { c.lease with cmds := c.lease.cmds - 1 } })
    let s := if (s.cluster cl).lease.cmds = 0 then s.leaseEnd cl s.dev.cy s.dev.cy else s
    s.retire h

/-! ## Start and completion (R191 to R195) -/

/-- Whether a command may begin: its turn, its order after older accesses and fences of its strand, those of a held resume
state among them (R195, R261), the copies that hold its range (R217), the commands under way that touch its memory or its
weight-buffer bytes (R194), its leeway register (R165). -/
def State.arrayReady (s : State) (cl : Nat) (a : ACmd) : Bool :=
  let c := s.cluster cl
  let t := s.hart a.hart
  let store := a.op.ly.isSome
  let meet := fun (b : ACmd) => overlap a.weights.1 a.weights.2 b.weights.1 b.weights.2
  let mem := fun (b : ACmd) => a.range.any (fun r => b.range.any (fun q => shareGranule r.1 r.2 q.1 q.2))
  let fill := decide (a.op = .mwld)
  let older := t.vec.before a.pos
  !c.clearing && !c.lease.restoring && (fill || c.executing.isNone) && !(c.fills.any (fun b => meet b || mem b)) &&
    !(fill && c.executing.any (fun b => meet b || mem b)) &&
    s.svOk a.hart a.pos &&
    !(older.any (fun e => match e.op with | .fence _ => true | _ => false)) &&
    a.range.all (fun r =>
      !(t.stores.any (fun x => decide (x.pos < a.pos) && shareGranule x.pa x.width r.1 r.2)) &&
      !(store && t.loads.any (fun x => decide (x.pos < a.pos) && shareGranule x.pa x.width r.1 r.2)) &&
      !(s.vecTouches a.hart a.pos r.1 r.2 (fun e => decide (e.q = .vsq) || store))) &&
    !((a.op.ranges a.x1 a.x2).any (fun r => s.held a.hart a.pos r.1 r.2 store)) &&
    (match a.op.ly with
      | some l => !(older.any (fun e => e.op.names l))
      | none => true)

/-- The oldest command that has not begun begins: an mwld on the fill path, any other in the array (R190, R194). -/
def State.arrayStart (s : State) (cl : Nat) : Option State :=
  match (s.cluster cl).cmdq with
  | [] => none
  | a :: r =>
    if !s.arrayReady cl a then none
    else
      let a := { a with since := s.dev.cy }
      some (s.onCluster cl (fun c =>
        if a.op = .mwld then { c with cmdq := r, fills := c.fills ++ [a] } else { c with cmdq := r, executing := some a }))

/-- The physical address of byte i of a command's range. -/
def rangeAt : List (Nat × Nat) → Nat → Nat
  | [], _ => 0
  | (a, n) :: r, i => if i < n then a + i else rangeAt r (i - n)

/-- n bytes from byte i of a command's range. -/
def State.rangeBytes (s : State) (ps : List (Nat × Nat)) (i n : Nat) : List Byte :=
  (List.range n).map (fun j => s.byte (rangeAt ps (i + j)))

/-- Element (r, c) of a tile. -/
def Cluster.tileAt (c : Cluster) (z i : Nat) : Nat := (c.tiles.get 0 (z * 32768 + i)).toNat

/-- Put a whole tile. -/
def Cluster.putTile (c : Cluster) (z : Nat) (f : Nat → Nat) : Cluster :=
  { c with tiles :=
      c.tiles.filter (fun p => p.1 / 32768 < z) ++
        (List.range 32768).filterMap (fun i =>
          let v := BitVec.ofNat 32 (f i)
          if v = 0 then none else some (z * 32768 + i, v)) ++
        c.tiles.filter (fun p => z < p.1 / 32768) }

/-- Bit z of the live mask. -/
def setLive (m z : Nat) (b : Bool) : Nat :=
  let old := m / 2 ^ z % 2
  m - old * 2 ^ z + b.toNat * 2 ^ z

/-- A block of an operand: its 32 values, whether it is bad, and its scale. -/
structure OpBlock where
  vals : List FVal
  bad : Bool
  sm : Nat
  se : Int

/-- Block kb of line r of a panel whose groups have `lines` superblocks (R187): `at_` gives the bytes. -/
def opBlock (fmt : Option Nat) (lines r kb : Nat) (at_ : Nat → Nat → List Byte) : OpBlock :=
  match fmt with
  | some f =>
    let sb := kb / 4 * lines * superSize f + r * superSize f
    let (vs, bad) := blockVals f (at_ (sb + kb % 4 * blockBytes f) (blockBytes f))
    let tl := BitVec.ofNat 64 (ofBytes (at_ (sb + 4 * blockBytes f) 8))
    let fd := tailField f (kb % 4)
    (match scaleVal (isE8m4 f) (fld tl fd.1 fd.2) with
      | some (m, e) => ⟨vs, bad, m, e⟩
      | none => ⟨vs, true, 1, 0⟩)
  | none =>
    let base := kb * 32 / 128 * lines * 256 + 256 * r + 2 * (kb * 32 % 128)
    ⟨(List.range 32).map (fun k => Fmt.bf16.val (ofBytes (at_ (base + 2 * k) 2))), false, 1, 0⟩

/-- One element's step of a block of K (R193). -/
def mmacElem (acc : Nat) (a b : OpBlock) : Nat :=
  let nan := 0x7FC00000
  if a.bad || b.bad then nan
  else match dotVal a.vals b.vals with
  | none => nan
  | some v =>
    let t := match v with
      | .fin n m e => FVal.fin n (m * a.sm * b.sm) (e + a.se + b.se)
      | x => x
    let r := (Fmt.f32.addV 0 (Fmt.f32.val acc) t).1
    if (Fmt.f32.val r).isNan then nan else r

/-- Element i of the tile after block kb of the panels, and after all K. -/
def mmacRun (acc : Nat) : List (OpBlock × OpBlock) → Nat
  | [] => acc
  | (a, b) :: r => mmacRun (mmacElem acc a b) r

/-- An mmac on tile z (R193). -/
def State.mmac (s : State) (cl : Nat) (a : ACmd) (f z kf : Nat) : State :=
  let c := s.cluster cl
  let fm := mmacFmts f
  let nk := kf + 1
  let wb := fun i n => (List.range n).map (fun j => c.weights.get 0 (a.x2.toNat + i + j))
  let rows := (List.range 256).map (fun r => (List.range nk).map (fun kb =>
    opBlock (fm.map Prod.fst) 256 r kb (s.rangeBytes a.range)))
  let cols := (List.range 128).map (fun q => (List.range nk).map (fun kb =>
    opBlock (fm.map Prod.snd) 128 q kb wb))
  let new := fun i => mmacRun (c.tileAt z i) ((rows.getD (i / 128) []).zip (cols.getD (i % 128) []))
  s.onCluster cl (fun c => { c.putTile z new with live := setLive c.live z true })

/-- Write a list of byte groups into a command's range, each group where its pieces say. -/
def State.putRange (s : State) (h : Nat) (ps : List (Nat × Nat)) : List (Nat × List Byte) → State
  | [] => s
  | (i, bs) :: r =>
    ((bs.zipIdx).foldl (fun (s : State) (b, j) => s.perform true h (some (coreOf h)) (rangeAt ps (i + j)) [b]) s).putRange
      h ps r

/-- The place in an mst's range of byte `off` of its superblocks: the range leaves out what precedes the first block, and
the blocks of a last superblock that it does not use. -/
def mstAt (n0 fmt off : Nat) : Nat :=
  let o := off - n0 * blockBytes fmt
  if n0 ≠ 0 ∧ 256 * superSize fmt + 4 * blockBytes fmt ≤ off then o - (4 - n0) * blockBytes fmt else o

/-- The places of the tails that an mst reads and writes (R192). -/
def ACmd.tails (a : ACmd) : List Nat :=
  match a.op with
  | .mst _ fmt _ _ =>
    let n0 := a.x1.toNat % 4
    (List.range (if n0 = 0 then 256 else 257)).map (fun i => mstAt n0 fmt (i * superSize fmt + 4 * blockBytes fmt))
  | _ => []

/-- An mst of tile z (R192): the stream through the leeway register, block by block. -/
def State.mst (s : State) (cl : Nat) (a : ACmd) (z fmt ly : Nat) (col : Bool) : State :=
  let c := s.cluster cl
  let l := (s.hart a.hart).vec.ly.get Leeway.start ly
  let el := fun j => if col then (j % 256) * 128 + j / 256 else j
  let ins := (List.range 1024).map (fun b =>
    (true, (List.range 32).map (fun i => Fmt.f32.val (c.tileAt z (el (32 * b + i))))))
  let (outs, res) := shapeBlocks fmt l l.p ins l.res
  let n0 := a.x1.toNat % 4
  let sz := superSize fmt
  let bb := blockBytes fmt
  let at_ := mstAt n0 fmt
  let s := (outs.zipIdx).foldl (fun (s : State) (o, j) =>
    let n := n0 + j
    let sb := n / 4 * sz
    let tl := at_ (sb + 4 * bb)
    let fd := tailField fmt (n % 4)
    let old := word (ofBytes (s.rangeBytes a.range tl 8))
    s.putRange a.hart a.range
      [(at_ (sb + n % 4 * bb), o.1), (tl, bytesOf 8 (setFld old fd.1 fd.2 o.2).toNat)]) s
  s.onLy a.hart ly (fun l => { l with res := res, p := (l.p + 32768) % l.c })

/-- What a command does once its accesses are made. -/
def State.arrayEffect (s : State) (cl : Nat) (a : ACmd) : State :=
  match a.op with
  | .mzero z => s.onCluster cl (fun c => { c.putTile z (fun _ => 0) with live := setLive c.live z false })
  | .mld z =>
    let f := fun i => ofBytes (s.rangeBytes a.range (4 * i) 4)
    s.onCluster cl (fun c => { c.putTile z f with live := setLive c.live z true })
  | .mwld =>
    let n := fld a.x2 22 22
    let d := fld a.x2 0 21
    let bs := s.rangeBytes a.range 0 n
    s.onCluster cl (fun c =>
      { c with weights := (bs.zipIdx).foldl (fun (t : Tab Byte) (b, i) => t.put 0 (d + i) b) c.weights })
  | .mst z fmt ly col => s.mst cl a z fmt ly col
  | .mmac f z kf => s.mmac cl a f z kf

/-- The tile of a command. -/
def AOp.tile (o : AOp) : Nat :=
  match o with
  | .mwld => 0
  | .mzero z => z
  | .mld z => z
  | .mst z _ _ _ => z
  | .mmac _ z _ => z

/-- The first address of a piece that is not backed any more: its start, or that of a vault way it goes on into. -/
def State.lostIn (s : State) (pa n : Nat) : Option Nat :=
  ((List.range ((pa + n - 1) / 0x80000 - pa / 0x80000 + 1)).map (fun i => max pa ((pa / 0x80000 + i) * 0x80000))).find?
    (fun a => decide (s.backing a ≠ .ok))

/-- The first of n bytes from an address that stands in an error that ECC cannot correct (R336). -/
def State.poisonIn (s : State) (pa n : Nat) : Option Nat :=
  leastBy id ((s.dev.poison.filter (fun p => overlap p.1 p.2 pa n)).map (fun p => max p.1 pa))

/-- Where an accepted command's range fails: not backed any more, or with an error that ECC cannot correct in what it
reads, the tails of an mst among them (R188) (log 40). -/
def State.badPiece (s : State) (a : ACmd) : Option Nat :=
  (a.range.findSome? (fun r => s.lostIn r.1 r.2)).orElse (fun _ =>
    (if a.op.ly.isSome then a.tails.map (fun i => (rangeAt a.range i, 8)) else a.range).findSome? (fun r => s.poisonIn r.1 r.2))

/-- A command completes (R195): k is 0 for the executing command, k + 1 for the k-th fill. A backing or ECC failure is
reported, and the command has no effect. The entry's address is the physical one, where a copy's is virtual: the model's choice
of what Table 13-7 calls the failing address (log 40). -/
def State.arrayComplete (s : State) (cl k : Nat) : Option State :=
  let c := s.cluster cl
  match (if k = 0 then c.executing else c.fills[k - 1]?) with
  | none => none
  | some a =>
    let s := match s.badPiece a with
      | some pa => s.fqPostFor a.hart
          { FqEntry.mk3 2 pa (some a.hart) with tile := a.op.tile, cause := if a.op.ly.isSome then 7 else 5 }
      | none => s.arrayEffect cl a
    let s := s.onCluster cl (fun c => if k = 0 then { c with executing := none } else { c with fills := dropAt c.fills (k - 1) })
    some (s.leaseSettle cl)

/-! ## Pre-emption (R197) -/

/-- The array side of a pre-empted strand is suspended: a holder's commands that have not begun are recorded, the lease
ends with its tiles to park, and any request is withdrawn. One that its lease has yet to come back to is owed it still. -/
def State.suspendArray (s : State) (h : Nat) : State :=
  let cl := clOf h
  let s := s.leaseCheck cl
  let c := s.cluster cl
  if c.lease.holder = some h then
    let s := s.onArr h (fun a => { a with resume := a.resume ++ c.cmdq, susp := 2, req := false, back := false })
    let s := s.onCluster cl (fun c =>
      { c with cmdq := [], lease := { c.lease with holder := none, ending := some (h, true), start := none } })
    s.leaseSettle cl
  else if (s.hart h).arr.req then s.onArr h (fun a => { a with req := false, susp := if a.back then 2 else 1, back := false })
  else s

/-- The array side of a resumed task: its request is posted again, and one that held the lease issues nothing until its
commands have been entered again. -/
def State.resumeArray (s : State) (h : Nat) : State :=
  let k := (s.hart h).arr.susp
  if k = 0 then s
  else (s.leaseCheck (clOf h)).onArr h (fun a => { a.ask s.dev.cy with susp := 0, back := decide (k = 2) })

/-! ## The array instructions -/

/-- mlease (R180). -/
def execMlease (d : BitVec 5) (s : State) : Out :=
  let s' := s.mlease s.cur
  s.own (fieldsMlease d).toWord true (s'.putX s.cur d (s'.leaseWord s.cur))

/-- mrel (R185). -/
def execMrel (s : State) : Out := s.own fieldsMrel.toWord true ((s.release s.cur).retire s.cur)

/-- Whether a transfer word is legal (R190); a longer transfer than the buffer meets check 8 of Table 8-4. -/
def mwldOk (x : Word) : Bool :=
  zeroBits x 21 1 && zeroBits x 44 20 && decide (fld x 22 22 % 8 = 0) && decide (8 ≤ fld x 22 22)

/-- mwld (R189, R190). -/
def execMwld (rs1 rs2 : BitVec 5) (s : State) : Out :=
  let w := (fieldsMwld rs1 rs2).toWord
  s.own w (mwldOk (s.rx rs2)) (s.arrayCmd s.cur rs1.toNat w .mwld (s.rx rs1) (s.rx rs2))

/-- mzero (R189, R191). -/
def execMzero (z : BitVec 2) (s : State) : Out :=
  let w := (fieldsMzero z).toWord
  s.own w true (s.arrayCmd s.cur 0 w (.mzero z.toNat) 0 0)

/-- mld (R189, R191). -/
def execMld (z : BitVec 2) (rs1 : BitVec 5) (s : State) : Out :=
  let w := (fieldsMld z rs1).toWord
  s.own w true (s.arrayCmd s.cur rs1.toNat w (.mld z.toNat) (s.rx rs1) 0)

/-- mst (R189, R192). -/
def execMst (z : BitVec 2) (dir : BitVec 1) (rs1 : BitVec 5) (fmt : BitVec 3) (ly : BitVec 2) (s : State) : Out :=
  let w := (fieldsMst z dir rs1 fmt ly).toWord
  s.own w (decide (fmt.toNat < 6))
    (s.arrayCmd s.cur rs1.toNat w (.mst z.toNat fmt.toNat ly.toNat (decide (dir = 1))) (s.rx rs1) 0)

/-- An mmac form: its code in Table 8-5, its tile, registers and kf. -/
def State.mmacCmd (s : State) (w : BitVec 32) (code : Nat) (z : BitVec 2) (rs1 rs2 : BitVec 5) (kf : BitVec 5) : Out :=
  s.own w true (s.arrayCmd s.cur rs1.toNat w (.mmac code z.toNat kf.toNat) (s.rx rs1) (s.rx rs2))

/-- mmac.e4e4 (R187, R193). -/
def execMmacE4e4 (z : BitVec 2) (rs1 rs2 kf : BitVec 5) (s : State) : Out :=
  s.mmacCmd (fieldsMmacE4e4 z rs1 rs2 kf).toWord 6 z rs1 rs2 kf

/-- mmac.e5e4 (R187, R193). -/
def execMmacE5e4 (z : BitVec 2) (rs1 rs2 kf : BitVec 5) (s : State) : Out :=
  s.mmacCmd (fieldsMmacE5e4 z rs1 rs2 kf).toWord 7 z rs1 rs2 kf

/-- mmac.e4e5 (R187, R193). -/
def execMmacE4e5 (z : BitVec 2) (rs1 rs2 kf : BitVec 5) (s : State) : Out :=
  s.mmacCmd (fieldsMmacE4e5 z rs1 rs2 kf).toWord 8 z rs1 rs2 kf

/-- mmac.e5e5 (R187, R193). -/
def execMmacE5e5 (z : BitVec 2) (rs1 rs2 kf : BitVec 5) (s : State) : Out :=
  s.mmacCmd (fieldsMmacE5e5 z rs1 rs2 kf).toWord 9 z rs1 rs2 kf

/-- mmac.bf16 (R187, R193). -/
def execMmacBf16 (z : BitVec 2) (rs1 rs2 kf : BitVec 5) (s : State) : Out :=
  s.mmacCmd (fieldsMmacBf16 z rs1 rs2 kf).toWord 10 z rs1 rs2 kf

/-- mmac.e4q (R187, R193). -/
def execMmacE4q (z : BitVec 2) (rs1 rs2 kf : BitVec 5) (s : State) : Out :=
  s.mmacCmd (fieldsMmacE4q z rs1 rs2 kf).toWord 11 z rs1 rs2 kf

/-- mmac.f4 (R187, R193). -/
def execMmacF4 (z : BitVec 2) (rs1 rs2 kf : BitVec 5) (s : State) : Out :=
  s.mmacCmd (fieldsMmacF4 z rs1 rs2 kf).toWord 12 z rs1 rs2 kf

/-- mmac.f4q (R187, R193). -/
def execMmacF4q (z : BitVec 2) (rs1 rs2 kf : BitVec 5) (s : State) : Out :=
  s.mmacCmd (fieldsMmacF4q z rs1 rs2 kf).toWord 13 z rs1 rs2 kf

end Sys2Proof.Machine
end

