-- ==== Sys2Proof/Machine/Csr.lean ====
section
/-!
DEFINITION. The control and status registers (R62, R63, R128, R132, R142, R308, R310, R312): which exist on a hart, who
may reach them, what a read gives and what a write leaves; pending and enabled interrupts; the CSR instructions.
-/
namespace Sys2Proof.Machine

/-! ## Pending interrupts (R312) -/

/-- Whether some context's fault queue holds an entry and counts for interrupt 16. -/
def State.fqPending (s : State) : Bool :=
  s.ctxs.any (fun (p : Nat × Context) =>
    decide (p.2.fqhead < p.2.fqtail) && (bit p.2.fqctl 29 || p.2.undelivered))

/-- The interrupt bits 16 to 19 that a hart can have pending (Table 13-4). -/
def intMask (h : Nat) : Word := if isMgmt h then 0xD0000 else 0x60000

/-- mip: the software bits, and the device interrupts of the hart. -/
def State.mip (s : State) (h : Nat) : Word :=
  let t := s.hart h
  let dev := word ((isMgmt h && s.fqPending).toNat * 2 ^ 16 + (!isMgmt h && t.preempt).toNat * 2 ^ 17 +
    (decide (t.alarm.toNat ≤ s.dev.chron)).toNat * 2 ^ 18 + (isMgmt h && !s.dev.linkev.isEmpty).toNat * 2 ^ 19)
  t.csr.mipSw ||| dev

/-- mie: the standard bits, and those device interrupts that the hart can have. -/
def State.mie (s : State) (h : Nat) : Word := (s.hart h).csr.mie &&& (0xAAA ||| intMask h)

/-- Priority of interrupts: pre-emption first, then the other device interrupts, then the standard ones (log 16). -/
def intOrder : List Nat := [17, 16, 18, 19, 11, 3, 7, 9, 1, 5]

/-- The interrupt that a hart takes now, if any (R308 and the privileged architecture of Table 0-3). -/
def State.interrupt (s : State) (h : Nat) : Option Nat :=
  let t := s.hart h
  let p := s.mip h &&& s.mie h
  let toM := p &&& ~~~t.csr.mideleg
  let toS := p &&& t.csr.mideleg
  let mOn := decide (t.mode ≠ .m) || bit t.csr.mstatus 3
  let sOn := decide (t.mode = .u) || (decide (t.mode = .s) && bit t.csr.mstatus 1)
  match (if mOn then intOrder.find? (fun i => bit toM i) else none) with
  | some i => some i
  | none => if sOn then intOrder.find? (fun i => bit toS i) else none

/-! ## Barrier words (R277, R278) -/

/-- The state of wire w at a strand's core where the strand is its participant. -/
def State.myWire (s : State) (h w : Nat) : Option Wire :=
  let x := s.wire (coreOf h) w
  if x.part = some h ∧ x.parked = none then some x else none

/-- evword (Table 11-7): wires 0 row, 1 column, 2 die. -/
def State.evword (s : State) (h : Nat) : Word :=
  let part := fun (w : Nat) => match s.myWire h w with
    | some x => x.done.toNat * 2 ^ (2 * w) + x.vote.toNat * 2 ^ (2 * w + 1) + x.count % 256 * 2 ^ (8 + 8 * w)
    | none => 2 ^ (2 * w)
  word (part 0 + part 1 + part 2)

/-! ## Reading and writing -/

/-- sstatus is these bits of mstatus. -/
def sstatusMask : Word := 0x80000003000DE122

/-- The bits of mstatus that a write may change. -/
def mstatusMask : Word := 0x00000000007E79AA

/-- vstart (R100): the recorded index of the oldest instruction of a held resume state; after a vrestore, that of the
oldest reinstated one while it stands in its queue (R319); else 0 (log 26). -/
def Vec.vstart (v : Vec) : Nat :=
  match v.resume, v.restored with
  | r :: _, _ => r.index
  | [], some (q, i) => if v.queue.any (fun e => e.seq = q) then i else 0
  | [], none => 0

/-- A CSR's value; none where the part has no such CSR (R310) (log 54). -/
def State.csrValue (s : State) (h n : Nat) : Option Word :=
  let t := s.hart h
  let c := t.csr
  match n with
  | 0x001 => some (t.fflags.setWidth 64)
  | 0x002 => some (t.frm.setWidth 64)
  | 0x003 => some (t.frm.setWidth 64 <<< 5 ||| t.fflags.setWidth 64)
  | 0xC00 => some (if isMgmt h then word s.dev.cy else word ((s.cluster (clOf h)).coreIsland.cycles s.dev.cy / 96))
  | 0xC01 => some (word s.dev.chron)
  | 0xC02 => some t.instret
  | 0x100 => some (c.mstatus &&& sstatusMask)
  | 0x104 => some (s.mie h &&& c.mideleg)
  | 0x105 => some c.stvec
  | 0x106 => some c.scounteren
  | 0x10A => some c.senvcfg
  | 0x140 => some c.sscratch
  | 0x141 => some c.sepc
  | 0x142 => some c.scause
  | 0x143 => some c.stval
  | 0x144 => some (s.mip h &&& c.mideleg)
  | 0x180 => some c.satp
  | 0x300 => some c.mstatus
  | 0x301 => some 0x8000000000941121
  | 0x302 => some c.medeleg
  | 0x303 => some c.mideleg
  | 0x304 => some (s.mie h)
  | 0x305 => some c.mtvec
  | 0x306 => some c.mcounteren
  | 0x30A => some c.menvcfg
  | 0x340 => some c.mscratch
  | 0x341 => some c.mepc
  | 0x342 => some c.mcause
  | 0x343 => some c.mtval
  | 0x344 => some (s.mip h)
  | 0xF11 => some 0
  | 0xF12 => some 0x204
  | 0xF13 => some Config.mimpid
  | 0xF14 => some (word h)
  | 0xF15 => some 0
  | 0xCC4 => some (word s.dev.chron)
  | 0x5C0 => some (wordOfBool c.he)
  | _ =>
    if (0x3A0 ≤ n ∧ n ≤ 0x3AE ∧ n % 2 = 0) ∨ (0x3B0 ≤ n ∧ n ≤ 0x3EF) then some 0
    else if isMgmt h then none
    else match n with
    | 0x800 => some c.upvec
    | 0x801 => some c.upepc
    | 0x802 => some c.upcause
    | 0x803 => some c.upstat
    | 0xCC0 => some (word t.vec.vl)
    | 0xCC1 => some (t.vec.vetype.setWidth 64)
    | 0xCC2 => some (word t.vec.vstart)
    | 0xCC3 => some (word t.vec.vgrant)
    | 0xCC5 => some (s.evword h)
    | _ => none

/-- A write of mstatus: only writable bits; MPP keeps its value where the new one is no mode; SD follows FS. -/
def Csrs.putMstatus (c : Csrs) (mask v : Word) : Csrs :=
  let w := (c.mstatus &&& ~~~(mask &&& mstatusMask)) ||| (v &&& mask &&& mstatusMask)
  let w := if fld w 11 2 = 2 then setFld w 11 2 (fld c.mstatus 11 2) else w
  { c with mstatus := setBit w 63 (decide (fld w 13 2 = 3)) }

/-- Merge the masked bits of a new value into an old one. -/
def merge (old new mask : Word) : Word := (old &&& ~~~mask) ||| (new &&& mask)

/-- What a write of a CSR leaves (the fields' write rules are the privileged architecture's, log 3, and the spec's). -/
def Csrs.put (c : Csrs) (h n : Nat) (v : Word) : Csrs :=
  match n with
  | 0x100 => c.putMstatus sstatusMask v
  | 0x104 => { c with mie := merge c.mie v (c.mideleg &&& (0xAAA ||| intMask h)) }
  | 0x105 => { c with stvec := setBit v 1 false }
  | 0x106 => { c with scounteren := v &&& 7 }
  | 0x10A => { c with senvcfg := v &&& 1 }
  | 0x140 => { c with sscratch := v }
  | 0x141 => { c with sepc := setFld v 0 2 0 }
  | 0x142 => { c with scause := v }
  | 0x143 => { c with stval := v }
  | 0x144 => { c with mipSw := merge c.mipSw v (c.mideleg &&& 0x2) }
  | 0x180 => if fld v 60 4 = 0 ∨ fld v 60 4 = 10 then { c with satp := v } else c
  | 0x300 => c.putMstatus (BitVec.allOnes 64) v
  | 0x302 => { c with medeleg := v &&& 0xFF00B3FF }
  | 0x303 => { c with mideleg := v &&& 0xF0222 }
  | 0x304 => { c with mie := v &&& (0xAAA ||| intMask h) }
  | 0x305 => { c with mtvec := setBit v 1 false }
  | 0x306 => { c with mcounteren := v &&& 7 }
  | 0x30A => { c with menvcfg := v &&& 1 }
  | 0x340 => { c with mscratch := v }
  | 0x341 => { c with mepc := setFld v 0 2 0 }
  | 0x342 => { c with mcause := v }
  | 0x343 => { c with mtval := v }
  | 0x344 => { c with mipSw := merge c.mipSw v 0x222 }
  | 0x5C0 => { c with he := bit v 0 }
  | 0x800 => { c with upvec := v }
  | 0x801 => { c with upepc := v }
  | 0x802 => { c with upcause := v &&& 0xF7F }
  | 0x803 => { c with upstat := v }
  | _ => c

/-- A write of a CSR by a hart; a write of fcsr makes FS Dirty (R61). -/
def State.csrPut (s : State) (h n : Nat) (v : Word) : State :=
  s.onHart h (fun t =>
    match n with
    | 0x001 => { t with fflags := v.setWidth 5, csr := t.csr.dirtyFs }
    | 0x002 => { t with frm := v.setWidth 3, csr := t.csr.dirtyFs }
    | 0x003 => { t with fflags := v.setWidth 5, frm := (v >>> 5).setWidth 3, csr := t.csr.dirtyFs }
    | _ => { t with csr := t.csr.put h n v })

/-! ## Who may (R62, R63) -/

/-- The number of a mode among privilege levels. -/
def Mode.level (x : Mode) : Nat := x.code

/-- Whether a counter's bit lets the mode read it (R62). -/
def Csrs.counterOk (c : Csrs) (x : Mode) (i : Nat) : Bool :=
  match x with
  | .m => true
  | .s => bit c.mcounteren i
  | .u => bit c.mcounteren i && bit c.scounteren i

/-- Whether the hart may access CSR n, for writing where `w`. -/
def State.csrOk (s : State) (h n : Nat) (w : Bool) : Bool :=
  let t := s.hart h
  (s.csrValue h n).isSome && decide (n / 256 % 4 ≤ t.mode.level) && !(w && decide (n / 1024 = 3)) &&
    (decide (n < 0xC00) || decide (0xC02 < n) || t.csr.counterOk t.mode (n - 0xC00)) &&
    !(s.fsOff h && decide (1 ≤ n) && decide (n ≤ 3)) &&
    !(decide (n = 0x180) && decide (t.mode = .s) && bit t.csr.mstatus 20)

/-- A CSR instruction: `f` gives the new value from the old, none writes nothing. -/
def State.csrOp (s : State) (w : BitVec 32) (rd : BitVec 5) (csr : BitVec 12) (f : Option (Word → Word)) : Out :=
  let h := s.cur
  let n := csr.toNat
  let old := (s.csrValue h n).getD 0
  s.legal w (s.csrOk h n f.isSome)
    (let s' := match f with | some g => s.csrPut h n (g old) | none => s
     s'.putX h rd old)

/-- csrrw (Table 3-4, R63). -/
def execCsrrw (rd rs1 : BitVec 5) (csr : BitVec 12) (s : State) : Out :=
  s.csrOp (fieldsCsrrw rd rs1 csr).toWord rd csr (some (fun _ => s.rx rs1))

/-- csrrs: no write where rs1 is x0 (R63). -/
def execCsrrs (rd rs1 : BitVec 5) (csr : BitVec 12) (s : State) : Out :=
  s.csrOp (fieldsCsrrs rd rs1 csr).toWord rd csr (if rs1 = 0 then none else some (fun o => o ||| s.rx rs1))

/-- csrrc: no write where rs1 is x0 (R63). -/
def execCsrrc (rd rs1 : BitVec 5) (csr : BitVec 12) (s : State) : Out :=
  s.csrOp (fieldsCsrrc rd rs1 csr).toWord rd csr (if rs1 = 0 then none else some (fun o => o &&& ~~~s.rx rs1))

/-- csrrwi. -/
def execCsrrwi (rd u : BitVec 5) (csr : BitVec 12) (s : State) : Out :=
  s.csrOp (fieldsCsrrwi rd u csr).toWord rd csr (some (fun _ => u.setWidth 64))

/-- csrrsi: no write where u5 is 0 (R63). -/
def execCsrrsi (rd u : BitVec 5) (csr : BitVec 12) (s : State) : Out :=
  s.csrOp (fieldsCsrrsi rd u csr).toWord rd csr (if u = 0 then none else some (fun o => o ||| u.setWidth 64))

/-- csrrci: no write where u5 is 0 (R63). -/
def execCsrrci (rd u : BitVec 5) (csr : BitVec 12) (s : State) : Out :=
  s.csrOp (fieldsCsrrci rd u csr).toWord rd csr (if u = 0 then none else some (fun o => o &&& ~~~(u.setWidth 64)))

/-! ## Traps on purpose, returns, wfi, sfence.vma (R63, R144) -/

/-- ecall: cause 8, 9 or 11 by the mode, trap value 0 (R63, R65). -/
def execEcall (s : State) : Out :=
  .next (s.raise s.cur (match (s.hart s.cur).mode with | .u => 8 | .s => 9 | .m => 11) 0)

/-- ebreak: cause 3, trap value 0 (R63, R65). -/
def execEbreak (s : State) : Out := .next (s.raise s.cur 3 0)

/-- An instruction of hart h retires by a return that has set the pc. -/
def State.returned (s : State) (h : Nat) : State :=
  s.onHart h (fun t => { t with instret := t.instret + 1, pos := t.pos + 1 })

/-- A return to U-mode resumes the array side of a task whose pre-emption did not end in a vsave (R197). -/
def State.backToUser (s : State) (h : Nat) : State := if (s.hart h).mode = .u then s.resumeArray h else s

/-- sret: illegal in U-mode, and in S-mode while mstatus.TSR is set; a held resume state is reinstated (R101). -/
def execSret (s : State) : Out :=
  let t := s.hart s.cur
  s.legal fieldsSret.toWord (decide (t.mode = .m) || (decide (t.mode = .s) && !bit t.csr.mstatus 22))
    ((((s.onHart s.cur Hart.sret).reinstate s.cur 1).returned s.cur).backToUser s.cur)

/-- mret: M-mode only. -/
def execMret (s : State) : Out :=
  s.legal fieldsMret.toWord (decide ((s.hart s.cur).mode = .m))
    ((((s.onHart s.cur Hart.mret).reinstate s.cur 2).returned s.cur).backToUser s.cur)

/-- Return from an upcall: pc := upepc, UE := PUE (R144). -/
def Hart.upret (t : Hart) : Hart :=
  { t with pc := t.csr.upepc, csr := { t.csr with upvec := setBit t.csr.upvec 0 (bit t.csr.upvec 1) } }

/-- upret (R144): U-mode only. -/
def execUpret (s : State) : Out :=
  s.own fieldsUpret.toWord (decide ((s.hart s.cur).mode = .u))
    (((s.onHart s.cur Hart.upret).reinstate s.cur 0).returned s.cur)

/-- wfi (R63): illegal in U-mode, and in S-mode while TW is set; else the strand stops issuing until an interrupt is
pending. -/
def execWfi (s : State) : Out :=
  let t := s.hart s.cur
  s.legal fieldsWfi.toWord (decide (t.mode = .m) || (decide (t.mode = .s) && !bit t.csr.mstatus 21))
    (if s.mip s.cur ≠ 0 then s.retire s.cur else s.hold s.cur .wfi)

/-- sfence.vma (R63): the issuing core's translations that match; illegal in U-mode, and in S-mode while TVM is set. Older
stores have performed first. -/
def execSfenceVma (rs1 rs2 : BitVec 5) (s : State) : Out :=
  let t := s.hart s.cur
  s.legal (fieldsSfenceVma rs1 rs2).toWord (decide (t.mode = .m) || (decide (t.mode = .s) && !bit t.csr.mstatus 20))
    (if !t.stores.isEmpty then s
    else (s.onCore (bufCore s.cur) (fun c =>
      c.flush false (rs1 = 0) (rs2 = 0) (s.rx rs1).toNat ((s.rx rs2).toNat % 2 ^ 16))).retire s.cur)

end Sys2Proof.Machine
end

