-- ==== Sys2Proof/Machine/Tasks.lean ====
section
/-!
DEFINITION. Tasks and queues (chapter 10): launch blocks, qpush and qpop, exit and joins, yield, the work distributor,
gangs, dispatch, and ordered commit.
-/
namespace Sys2Proof.Machine

/-! ## Launch blocks (R227, R228) -/

/-- The 128 bytes of a launch block, as one number. -/
abbrev Block := BitVec 1024

/-- T, the tasks of a group. -/
def Block.tasks (b : Block) : Nat := fld b 128 5
/-- PS, the tasks per stage. -/
def Block.perStage (b : Block) : Nat := fld b 133 5
/-- The ordering class. -/
def Block.cls (b : Block) : Nat := fld b 160 2
/-- The priority. -/
def Block.prio (b : Block) : Nat := fld b 162 3

/-- Whether the words at offsets 16 to 31 keep the limits of Table 10-1: T, PS, class and the reserved fields. -/
def shapeOk (w : Nat) : Bool :=
  let v := BitVec.ofNat 128 w
  decide (1 ≤ fld v 0 5) && decide (fld v 0 5 ≤ 16) && decide (1 ≤ fld v 5 5) && decide (fld v 5 5 ≤ 16) &&
    decide (fld v 10 22 = 0) && decide (fld v 32 2 ≠ 3) && decide (fld v 48 16 = 0)

/-- Whether the fields of a block keep Table 10-1. -/
def Block.ok (b : Block) : Bool := decide (fld b 0 2 = 0) && shapeOk (fld b 128 128)

/-- The state as a task of context c on hart h would see it: the dispatcher reads a block through the address space of
the strand that receives task 0 (log 23); it makes walks of its own. -/
def State.asTask (s : State) (h c : Nat) : State :=
  (s.onHart h (fun t => { t with mode := .u, task := some { ctx := c, cls := 0, prio := 0, slot := none, coord := 0 } })).onCore
    (coreOf h) (fun k => { k with walking := [] })

/-- Read n 32-byte parts from an address of a context. -/
def State.readParts (s : State) (h c va : Nat) : Nat → Option (List Byte)
  | 0 => some []
  | n + 1 =>
    match (s.asTask h c).access h (word va) 32 .load with
    | .stop _ => none
    | .ok x =>
      match regionOf x.pa with
      | .remote _ _ => none
      | _ => (s.readParts h c (va + 32) n).map (fun r => s.bytes x.pa 32 ++ r)

/-- Read a launch block; none where it faults, is misaligned or breaks Table 10-1 (R247). -/
def State.readBlock (s : State) (h c va : Nat) : Option Block :=
  if va % 128 ≠ 0 then none
  else match s.readParts h c va 4 with
  | none => none
  | some bs =>
    let b : Block := BitVec.ofNat 1024 (ofBytes bs)
    if b.ok then some b else none

/-! ## qpush and qpop (R235, R236) -/

/-- The eight 8-byte accesses of a record: their physical addresses in ascending order, or the first that fails. -/
def State.recordAt (s : State) (h : Nat) (va : Word) (a : Acc') : Except (Stop × Word) (List Hit) :=
  (List.range 8).foldl (fun r i =>
    match r with
    | .error e => .error e
    | .ok l =>
      let v := va + word (8 * i)
      match s.access h v 8 a with
      | .stop z => .error (z, v)
      | .ok x =>
        match regionOf x.pa with
        | .reg _ => .error (.exc a.accessFault, v)
        | .remote _ _ => .error (.exc a.accessFault, v)
        | _ => .ok (l ++ [x])) (.ok [])

/-- Whether a hart belongs to the context of a queue; a management hart acts for every context (log 24). -/
def State.ownQueue (s : State) (h q : Nat) : Bool :=
  (s.queue q).valid && (isMgmt h || decide (s.ctxOf h = some (s.queue q).ctx))

/-- Whether the die of a queue's home answers (R248). -/
def State.queueUp (s : State) (q : Nat) : Bool := s.dieUp (q / 256)

/-- qpush (R235, R236, Table 10-4): it waits for every older scalar access. -/
def State.qpush (s : State) (h base rd q : Nat) (va : Word) : State :=
  if va.toNat % 64 ≠ 0 then s.raise h 4 va
  else match s.recordAt h va .load with
  | .error (z, v) => s.scalarStop h v false (some base) z
  | .ok xs =>
    if !s.queueUp q then (s.offlineNote h va.toNat 7).raise h 7 va
    else if !s.quiet h true true || !(s.hart h).remotes.isEmpty || s.held h (s.hart h).pos va.toNat 64 false then s
    else
      let s := xs.foldl (fun (s : State) x => s.setAD x) s
      let d := BitVec.ofNat 512 (ofBytes (xs.flatMap (fun x => s.bytes x.pa 8)))
      let s := xs.foldl (fun (s : State) x => s.readHomed h x 8) s
      let (s, r) :=
        if !s.ownQueue h q || (bit d 56 && decide ((s.hart h).mode = .u)) then (s, 2)
        else
          let (s, ok) := s.push q .user (setS d false) h
          (s, if ok then 0 else 1)
      (s.setX h rd (word r)).retire h

/-- qpop (R235, R236): the record of lowest key among the 64 oldest is removed and written. Where the die of the queue's home is
in warm reset, it ends as a push does there, with cause 7 and X[xs2] as trap value: the model's choice, since R248 names pushes
and commits (log 43). -/
def State.qpop (s : State) (h base rd q : Nat) (va : Word) : State :=
  if va.toNat % 64 ≠ 0 then s.raise h 6 va
  else match s.recordAt h va .store with
  | .error (z, v) => s.scalarStop h v true (some base) z
  | .ok xs =>
    if !s.queueUp q then (s.offlineNote h va.toNat 7).raise h 7 va
    else if xs.any (fun x => (s.hart h).storing x.pa 8 || (s.hart h).loading x.pa 8) ||
        s.held h (s.hart h).pos va.toNat 64 true then s
    else if !s.ownQueue h q || (s.queue q).bound then (s.setX h rd 2).retire h
    else match (s.queue q).lowest 64 (fun _ => true) with
    | none => (s.setX h rd 1).retire h
    | some i =>
      let d := s.record q i
      let s := s.takeRecord q i
      let s := xs.foldl (fun (s : State) x => s.setAD x) s
      let s := (xs.zipIdx).foldl (fun (s : State) (x, j) =>
        (s.writeHomed h x.homed x.pa).perform false h (ownCore h) x.pa (bytesOf 8 (fld d (64 * j) 64))) s
      (s.setX h rd 0).retire h

/-! ## exit (R237, R238) -/

/-- A word that an exit has had already, from a device register or a remote window. -/
def State.exitHas (s : State) (h : Nat) (va : Word) : Option Nat :=
  (((s.hart h).imageIn.getD []).find (va.toNat / 8)).map BitVec.toNat

/-- Keep a word that an exit has read, by its address. -/
def State.exitKeep (s : State) (h : Nat) (va v : Word) : State :=
  s.onHart h (fun t => { t with imageIn := t.imageIn.map (fun i => i.ins (va.toNat / 8) v) })

/-- An exit with base register, count and list reads a word as ld does (R56, R121, R237); the number goes to `k`. While two walks
run on the core, a copy or a load of its own holds the bytes, or the answer from a remote window is out, it holds the strand, and
reads again what memory holds once it goes on; what a device register or a remote window has given stands (log 27). -/
def State.exitWord (s : State) (h base cnt : Nat) (l va : Word) (k : State → Nat → State) : State :=
  match s.exitHas h va with
  | some v => k s v
  | none =>
    match s.access h va 8 .load with
    | .stop z => if z = .busy then s.hold h (.exitRead base cnt l) else s.scalarStop h va false (some base) z
    | .ok x =>
      match regionOf x.pa with
      | .reg off =>
        (match s.devLoad off 8 with
          | none => s.raise h 5 va
          | some (v, s) => k ((s.setAD x).exitKeep h va (word v)) v)
      | .remote _ _ =>
        let s := (s.setAD x).remoteLoad h va.toNat
          { pos := (s.hart h).pos, rd := 0, isF := false, pa := x.pa, width := 8, signed := false } (some (va.toNat / 8))
        (match s.exitHas h va with
          | some v => k s v
          | none => s.hold h (.exitRead base cnt l))
      | _ =>
        if s.held h (s.hart h).pos va.toNat 8 false || s.ioWaits h x || (s.hart h).loading x.pa 8 then
          s.hold h (.exitRead base cnt l)
        else k ((s.setAD x).readHomed h x 8) ((s.setAD x).overlay h (s.hart h).pos x.pa 8)

/-- Read a list of 8-byte words, each as a scalar load, and hand them on. -/
def State.readWords (s : State) (h base cnt : Nat) (l : Word) : List Word → List Nat → (State → List Nat → State) → State
  | [], acc, k => k s acc.reverse
  | a :: r, acc, k => s.exitWord h base cnt l a (fun s v => s.readWords h base cnt l r (v :: acc) k)

/-- The words at offsets 16 to 31 of each block named, with the tests of R237 on them. -/
def State.readEdges (s : State) (h base cnt : Nat) (l : Word) : List Nat → List ExitEdge → (State → List ExitEdge → State) → State
  | [], acc, k => k s acc.reverse
  | b :: r, acc, k =>
    if b % 128 ≠ 0 then s.raise h 4 (word b)
    else s.readWords h base cnt l [word (b + 16), word (b + 24)] [] (fun s ws =>
      let v := ws.getD 0 0 + ws.getD 1 0 * 2 ^ 64
      let w := BitVec.ofNat 128 v
      let q := fld w 37 10
      if !shapeOk v || !(s.queue q).valid || decide (s.ctxOf h ≠ some (s.queue q).ctx) || (s.queue q).bound then
        s.raise h 5 (word b)
      else if !s.queueUp q then (s.offlineNote h b 7).raise h 7 (word b)
      else
        s.readEdges h base cnt l r
          ({ block := b, key := fld w 64 32, queue := q, join := if bit w 47 then some (b + 28) else none } :: acc) k)

/-- The join counters, each such as an sw could write it now (R237); `join` becomes the physical address. -/
def State.checkJoins (s : State) (h base cnt : Nat) (l : Word) :
    List ExitEdge → List ExitEdge → (State → List ExitEdge → State) → State
  | [], acc, k => k s acc.reverse
  | e :: r, acc, k =>
    match e.join with
    | none => s.checkJoins h base cnt l r (e :: acc) k
    | some va =>
      match s.access h (word va) 4 .store with
      | .stop z => if z = .busy then s.hold h (.exitRead base cnt l) else s.scalarStop h (word va) true (some base) z
      | .ok x => (s.setAD x).checkJoins h base cnt l r ({ e with join := some x.pa } :: acc) k

/-- An exit reads its list and its blocks, checks its join counters, and then holds the strand until every older access has
performed (R237). -/
def State.exitRead (s : State) (h base cnt : Nat) (l : Word) : State :=
  s.readWords h base cnt l ((List.range cnt).map (fun i => l + word (8 * i))) [] (fun s bs =>
    s.readEdges h base cnt l bs [] (fun s es => s.checkJoins h base cnt l es [] (fun s es => s.hold h (.exit es))))

/-- exit at its retirement (R237): it reads once no answer of an earlier reading is out. -/
def State.exit (s : State) (h base cnt : Nat) (l : Word) : State :=
  if cnt = 0 then s.hold h (.exit [])
  else if l.toNat % 8 ≠ 0 then s.raise h 4 l
  else if (s.hart h).remotes.any (fun r => r.img.isSome) then s
  else (s.onHart h (fun t => { t with imageIn := some [] })).exitRead h base cnt l

/-- An exit that waits for what it reads goes on once the answers it has asked for are there; none where it comes no further. -/
def State.exitReadOn (s : State) (h base cnt : Nat) (l : Word) : Option State :=
  if (s.hart h).remotes.any (fun r => r.img.isSome) then none
  else
    let t := s.exitRead h base cnt l
    if (t.hart h).wait = (s.hart h).wait ∧ (t.hart h).imageIn = (s.hart h).imageIn ∧ (t.hart h).remotes = (s.hart h).remotes then none
    else some t

/-- Whether every older access of a task has performed: scalar, vector, copies, array commands, and its wdq queries
have been taken (R238). -/
def State.drained (s : State) (h : Nat) : Bool :=
  let t := s.hart h
  t.stores.isEmpty && t.loads.isEmpty && t.remotes.isEmpty && t.vec.queue.isEmpty && (s.acmds h).isEmpty &&
    t.stg.chans.all (fun (p : Nat × Chan) => p.2.xfers.isEmpty) &&
    s.dev.queries.all (fun q => q.hart != h || q.answer.isSome)

/-- A successor accepted into overflow lowers the issue of the core's strands of the context for 16,384 cy (R233). -/
def State.lower (s : State) (h c : Nat) : State :=
  s.onCore (coreOf h) (fun k => { k with lowered := k.lowered.filter (fun l => l.1 != c) ++ [(c, s.dev.cy + 16384)] })

/-- Post the launch record of an edge (R238). -/
def State.postEdge (s : State) (h : Nat) (e : ExitEdge) : State :=
  let x := s.queue e.queue
  let over_ := decide (x.hard ≤ x.recs.length)
  let (s, ok) := s.push e.queue .successor (launchRecord e.key e.block) h
  if ok && over_ then s.lower h x.ctx else s

/-- The value of the join counter of an edge, at a physical address, and the counter decremented where that is not 0 (R238):
in one operation at its home in memory; where it is a device register, by a load and a store of 4 bytes, and in a remote window,
which gives no value in the cy in which the strand ends, from a free value, by an RDMA WRITE (log 27). -/
def State.joinDec (s : State) (h block pa : Nat) : Nat × State :=
  match regionOf pa with
  | .reg off =>
    (match s.devLoad off 4 with
      | none => (0, s)
      | some (v, s) =>
        (v, if v = 0 then s else match s.devStore h off 4 (v - 1) with
          | .ok s => s
          | .held s => s
          | _ => s))
  | .remote _ _ =>
    let v := (Config.lostLoad s.freeCount).toNat % 2 ^ 32
    let s := { s with freeCount := s.freeCount + 1 }
    (v, if v = 0 then s else s.remoteStore h (block + 28) pa 4 (v - 1))
  | _ =>
    let v := s.mem64 pa 4
    (v, if v = 0 then s else s.perform true h (ownCore h) pa (bytesOf 4 (v - 1)))

/-- The successors in order: each is posted, or its join counter is decremented (R238). A kill that an overflow starts ends the
walk. -/
def State.postEdges (s : State) (h c : Nat) : List ExitEdge → State
  | [] => s
  | e :: r =>
    if (s.ctx c).killing then s
    else
      let s := match e.join with
        | none => s.postEdge h e
        | some pa =>
          let (old, s) := s.joinDec h e.block pa
          if old = 0 then s.fqPostFor h (FqEntry.mk3 5 (e.block + 28) (some h))
          else if old = 1 then s.postEdge h e
          else s
      s.postEdges h c r

/-- The cores of a member set (Table 11-6), for a core and a wire: 0 row, 1 column, 2 die. -/
def wireMembers (core w : Nat) (cols : BitVec 16) (rows : BitVec 8) : List Nat :=
  let b := dieOfCore core * 128
  match w with
  | 0 => ((List.range 16).filter (fun c => bit cols c)).map (fun c => b + rowOf core * 16 + c)
  | 1 => ((List.range 8).filter (fun r => bit rows r)).map (fun r => b + r * 16 + colOf core)
  | _ => (List.range 128).filterMap (fun n => if bit cols (n % 16) && bit rows (n / 16) then some (b + n) else none)

/-- Whether every scalar access of hart h older than a place in program order has performed (R261, R275). -/
def State.performed (s : State) (h pos : Nat) : Bool :=
  let t := s.hart h
  t.loads.all (fun l => decide (pos ≤ l.pos)) && t.stores.all (fun x => decide (pos ≤ x.pos)) &&
    t.remotes.all (fun r => decide (pos ≤ r.pos)) && s.asked h pos

/-- The vote with which a core has arrived on a wire for a phase, since its state was configured: one of a phase that is
over there, or the outstanding one, which counts once it is sent (R275, R276). -/
def State.arrivalAt (s : State) (core w phase : Nat) : Option Bool :=
  let x := s.wire core w
  match x.votes.find phase with
  | some v => some v
  | none =>
    match x.arrival, x.part with
    | some (v, pos), some h =>
      if x.count = phase ∧ (x.parked.isSome ∨ s.performed h pos = true) then some v else none
    | _, _ => none

/-- A wire state with the arrivals that core m made for its phases put to those it has heard (R276). -/
def Wire.hear (x : Wire) (m : Nat) (votes : List (Nat × Bool)) : Wire :=
  { x with heard := x.heard ++ (votes.filter (fun a => decide (x.count ≤ a.1))).map (fun a => (m, a.1, a.2)) }

/-- A wire state is released (R274, R280): the arrivals that its participant has made stay made for the participants of
its context that stand configured on the wire, and for no later configuration (log 25). -/
def State.releaseWire (s : State) (core w : Nat) : State :=
  let x := s.wire core w
  let made := x.votes ++ match s.arrivalAt core w x.count with | some v => [(x.count, v)] | none => []
  let s := (wireMembers core w (BitVec.allOnes 16) (BitVec.allOnes 8)).foldl (fun (s : State) m =>
    if m ≠ core ∧ (s.wire m w).part.isSome ∧ (s.wire m w).ctx = x.ctx then s.setWire m w ((s.wire m w).hear core made)
    else s) s
  s.setWire core w Wire.reset

/-- The wire states that a strand's task holds at its core are released (R280). -/
def State.releaseWires (s : State) (h : Nat) : State :=
  (List.range 3).foldl (fun (s : State) w => if (s.myWire h w).isSome then s.releaseWire (coreOf h) w else s) s

/-- The endpoints of a strand's task, those of a parked task left out, are closed (R223). -/
def State.closeEps (s : State) (h : Nat) : State :=
  (List.range 4).foldl (fun (s : State) e => match s.endpoint h e with
    | some x => if x.parked.isNone then s.closeEp h e else s
    | none => s) s

/-- A hart whose task has ended: it runs nothing, and its units stand as at task start but for what a parked task has
left at the strand (R22, R223, R318). -/
def Hart.freed (t : Hart) : Hart :=
  { t with
    on := false, task := none, wait := .none, resv := none, vec := Vec.start t.vec.vgrant, arr := ArraySide.start
    stg := { Staging.start with
      detached := t.stg.detached, eps := t.stg.eps.filter (fun (p : Nat × Endpoint) => p.2.parked.isSome) } }

/-- The end of a strand's task (R22, R185, R205, R223, R280, R327): ring releases that can take effect do, rings are
withdrawn from, the lease is released, streams are closed, wires released, the stack slot freed. -/
def State.endTask (s : State) (h : Nat) : State :=
  let s := s.onHart h (fun t => { t with vec := { t.vec with resume := [] }, arr := { t.arr with resume := [] } })
  let s := s.takeReleases h (s.hart h).stg.releases.length
  let s := (List.range 8).foldl (fun (s : State) i => s.withdraw h i) s
  let s := ((s.release h).closeEps h).releaseWires h
  let s := match (s.hart h).task with
    | some k => s.onCtx k.ctx (fun x => { x with slots := x.slots.filter (fun n => some n != k.slot) })
    | none => s
  s.onHart h Hart.freed

/-- A waiting exit takes effect (R238). -/
def State.exitPerform (s : State) (h : Nat) : Option State :=
  match (s.hart h).wait with
  | .exit es =>
    if !s.drained h then none
    else
      let c := (s.ctxOf h).getD 16
      let s := s.postEdges h c es
      if (s.ctx c).killing then some s else some (s.endTask h)
  | _ => none

/-! ## wdq (R240, R241) -/

/-- wdq at its retirement: any place but the own scratch window is refused, and the query leaves. -/
def State.wdq (s : State) (h base k : Nat) (va : Word) : State :=
  let t := s.hart h
  let phys := decide (t.effMode .store = .m) || (decide (t.effMode .store = .s) && !t.csr.sv57)
  if va.toNat % 8 ≠ 0 then s.raise h 6 va
  else match phys, winOf va.toNat with
  | false, .scratch _ =>
    (match s.access h va 8 .store with
      | .stop z => s.scalarStop h va true (some base) z
      | .ok x =>
        let q : Query := { hart := h, ctx := (s.ctxOf h).getD 16, counter := k, pa := x.pa, pos := t.pos, answer := none }
        (s.onDev (fun d => { d with queries := d.queries ++ [q] })).retire h)
  | _, _ => s.raise h 7 va

/-- The distributor takes a query (R241): the value handed out, and NEXT advances. -/
def State.handOut (s : State) (q : Query) : State × Word :=
  let i := 64 * q.ctx + q.counter
  let a := s.dev.counters.get 0 (2 * i)
  let b := s.dev.counters.get 0 (2 * i + 1)
  let next := fld a 0 32
  let lim := fld b 0 32
  let st := fld b 32 16
  if st = 0 then (s, 0xFFFFFFFE)
  else if lim ≤ next then (s, 0xFFFFFFFF)
  else
    (s.onDev (fun d => { d with counters := d.counters.put 0 (2 * i) (setFld a 0 32 (min (next + st) lim)) }), word next)

/-- The k-th query in flight goes on: the distributor takes it, or its answer is written after the strand's older scalar
stores have performed and its line becomes full. Queries of one strand to one counter keep their order. -/
def State.wdqStep (s : State) (k : Nat) : Option State :=
  match s.dev.queries[k]? with
  | none => none
  | some q =>
    let before := (s.dev.queries.take k).filter (fun p => p.hart = q.hart && p.counter = q.counter && p.ctx = q.ctx)
    match q.answer with
    | none =>
      if before.any (fun p => p.answer.isNone) then none
      else
        let (s, v) := s.handOut q
        let put := fun (x : Query) => { x with answer := some v }
        some (s.onDev (fun d => { d with queries := d.queries.modify k put }))
    | some v =>
      if !before.isEmpty || !s.storesDone q.hart q.pos then none
      else
        let s := s.onDev (fun d => { d with queries := dropAt d.queries k })
        some ((s.perform true q.hart none q.pa (bytesOf 8 v.toNat)).fill (lineOf q.pa))

/-! ## Gangs (R242) -/

/-- Keep account of every queue's eligibility. -/
def State.trackAll (s : State) : State := s.queues.foldl (fun (s : State) (p : Nat × Queue) => s.track p.1) s

/-- Arm or disarm a gang; none where no entry is free. -/
def State.gangarm (s : State) (c g : Nat) (tick : Word) : Option State :=
  let rest := s.dev.gangs.filter (fun (e : Nat × Nat × Word) => !(e.1 = c && e.2.1 = g))
  if tick = 0 then some (s.onDev (fun d => { d with gangs := rest })).trackAll
  else if 16 ≤ rest.length then none
  else some (s.onDev (fun d => { d with gangs := rest ++ [(c, g, tick)] })).trackAll

/-- The tick of an armed gang. -/
def State.gangTick (s : State) (c g : Nat) : Option Word :=
  if g = 0 then none else (s.dev.gangs.find? (fun (e : Nat × Nat × Word) => e.1 = c && e.2.1 = g)).map (fun e => e.2.2)

/-! ## Dispatch (R243 to R247) -/

/-- Whether a strand is free (R244): it runs no task, and none of its channels has a transfer in flight (R22). -/
def State.free (s : State) (h : Nat) : Bool :=
  (s.hart h).task.isNone && (s.hart h).stg.chans.all (fun (p : Nat × Chan) => p.2.xfers.isEmpty)

/-- The free strands of a cluster, by place. -/
def State.freeStrands (s : State) (cl : Nat) : List Nat := ((List.range 16).map (strandAt cl)).filter s.free

/-- Whether a queue's scope includes a cluster (R243). -/
def State.inScope (s : State) (cl q : Nat) : Bool :=
  match fld (s.queue q).qctl 8 2 with
  | 0 => true
  | 1 => decide (q / 256 = cl / 32)
  | 2 => decide (clusterOf (queueHome q) = cl)
  | _ => false

/-- The valid queues a dispatcher considers, in ascending number. -/
def State.considered (s : State) (cl : Nat) : List Nat :=
  ((s.queues.map Prod.fst).filter (fun q => s.inScope cl q && s.eligible q))

/-- A queue's level (R243, R245): the larger of its priority and its window's highest block priority, raised by age. -/
def State.level (s : State) (h0 q : Nat) : Nat :=
  let x := s.queue q
  let ps := (List.range (min 64 x.recs.length)).map (fun i =>
    match x.recs[i]? with
    | some r => if r.launch && !x.bound then
        (match s.readBlock h0 x.ctx (fld (s.record q i) 64 64) with | some b => b.prio | none => 0) else 0
    | none => 0)
  min 7 ((ps.foldl max (fld x.qctl 5 3)) + x.aged)

/-- The number of the record that stands for a queue's candidate: the candidate itself, or the oldest of a bound queue. -/
def State.candId (s : State) (q : Nat) : Option Nat :=
  let x := s.queue q
  if x.bound then x.recs.head?.map Record.serial
  else ((s.candidate q).bind (fun i => x.recs[i]?)).map Record.serial

/-- Where the record of a reserved candidate stands now, where it can still be launched (R245). -/
def State.placeOfId (s : State) (q id : Nat) : Option Nat :=
  let x := s.queue q
  (x.recs.take 64).findIdx? (fun r => decide (r.serial = id) && (x.bound || (r.launch && s.gangArmed x.ctx r.gang)))

/-- What a queue would launch, of its reserved candidate or else of its candidate: the block's address, the gang, and the
records it takes. -/
def State.offer (s : State) (q : Nat) (id : Option Nat) : Option (Nat × Nat × List Nat) :=
  let x := s.queue q
  if x.bound then
    let n := min x.batch x.recs.length
    let ks := (sortBy (fun (p : Record × Nat) => p.1.key) (x.recs.take 256).zipIdx).take n
    some (x.qcons.toNat, 0, ks.map Prod.snd)
  else (match id with | some k => s.placeOfId q k | none => s.candidate q).map (fun i => let d := s.record q i; (fld d 64 64, fld d 128 32, [i]))

/-- The free stack slots of a context, lowest first; none where it has no pool (R327). -/
def Context.freeSlots (c : Context) : Option (List Nat) :=
  if fld c.stks 4 28 = 0 then none
  else some ((List.range (fld c.stks 32 12 + 1)).filter (fun k => !c.slots.contains k))

/-- Whether a queue's candidate fits: strands and stack slots for its T tasks. A bad block fits anywhere: it launches
nothing. -/
def State.fits (s : State) (cl q : Nat) (id : Option Nat) : Bool :=
  let fs := s.freeStrands cl
  match s.offer q id with
  | none => false
  | some (va, _, _) =>
    match s.readBlock (fs.headD 0) (s.queue q).ctx va with
    | none => !fs.isEmpty
    | some b => decide (b.tasks ≤ fs.length) &&
        (match (s.ctx (s.queue q).ctx).freeSlots with | none => true | some l => decide (b.tasks ≤ l.length))

/-- A hart at the start of a task (R21, R247, Table 1-8). The floating-point CSR starts at 0 (log 2). Its satp stays as Pilot
left it there: the model's choice, since R23 has tasks of one context share one table and no rule says what puts its root into
the strand's satp (log 70). -/
def Hart.taskStart (t : Hart) (k : Task) (pc a0 a1 sp upvec : Word) (wait : Wait) : Hart :=
  { t.freed with
    on := true, task := some k, mode := .u, pc := pc, f := [], fflags := 0, frm := 0, wait := wait
    x := ((((Tab.put 0 [] 2 sp).put 0 10 a0).put 0 11 a1).put 0 12 k.coord)
    csr := { t.csr with upvec := upvec, upepc := 0, upcause := 0, upstat := 0 } }

/-- Start task i of a group of a block on strand h. -/
def State.startMember (s : State) (h c : Nat) (b : Block) (va gang serial i : Nat) (slot : Option Nat) (wait : Wait) :
    State :=
  let x := s.ctx c
  let sp := match slot with
    | some k => word (16 * fld x.stkb 4 53 + (k + 1) * 16 * fld x.stks 4 28)
    | none => 0
  let coord := word (i + i / b.perStage * 16 + serial % 2 ^ 24 * 2 ^ 8 + gang * 2 ^ 32)
  let k : Task := { ctx := c, cls := b.cls, prio := b.prio, slot := slot, coord := coord }
  let s := s.onCtx c (fun x => { x with slots := x.slots ++ slot.toList })
  s.onHart h (fun t => t.taskStart k (word (fld b 0 64)) (word (fld b 64 64)) (word (va + 40)) sp x.upvec wait)

/-- Write a batch into the scratch of a core: the header, then the records (R246). -/
def State.writeBatch (s : State) (core q off : Nat) (ds : List (BitVec 512)) : State :=
  let base := scratchBase core + off
  let s := s.perform true mgmtBase none base (bytesOf 64 (ds.length + q * 2 ^ 32))
  (ds.zipIdx).foldl (fun (s : State) (d, i) => s.perform true mgmtBase none (base + 64 * (i + 1)) (recBytes d)) s

/-- A dispatcher serves a candidate of a queue: the queue's age ends, and wherever the candidate was passed over or held
the reservation (R245). -/
def State.serve (s : State) (cl q lvl : Nat) (id : Option Nat) : State :=
  let over_ := fun (r : Nat × Nat) => decide (r.1 = q) && decide (some r.2 = id)
  let s := { s with clusters := s.clusters.map (fun (p : Nat × Cluster) =>
    (p.1, { p.2 with reserved := p.2.reserved.filter (fun r => !over_ r) })) }
  let s := s.onCluster cl (fun c => { c with served := c.served.ins lvl q })
  (s.onQueue q (fun x =>
    { x with eligible := none, aged := 0, passed := x.passed.filter (fun p => decide (some p.2.1 ≠ id)) })).track q

/-- Launch a queue's candidate, or the reserved one named, in a cluster (R246, R247). The tick of its gang is that armed as the
group is placed; a gangarm that replaces it later moves no member already placed: the model's choice (log 41). A bad block launches nothing and is
recorded; so is a batch that would pass the end of scratch. The candidate leaves its queue in every case (log 41). -/
def State.launch (s : State) (cl q lvl : Nat) (id : Option Nat) : State :=
  match s.offer q id with
  | none => s
  | some (va, gang, is) =>
    let c := (s.queue q).ctx
    let fs := s.freeStrands cl
    let h0 := fs.headD 0
    let off := 64 * fld (s.queue q).qbat 6 14
    let bound := (s.queue q).bound
    let ds := is.map (s.record q)
    let blk := s.readBlock h0 c va
    let sid := id.orElse (fun _ => s.candId q)
    let s := (sortBy (fun (i : Nat) => 65536 - i) is).foldl (fun (s : State) i => s.takeRecord q i) s
    let s := s.serve cl q lvl sid
    if bound && decide (0xC0000 < off + 64 * (is.length + 1)) then
      s.fqPost c (FqEntry.mk3 7 (0x018000020000 + 64 * q) none)
    else match blk with
    | none => s.fqPost c (FqEntry.mk3 4 va none)
    | some b =>
      let s := if bound then s.writeBatch (coreOf h0) q off ds else s
      let serial := (s.ctx c).groupSerial
      let slots := (s.ctx c).freeSlots
      let (wait, s) := match s.gangTick c gang with
        | some t =>
          if s.dev.chron < t.toNat then (Wait.gang t, s)
          else if t.toNat < s.dev.chron then (Wait.none, s.count 3 1)
          else (Wait.none, s)
        | none => (Wait.none, s)
      let s := s.onCtx c (fun x => { x with groupSerial := x.groupSerial + 1 })
      (List.range b.tasks).foldl (fun (s : State) i =>
        s.startMember (fs.getD i 0) c b va gang serial i (slots.bind (fun l => l[i]?)) wait) s

/-- The queues of a level in the order a dispatcher tries them: ascending, after the one last served there (log 56). -/
def State.rotation (s : State) (cl lvl : Nat) (qs : List Nat) : List Nat :=
  match (s.cluster cl).served.find lvl with
  | none => qs
  | some l => qs.filter (fun q => l < q) ++ qs.filter (fun q => q ≤ l)

/-- A candidate that does not fit in a cluster is passed over there from now on (R245). -/
def State.passOver (s : State) (cl q : Nat) : State :=
  match s.candId q with
  | none => s
  | some id =>
    if ((s.queue q).passed.find cl).map Prod.fst = some id then s
    else s.onQueue q (fun x => { x with passed := x.passed.ins cl (id, s.dev.cy) })

/-- The candidate that holds a cluster's reservation, while it can be launched (R245). -/
def State.reservation (s : State) (cl : Nat) : Option (Nat × Nat) :=
  (s.cluster cl).reserved.filter (fun r => s.inScope cl r.1 && s.eligible r.1 && (s.placeOfId r.1 r.2).isSome)

/-- The dispatcher of a cluster chooses (R244, R245): the reserved candidate first and alone, else by level and rotation.
None where nothing changes. -/
def State.dispatch (s : State) (cl : Nat) : Option State :=
  let fs := s.freeStrands cl
  if fs.isEmpty || !(s.cluster cl).coreIsland.backed || !s.dieUp (cl / 32) then none
  else
    let h0 := fs.headD 0
    let qs := s.considered cl
    match s.reservation cl with
    | some (q, id) => if s.fits cl q (some id) then some (s.launch cl q (s.level h0 q) (some id)) else none
    | none =>
      let order := (List.range 8).flatMap (fun i =>
        let lvl := 7 - i
        (s.rotation cl lvl (qs.filter (fun q => s.level h0 q = lvl))).map (fun q => (lvl, q)))
      let missed := (order.takeWhile (fun p => !s.fits cl p.2 none)).map Prod.snd
      let s' := missed.foldl (fun (s : State) q => s.passOver cl q) s
      match order.find? (fun p => s.fits cl p.2 none) with
      | some (lvl, q) => some (s'.launch cl q lvl none)
      | none =>
        if missed.all (fun q => decide (((s.queue q).passed.find cl).map Prod.fst = s.candId q)) then none else some s'

/-- A queue eligible for 65,536 cy without being served counts one level higher (R245). -/
def State.age (s : State) (q : Nat) : Option State :=
  match (s.queue q).eligible with
  | some t =>
    if s.eligible q && decide (t + 65536 ≤ s.dev.cy) && decide ((s.queue q).aged < 7) then
      some (s.onQueue q (fun x => { x with aged := x.aged + 1, eligible := some s.dev.cy }))
    else none
  | none => none

/-- A candidate passed over for 65,536 cy reserves the cluster (R245). -/
def State.reserve (s : State) (cl q : Nat) : Option State :=
  match (s.queue q).passed.find cl with
  | some (id, t) =>
    if s.eligible q && s.inScope cl q && decide (s.candId q = some id) && decide (t + 65536 ≤ s.dev.cy) &&
        (s.reservation cl).isNone then
      some (s.onCluster cl (fun c => { c with reserved := some (q, id) }))
    else none
  | none => none

/-- A bound queue becomes eligible by the wait of its oldest record (R243). -/
def State.batchWait (s : State) (q : Nat) : Option State :=
  let x := s.queue q
  if x.bound && x.eligible.isNone && s.eligible q then some (s.track q) else none

/-! ## Ordered commit (R249 to R256) -/

/-- The home core of a tile (R249). -/
def tileHome (t : Nat) : Nat := t % 4 * 128 + t / 4 * 37 % 128

/-- The tile and draw that a ticket or tile word names (Table 10-7). -/
def tileOf (w : Word) : Nat × Nat := (fld w 40 16, fld w 24 16)

/-- Whether a tile's home answers: its die is up and its scratchpad backed (R248, R324). -/
def State.tileUp (s : State) (t : Nat) : Bool := decide (s.backing (scratchBase (tileHome t)) = .ok)

/-- The state of a tile at its home. -/
def State.tile (s : State) (t : Nat) : Option Tile := (s.core (tileHome t)).tiles.find? (fun x => x.tile = t)

/-- Change a tile's state. -/
def State.onTile (s : State) (t : Nat) (f : Tile → Tile) : State :=
  s.onCore (tileHome t) (fun c => { c with tiles := c.tiles.map (fun x => if x.tile = t then f x else x) })

/-- What came of a post to a tile commit unit. -/
inductive UnitRes where
  | exc (cause : Nat)
  | offline
  | refused
  | ok (s : State)

/-- Whether the words of a tcfg are legal (R251). -/
def tcfgOk (a b : Word) : Bool :=
  decide (fld a 0 24 = 0) && decide (fld a 56 8 = 0) && decide (fld b 60 4 = 0) && decide (fld b 6 2 = 0) &&
    decide (fld b 0 3 < 4) && decide (fld b 3 2 ≠ 3) && decide (fld b 8 12 < 3072)

/-- The draw of a configuration word (Table 10-8). -/
def drawOf (ctx serial : Nat) (b : Word) : Draw :=
  { ctx := ctx, serial := serial, np := fld b 20 24, pi := fld b 44 16, cls := fld b 3 2, blend := fld b 0 3,
    full := bit b 5, off := fld b 8 12, seen := [], applied := 0, appliedList := [] }

/-- tcfg at the unit (R251). -/
def State.tcfg (s : State) (h : Nat) (a b : Word) : UnitRes :=
  let (t, serial) := tileOf a
  let d := drawOf ((s.ctxOf h).getD 16) serial b
  let next := match s.tile t with
    | some x => decide (serial ≠ (((x.draws.getLast?).map Draw.serial).getD 0 + 1) % 65536)
    | none => decide (32 ≤ (s.core (tileHome t)).tiles.length)
  if !s.tileUp t then .offline
  else if d.np = 0 ∨ (d.cls = 1 ∧ d.pi = 0) ∨ (d.cls ≠ 1 ∧ d.pi ≠ 0) ∨ next = true then .exc 31
  else match s.tile t with
  | none => .ok (s.onCore (tileHome t) (fun c => { c with tiles := c.tiles ++ [{ tile := t, draws := [d] }] }))
  | some x =>
    if 8 ≤ x.draws.length then .refused
    else .ok (s.onTile t (fun x => { x with draws := x.draws ++ [d] }))

/-- How many of the given ranges of serials lie below n. -/
def countBelow (rs : List (Nat × Nat)) (n : Nat) : Nat :=
  (rs.map (fun r => min n (r.1 + r.2) - min n r.1)).foldl (· + ·) 0

/-- Whether ranges of serials share one with n serials from p. -/
def meetsRange (rs : List (Nat × Nat)) (p n : Nat) : Bool := rs.any (fun r => decide (r.1 < p + n) && decide (p < r.1 + r.2))

/-- How many serials of a run from p the current draw can apply now, one after another (R254); `m_` bounds the run. -/
def Draw.applicable (d : Draw) (p : Nat) : Nat → Nat
  | 0 => 0
  | m_ + 1 =>
    let ok := match d.cls with
      | 0 => decide (d.applied = p)
      | 1 => decide (countBelow d.appliedList (p / d.pi * d.pi) = p / d.pi * d.pi)
      | _ => true
    if ok then
      { d with applied := d.applied + 1, appliedList := d.appliedList ++ [(p, 1)] }.applicable (p + 1) m_ + 1
    else 0

/-- Whether a draw is the current one of its tile. -/
def Tile.current (x : Tile) : Option Draw := x.draws.head?

/-- The serials of a ticket that its unit can apply now. -/
def State.ticketNow (s : State) (k : Ticket) : Nat :=
  match (s.tile k.tile).bind Tile.current with
  | some d => if d.serial = k.draw then d.applicable k.prim k.run else 0
  | none => 0

/-- The tests of R253 on a ticket of the strand's task. -/
def State.ticketOk (s : State) (h : Nat) (k : Ticket) : Bool :=
  match (s.tile k.tile).bind (fun x => x.draws.find? (fun d => d.serial = k.draw)), (s.hart h).task with
  | some d, some t =>
    decide (d.cls = t.cls) && decide (k.prim + k.run ≤ d.np) && (decide (d.cls = 2) || !meetsRange d.seen k.prim k.run)
  | _, _ => false

/-- The ticket of a ticket word. -/
def ticketOf (ctx : Nat) (w : Word) (packet : Option (Word × List Byte)) : Ticket :=
  { tile := fld w 40 16, draw := fld w 24 16, prim := fld w 0 24, run := fld w 56 8 + 1, packet := packet, ctx := ctx }

/-- Where the packet of a tcommit stands (R252), and whether its older writers are done (R195, R263). -/
inductive PacketRes where
  | stop (cause : Nat)
  | absent (z : Stop)
  | wait
  | ok (mask : Word) (colours : List Byte)

/-- Read the packet of a tcommit: 320 bytes of the own scratch window. -/
def State.packet (s : State) (h : Nat) (va : Word) : PacketRes :=
  let t := s.hart h
  let a := va.toNat
  let phys := decide (t.effMode .load = .m) || (decide (t.effMode .load = .s) && !t.csr.sv57)
  if a % 64 ≠ 0 then .stop 4
  else if phys then .stop 5
  else match winOf a, winOf (a + 319) with
  | .scratch off, .scratch _ =>
    (match s.resolve h a 8 .load with
      | .stop z => .absent z
      | .ok _ =>
        let pa := scratchBase (coreOf h) + off
        if t.stores.any (fun x => shareGranule x.pa x.width pa 320) ||
            s.vecTouches h t.pos pa 320 (fun e => decide (e.q = .vsq)) || !s.svOk h t.pos ||
            s.held h t.pos a 320 false then .wait
        else .ok (word (s.mem64 pa 8)) (s.bytes (pa + 64) 256))
  | _, _ => .stop 5

/-- One channel of a blend (Table 10-9): source, destination, source alpha; `alpha` for the A channel itself. -/
def blendChan (blend s_ d as_ : Nat) (alpha : Bool) : Nat :=
  match blend with
  | 0 => s_
  | 1 => if alpha then (255 * s_ + d * (255 - s_) + 127) / 255 else (s_ * as_ + d * (255 - as_) + 127) / 255
  | 2 => min 255 (s_ + d)
  | _ => (s_ * d + 127) / 255

/-- Blend the covered pixels of a packet into a colour buffer, each pixel one store. -/
def State.blend (s : State) (h pa blend : Nat) (mask : Word) (cs : List Byte) : State :=
  (List.range 64).foldl (fun (s : State) i =>
    if !bit mask i then s
    else
      let src := fun j => (cs.getD (4 * i + j) 0).toNat
      let px := (List.range 4).map (fun j =>
        BitVec.ofNat 8 (blendChan blend (src j) (s.byte (pa + 4 * i + j)).toNat (src 3) (decide (j = 3))))
      s.perform true h none (pa + 4 * i) px) s

/-- A draw that has all its serials completes (R254): its buffer lines become full where F = 1, what is left of its
tickets goes, and a tile without draws loses its state. -/
def State.finishDraw (s : State) (t : Nat) : State :=
  match (s.tile t).bind Tile.current with
  | none => s
  | some d =>
    if d.applied < d.np then s
    else
      let home := tileHome t
      let l := lineOf (scratchBase home + 256 * d.off)
      let s := if d.full then s.setLines l 2 true else s
      let s := s.onTile t (fun x => { x with draws := x.draws.tail })
      s.onCore home (fun c =>
        { c with
          tiles := c.tiles.filter (fun x => !x.draws.isEmpty)
          tickets := c.tickets.filter (fun k => !(k.tile = t && k.draw = d.serial)) })

/-- The unit of a core applies as much of its k-th buffered ticket as its class order allows (R254). -/
def State.applyTicket (s : State) (core k : Nat) : Option State :=
  match (s.core core).tickets[k]? with
  | none => none
  | some x =>
    let n := s.ticketNow x
    match n, (s.tile x.tile).bind Tile.current with
    | 0, _ => none
    | _, none => none
    | _, some d =>
      let s := match x.packet with
        | some (m_, cs) => s.blend mgmtBase (scratchBase core + 256 * d.off) d.blend m_ cs
        | none => s
      let more := if d.cls = 1 then [(x.prim, n)] else []
      let put := fun (e : Draw) => { e with applied := e.applied + n, appliedList := e.appliedList ++ more }
      let up := fun (e : Draw) => if e.serial = x.draw then put e else e
      let s := s.onTile x.tile (fun t => { t with draws := t.draws.map up })
      let rest := fun (t : Ticket) => { t with prim := t.prim + n, run := t.run - n }
      let left := fun (l : List Ticket) => if n = x.run then dropAt l k else l.modify k rest
      let s := s.onCore core (fun c => { c with tickets := left c.tickets })
      some (s.finishDraw x.tile)

/-! ## Posts (R251 to R255) -/

/-- The unit of a core applies what it can of its buffered tickets, the earliest arrival first, until none can be applied
(R254). -/
def State.applyAll (s : State) (core : Nat) : Nat → State
  | 0 => s
  | n + 1 =>
    match (List.range (s.core core).tickets.length).findSome? (s.applyTicket core) with
    | some s => State.applyAll s core n
    | none => s

/-- Post a ticket at its unit (R253, R255), which applies what it can on its arrival (R254). -/
def State.postTicket (s : State) (h : Nat) (k : Ticket) : UnitRes :=
  if !s.tileUp k.tile then .offline
  else if !s.ticketOk h k then .exc 31
  else
    let waiting := (s.core (tileHome k.tile)).tickets.filter (fun x => s.ticketNow x < x.run)
    if 64 ≤ waiting.length ∧ s.ticketNow k < k.run then .refused
    else
      let mark := fun (d : Draw) => if d.serial = k.draw ∧ d.cls ≠ 2 then { d with seen := d.seen ++ [(k.prim, k.run)] } else d
      let s := s.onTile k.tile (fun x => { x with draws := x.draws.map mark })
      let s := s.onCore (tileHome k.tile) (fun c => { c with tickets := c.tickets ++ [k] })
      .ok (s.applyAll (tileHome k.tile) (((s.core (tileHome k.tile)).tickets.map Ticket.run).foldl (· + ·) 0))

/-- A post of a strand's tcommit, tskip or tcfg, by its code (Table 10-5): it retires at its acceptance, waits while the
unit refuses, or raises what R251 to R253 name. -/
def State.unitPost (s : State) (h : Nat) (w : BitVec 32) (x1 x2 : Word) : State :=
  let code := fld w 25 7
  let ctx := (s.ctxOf h).getD 16
  let done := fun (tag : Word) (r : UnitRes) =>
    match r with
    | .exc c => s.raise h c tag
    | .offline => (s.offlineNote h tag.toNat 7).raise h 7 tag
    | .refused => s.hold h (.unit w x1 x2 (s.dev.cy + 64))
    | .ok s => s.retire h
  match code with
  | 5 =>
    (match s.packet h x1 with
      | .stop c => s.raise h c x1
      | .absent z => s.scalarStop h x1 false none z
      | .wait => s.onHart h (fun t => { t with wait := .none })
      | .ok m bs => done x2 (s.postTicket h (ticketOf ctx x2 (some (m, bs)))))
  | 6 => done x1 (s.postTicket h (ticketOf ctx x1 none))
  | _ => done x1 (s.tcfg h x1 x2)

/-! ## The instructions of chapter 10 -/

/-- qpush (R235, R236). -/
def execQpush (rd rs1 rs2 : BitVec 5) (s : State) : Out :=
  s.legal (fieldsQpush rd rs1 rs2).toWord (zeroBits (s.rx rs1) 10 54)
    (s.qpush s.cur rs2.toNat rd.toNat (fld (s.rx rs1) 0 10) (s.rx rs2))

/-- qpop (R235, R236). -/
def execQpop (rd rs1 rs2 : BitVec 5) (s : State) : Out :=
  s.legal (fieldsQpop rd rs1 rs2).toWord (zeroBits (s.rx rs1) 10 54)
    (s.qpop s.cur rs2.toNat rd.toNat (fld (s.rx rs1) 0 10) (s.rx rs2))

/-- exit (R237, R238). -/
def execExit (rs1 cnt : BitVec 5) (s : State) : Out :=
  s.own (fieldsExit rs1 cnt).toWord (decide (cnt.toNat ≤ 4)) (s.exit s.cur rs1.toNat cnt.toNat (s.rx rs1))

/-- wdq (R241). -/
def execWdq (rs1 rs2 : BitVec 5) (s : State) : Out :=
  s.own (fieldsWdq rs1 rs2).toWord (zeroBits (s.rx rs1) 6 58)
    (s.wdq s.cur rs2.toNat (fld (s.rx rs1) 0 6) (s.rx rs2))

/-- tcommit (R252 to R255). -/
def execTcommit (rs1 rs2 : BitVec 5) (s : State) : Out :=
  let w := (fieldsTcommit rs1 rs2).toWord
  s.own w (zeroBits (s.rx rs2) 56 8) (s.unitPost s.cur w (s.rx rs1) (s.rx rs2))

/-- tskip (R252 to R255). -/
def execTskip (rs1 : BitVec 5) (s : State) : Out :=
  let w := (fieldsTskip rs1).toWord
  s.own w true (s.unitPost s.cur w (s.rx rs1) 0)

/-- tcfg (R251). -/
def execTcfg (rs1 rs2 : BitVec 5) (s : State) : Out :=
  let w := (fieldsTcfg rs1 rs2).toWord
  s.own w (tcfgOk (s.rx rs1) (s.rx rs2)) (s.unitPost s.cur w (s.rx rs1) (s.rx rs2))

/-- gangarm (R35, R242). -/
def execGangarm (rs1 rs2 : BitVec 5) (s : State) : Out :=
  let x := s.rx rs1
  let w := (fieldsGangarm rs1 rs2).toWord
  s.legal w (s.priv s.cur && zeroBits x 36 28)
    (match s.gangarm (fld x 32 4) (fld x 0 32) (s.rx rs2) with
      | some s => s.retire s.cur
      | none => s.illegal s.cur w)

end Sys2Proof.Machine
end

