-- ==== Sys2Proof/Machine/Sync.lean ====
section
/-!
DEFINITION. Barrier wires (R273 to R280): bwcfg, bwarr, bwtst and wev, the completion of a phase and the time-out.
-/
namespace Sys2Proof.Machine

/-- Whether a configuration word is legal at a core (R274). -/
def bwWordOk (core w : Nat) (v : Word) : Bool :=
  zeroBits v 32 32 && zeroBits v 26 2 &&
  (if !bit v 24 then decide (v = 0)
  else
    let cols : BitVec 16 := BitVec.ofNat 16 (fld v 0 16)
    let rows : BitVec 8 := BitVec.ofNat 8 (fld v 16 8)
    decide (fld v 28 4 < 13) && (wireMembers core w cols rows).contains core &&
      (decide (w ≠ 0) || decide (setBit rows (rowOf core) false = 0)) &&
      (decide (w ≠ 1) || decide (setBit cols (colOf core) false = 0)))

/-- Whether bwcfg may take a wire state: it is nobody's, or the strand's own with no arrival outstanding (R274). -/
def State.wireTakable (s : State) (h w : Nat) : Bool :=
  match s.myWire h w with
  | some x => x.arrival.isNone
  | none => (s.wire (coreOf h) w).part.isNone

/-- The wire state that a configuration word sets (Table 11-6). -/
def Wire.configured (h ctx : Nat) (v : Word) : Wire :=
  { Wire.reset with
    part := some h, ctx := ctx, cols := BitVec.ofNat 16 (fld v 0 16), rows := BitVec.ofNat 8 (fld v 16 8)
    or_ := bit v 25, bound := 2 ^ (12 + fld v 28 4), count := 0, done := true, vote := false }

/-- bwcfg (R274): the state as it stood is released, then configured where E = 1. -/
def State.bwcfg (s : State) (h w : Nat) (v : Word) : State :=
  let s1 := s.releaseWire (coreOf h) w
  if bit v 24 then (s1.setWire (coreOf h) w (Wire.configured h ((s.ctxOf h).getD 16) v)).retire h else s1.retire h

/-- bwarr (R275): done := 0, and the arrival is outstanding. -/
def State.bwarr (s : State) (h w : Nat) (v : Word) : State :=
  let x := s.wire (coreOf h) w
  (s.setWire (coreOf h) w { x with done := false, arrival := some (bit v 0, (s.hart h).pos) }).retire h

/-- The word bwtst writes (R277). -/
def State.bwtst (s : State) (h w : Nat) : Word :=
  match s.myWire h w with
  | none => 1
  | some x => word (x.done.toNat + 2 * x.vote.toNat + x.count % 256 * 2 ^ 8 + 2 ^ 16)

/-- The arrival of core m for a phase that the member x waits in: one x has heard from a configuration since released,
or that of the state m has, where its participant is of the context (R276). -/
def State.voteFor (s : State) (x : Wire) (w phase m : Nat) : Option Bool :=
  match x.heard.find? (fun a => a.1 = m ∧ a.2.1 = phase) with
  | some a => some a.2.2
  | none => if (s.wire m w).ctx = x.ctx then s.arrivalAt m w phase else none

/-- The votes of a member set for a phase, where every member has arrived. -/
def State.votesOf (s : State) (x : Wire) (w phase : Nat) : List Nat → Option (List Bool)
  | [] => some []
  | m :: r => do
    let v ← s.voteFor x w phase m
    let l ← s.votesOf x w phase r
    some (v :: l)

/-- The vote of a phase by a member's own operation (R276). -/
def Wire.combine (x : Wire) (vs : List Bool) : Bool := if x.or_ then vs.any id else vs.all id

/-- A core's outstanding arrival completes (R276). -/
def State.barrierComplete (s : State) (core w : Nat) : Option State :=
  let x := s.wire core w
  match x.arrival, s.arrivalAt core w x.count with
  | some _, some v =>
    (s.votesOf x w x.count (wireMembers core w x.cols x.rows)).map (fun vs =>
      s.setWire core w
        { x with done := true, vote := x.combine vs, count := x.count + 1, arrival := none, votes := x.votes.ins x.count v })
  | _, _ => none

/-- The wires a wev mask selects. -/
def wevWires (mask : Nat) : List Nat := (List.range 3).filter (fun w => mask / 2 ^ (2 * w) % 2 = 1)

/-- Whether every selected wire is done. -/
def State.wevDone (s : State) (h mask : Nat) : Bool := (wevWires mask).all (fun w => bit (s.evword h) (2 * w))

/-- The smallest bound among the selected wires (R279). -/
def State.wevBound (s : State) (h mask : Nat) : Nat :=
  (wevWires mask).foldl (fun b w => min b (match s.myWire h w with | some x => x.bound | none => b)) (2 ^ 24)

/-- wev (R278): it returns at once where the wires are done, else it holds the strand. -/
def State.wev (s : State) (h rd mask : Nat) : State :=
  if s.wevDone h mask then (s.setX h rd (s.evword h)).retire h else s.hold h (.wev rd mask s.dev.cy)

/-- A waiting wev returns (R278). -/
def State.wevReturn (s : State) (h : Nat) : Option State :=
  match (s.hart h).wait with
  | .wev rd mask _ => if s.wevDone h mask then some ((s.setX h rd (s.evword h)).retire h) else none
  | _ => none

/-- A waiting wev reaches its bound (R279). -/
def State.wevTimeout (s : State) (h : Nat) : Option State :=
  match (s.hart h).wait with
  | .wev _ mask since =>
    if !s.wevDone h mask && decide (since + s.wevBound h mask ≤ s.dev.cy) then some (s.raise h 28 (s.evword h)) else none
  | _ => none

/-- bwcfg (R274). -/
def execBwcfg (rs1 : BitVec 5) (wire : BitVec 3) (s : State) : Out :=
  let h := s.cur
  s.own (fieldsBwcfg rs1 wire).toWord
    (decide (wire.toNat < 3) && bwWordOk (coreOf h) wire.toNat (s.rx rs1) && s.wireTakable h wire.toNat)
    (s.bwcfg h wire.toNat (s.rx rs1))

/-- bwarr (R275). -/
def execBwarr (rs1 : BitVec 5) (wire : BitVec 3) (s : State) : Out :=
  let h := s.cur
  s.own (fieldsBwarr rs1 wire).toWord
    (decide (wire.toNat < 3) && zeroBits (s.rx rs1) 1 63 &&
      (match s.myWire h wire.toNat with | some x => x.arrival.isNone | none => false))
    (s.bwarr h wire.toNat (s.rx rs1))

/-- bwtst (R277). -/
def execBwtst (rd : BitVec 5) (wire : BitVec 3) (s : State) : Out :=
  let h := s.cur
  s.own (fieldsBwtst rd wire).toWord (decide (wire.toNat < 3)) ((s.setX h rd.toNat (s.bwtst h wire.toNat)).retire h)

/-- wev (R278). -/
def execWev (rd rs1 : BitVec 5) (s : State) : Out :=
  let h := s.cur
  let m := s.rx rs1
  s.own (fieldsWev rd rs1).toWord
    (decide (m &&& ~~~0x15 = 0) && (wevWires m.toNat).all (fun w => (s.myWire h w).isSome))
    (s.wev h rd.toNat m.toNat)

end Sys2Proof.Machine
end

