-- ==== Sys2Proof/Machine/SysOwn.lean ====
section
/-!
DEFINITION. The own system instructions (chapters 6 and 13): fqpop, vstupd, kill, islctl, vsave and vrestore, and the
events that end them.
-/
namespace Sys2Proof.Machine

/-! ## fqpop (R315) -/

/-- The context an fqpop names: the strand's own, or on a management hart X[xs1][3:0]; 16 for a strand with no task. -/
def State.fqCtx (s : State) (h : Nat) (x : Word) : Nat := if isMgmt h then fld x 0 4 else (s.ctxOf h).getD 16

/-- Where the entry at the head of a context's fault queue stands (R313). -/
def Context.headAt (c : Context) : Nat := c.fqbase.toNat / 4096 * 4096 % 2 ^ 48 + 64 * (c.fqhead % c.fqSize)

/-- One sd of an fqpop, whose checks it has passed. -/
def State.popStore (s : State) (h : Nat) (x : Store) : DevRes :=
  match regionOf x.pa with
  | .reg off => s.devStore h off 8 x.val.toNat
  | .remote _ _ => .ok (s.remoteStore h x.va x.pa 8 x.val.toNat)
  | _ => .ok ((s.writeHomed h x.code x.pa).perform false h (ownCore h) x.pa (bytesOf 8 x.val.toNat))

/-- The checks of the eight accesses of an fqpop in ascending order, or the first that fails. -/
def State.popAt (s : State) (h : Nat) (va : Word) : Except (Stop × Word) (List Hit) :=
  (List.range 8).foldl (fun r i =>
    match r with
    | .error e => .error e
    | .ok l =>
      let v := va + word (8 * i)
      match s.access h v 8 .store with
      | .stop z => .error (z, v)
      | .ok x => .ok (l ++ [x])) (.ok [])

/-- The entry of context c has been written: the head goes on, and the result is 0. -/
def State.popDone (s : State) (h c rd : Nat) : State :=
  let s := s.onCtx c (fun q =>
    { q with fqhead := q.fqhead + 1, undelivered := q.undelivered && decide (q.fqhead + 1 < q.fqtail) })
  (s.setX h rd 0).retire h

/-- The stores of an fqpop in ascending order. A device register's store can fault, which leaves the head as it is, wait for a
change under way, or start one, which the strand waits for before it goes on (log 27). -/
def State.popFrom (h c rd : Nat) : List Store → State → State
  | [], s => s.popDone h c rd
  | x :: r, s =>
    match s.popStore h x with
    | .fault => s.raise h 7 (word x.va)
    | .wait => s.hold h (.fqpop c rd (x :: r))
    | .ok s => State.popFrom h c rd r s
    | .held s => s.hold h (.fqpop c rd r)

/-- Whether a change that a store of a device register waits for is under way: of the home table, a shootdown, an apply, or a
context that becomes resident (R120, R135, R327, R330). -/
def State.changing (s : State) : Bool :=
  s.dev.homeChange.isSome || s.dev.shoot.isSome || s.dev.qpBusy.isSome || s.ctxs.any (fun (p : Nat × Context) => p.2.entering)

/-- An fqpop goes on with its stores once no change is under way. -/
def State.fqpopOn (s : State) (h : Nat) : Option State :=
  match (s.hart h).wait with
  | .fqpop c rd l => if s.changing then none else some (State.popFrom h c rd l s)
  | _ => none

/-- The stores that an fqpop makes of the entry at a, to the places found. -/
def State.popStores (s : State) (h va a : Nat) (xs : List Hit) : List Store :=
  (xs.zipIdx).map (fun (x, j) =>
    { pos := (s.hart h).pos, va := va + 8 * j, pa := x.pa, width := 8, val := word (s.mem64 (a + 8 * j) 8), fe := false, code := x.homed })

/-- fqpop (R315). -/
def State.fqpop (s : State) (h base rd : Nat) (x : Word) : State :=
  let c := s.fqCtx h x
  let q := s.ctx c
  let va := setFld x 0 6 0
  if !bit q.fqctl 30 then (s.setX h rd 2).retire h
  else if q.fqtail ≤ q.fqhead then (s.setX h rd 1).retire h
  else match s.popAt h va with
  | .error (z, v) => s.scalarStop h v true (some base) z
  | .ok xs =>
    if xs.any (fun x => (s.hart h).storing x.pa 8 || (s.hart h).loading x.pa 8) ||
        s.held h (s.hart h).pos va.toNat 64 true then s
    else State.popFrom h c rd (s.popStores h va.toNat q.headAt xs) (xs.foldl (fun (s : State) x => s.setAD x) s)

/-- fqpop (R315). -/
def execFqpop (rd rs1 : BitVec 5) (s : State) : Out :=
  let x := s.rx rs1
  s.legal (fieldsFqpop rd rs1).toWord (if isMgmt s.cur then zeroBits x 4 2 else zeroBits x 0 6)
    (s.fqpop s.cur rs1.toNat rd.toNat x)

/-! ## vstupd (R138, R139) -/

/-- The place of a VST entry in the replica of die d. -/
def vstKey (d c g : Nat) : Nat := (d * 16 + c) * 524288 + g

/-- The die whose replica an issuing hart reads: its own, or where that is in warm reset the first that is not, so that the
entry is one that accesses still use (R139). -/
def State.vstDie (s : State) (h : Nat) : Nat :=
  let d := dieOfCore (vstCore h)
  if !s.dev.offline.get false d then d else ((List.range 4).find? (fun k => !s.dev.offline.get false k)).getD d

/-- The frame an entry names: one more than its physical base; 0 for an absent entry (R136). -/
def vstFrame (e : BitVec 32) : Nat := if bit e 18 then fld e 0 18 * 0x200000 + 1 else 0

/-- vstupd writes the replicas and drops the span buffers' entries. A replica of a die in warm reset is written at its
re-admission. -/
def State.vstWrite (s : State) (c g : Nat) (v : BitVec 32) : State :=
  let ds := List.range 4
  let s := s.onDev (fun d =>
    { d with
      vst := (ds.filter (fun k => !d.offline.get false k)).foldl (fun (t : Tab (BitVec 32)) k => t.put 0 (vstKey k c g) v) d.vst
      vstLate := d.vstLate ++ (ds.filter (fun k => d.offline.get false k)).map (fun k => (k, c * 524288 + g, v)) })
  { s with cores := s.cores.map (fun (p : Nat × Core) =>
      (p.1, { p.2 with span := p.2.span.filter (fun e => !(e.1 = c && e.2.1 = g)) })) }

/-- A waiting vstupd retires (R139). -/
def State.vstupdDone (s : State) (h : Nat) : Option State :=
  match (s.hart h).wait with
  | .vstupd _ f => if f ≠ 0 ∧ s.rangeBusy (f - 1) 0x200000 = true then none else some (s.retire h)
  | _ => none

/-- vstupd (R138, R139). -/
def execVstupd (rs1 rs2 : BitVec 5) (s : State) : Out :=
  let h := s.cur
  let x := s.rx rs1
  let v := s.rx rs2
  let c := fld x 32 4
  let g := fld x 0 19
  s.legal (fieldsVstupd rs1 rs2).toWord
    (s.priv h && zeroBits x 19 13 && zeroBits x 36 28 && zeroBits v 32 32 && zeroBits v 28 4 && s.resident c)
    ((s.vstWrite c g (v.setWidth 32)).hold h (.vstupd c (vstFrame (s.vstEntry (128 * s.vstDie h) c g))))

/-! ## kill (R322, R323) -/

/-- Whether hart h runs a task of context c. -/
def State.runs (s : State) (h c : Nat) : Bool := decide (s.ctxOf h = some c)

/-- Whether nothing of a context being killed is still to perform: its retired stores have drained and its accepted array
commands are complete (R323, steps 1 to 4). -/
def State.killQuiet (s : State) (c : Nat) : Bool :=
  s.harts.all (fun (p : Nat × Hart) => decide ((p.2.task.map Task.ctx) ≠ some c) ||
    (p.2.stores.isEmpty && (s.acmds p.1).isEmpty))

/-- Queue pair q is moved to the error state (Table 13-14). -/
def State.qpError (s : State) (q : Nat) : State :=
  s.onDev (fun d => { d with qps := d.qps.ins q (((d.qps.get [] q).modify 0 (fun w => setFld w 1 2 2))) })

/-- The remote accesses that tasks of a killed context made: unacknowledged writes put their queue pairs into the error state,
and none is waited for (R323, step 4). -/
def State.killRemotes (s : State) (c : Nat) : State :=
  let mine := fun (r : Remote) => decide (r.ctx = some c)
  let rs := s.harts.flatMap (fun (p : Nat × Hart) => p.2.remotes.filter mine)
  let s := (rs.filter (fun r => r.load.isNone)).foldl (fun (s : State) r => s.qpError r.qp) s
  { s with harts := s.harts.map (fun (p : Nat × Hart) => (p.1, { p.2 with remotes := p.2.remotes.filter (fun r => !mine r) })) }

/-- What a killed context leaves at one strand: the lease is released, and the strand returns in task-start state (R323, steps 5
and 6). A pre-emption request stays (Table 13-4). -/
def State.killHart (s : State) (h : Nat) : State := (s.release h).onHart h (fun t => { t.freed with loads := [] })

/-- The endpoints of context c at hart h are closed. -/
def State.killEps (s : State) (h c : Nat) : State :=
  (List.range 4).foldl (fun (s : State) e => match s.endpoint h e with
    | some x => if x.ctx = c then s.closeEp h e else s
    | none => s) s

/-- A core without the wire states and tile commit state of context c. -/
def Core.killed (k : Core) (c : Nat) : Core :=
  let cut := fun (t : Tile) => { t with draws := t.draws.filter (fun d => d.ctx != c) }
  { k with
    wires := k.wires.map (fun (p : Nat × Wire) => if p.2.part.isSome && decide (p.2.ctx = c) then (p.1, Wire.reset) else p)
    tiles := (k.tiles.map cut).filter (fun t => !t.draws.isEmpty)
    tickets := k.tickets.filter (fun t => t.ctx != c)
    lowered := k.lowered.filter (fun l => l.1 != c) }

/-- The save areas of a context's parked tasks are freed. -/
def State.killParked (s : State) (c : Nat) : State :=
  let s := s.parked.foldl (fun (s : State) p =>
    match p.area with
    | some (cl, k) => if p.held && decide (p.task.ctx = c) then
        (s.onCluster cl (fun x => { x with areas := x.areas.del k })).leaseSettle cl else s
    | none => s) s
  { s with parked := s.parked.filter (fun p => p.task.ctx != c) }

/-- Every kill that waits for context c retires. -/
def State.killRetire (s : State) (c : Nat) : State :=
  s.harts.foldl (fun (s : State) (p : Nat × Hart) => if p.2.wait = .kill c then s.retire p.1 else s) s

/-- A kill completes (R323). -/
def State.killComplete (s : State) (c : Nat) : Option State :=
  if !(s.ctx c).killing || !s.killQuiet c then none
  else
    let hs := (s.harts.map Prod.fst).filter (fun h => s.runs h c)
    let s := (s.harts.map Prod.fst).foldl (fun (s : State) h => s.killEps h c) (s.killRemotes c)
    let s := hs.foldl (fun (s : State) h => s.killHart h) s
    let s := { s with
      clusters := s.clusters.map (fun (p : Nat × Cluster) =>
        (p.1, { p.2 with rings := p.2.rings.filter (fun r => r.group.1 != c) }))
      cores := s.cores.map (fun (p : Nat × Core) => (p.1, p.2.killed c)) }
    let s := ((s.killParked c).discardQueues c).onCtx c (fun x => { x with killing := false, killed := true, slots := [] })
    some ((s.fqPost c (FqEntry.mk3 9 0 none)).killRetire c)

/-- kill (R322). -/
def execKill (rs1 : BitVec 5) (s : State) : Out :=
  let h := s.cur
  let x := s.rx rs1
  let c := fld x 0 4
  s.legal (fieldsKill rs1).toWord (s.priv h && zeroBits x 4 60 && !s.runs h c)
    (if !s.resident c then s.retire h
    else if (s.ctx c).killing then s.hold h (.kill c)
    else (s.beginKill c).hold h (.kill c))

/-! ## islctl (R324) -/

/-- One of a cluster's islands. -/
def Cluster.island (c : Cluster) (array : Bool) : Island := if array then c.arrayIsland else c.coreIsland

/-- Change one of a cluster's islands. -/
def State.onIsland (s : State) (cl : Nat) (array : Bool) (f : Island → Island) : State :=
  s.onCluster cl (fun c => if array then { c with arrayIsland := f c.arrayIsland } else { c with coreIsland := f c.coreIsland })

/-- The cores of a cluster. -/
def coresOf (cl : Nat) : List Nat := (List.range 4).map (coreAt cl)

/-- Whether an off is refused: a strand of the cluster runs a task or is held by a gang; the array is bound. -/
def State.islandBusy (s : State) (cl : Nat) (array : Bool) : Bool :=
  if array then bit (s.cluster cl).arrbind 4
  else (List.range 16).any (fun i => (s.hart (strandAt cl i)).task.isSome)

/-- The tile state and buffered tickets of a cluster's cores go. -/
def State.dropTiles (s : State) (cl : Nat) : State :=
  (coresOf cl).foldl (fun (s : State) c => s.onCore c (fun k => { k with tiles := [], tickets := [] })) s

/-- An island's change begins. -/
def State.islandStart (s : State) (cl : Nat) (array : Bool) (op code : Nat) : State :=
  let s := s.onIsland cl array (fun i => { i.settled s.dev.cy with change := some (op, code) })
  if op = 2 ∧ array = false then s.dropTiles cl else s

/-- islctl on an island: the state and the result (log 38). -/
def State.islctl (s : State) (cl : Nat) (array : Bool) (op f : Nat) : State × Nat :=
  let i := (s.cluster cl).island array
  if op = 0 then (s, 0)
  else if i.change.isSome then (s, 1)
  else match op with
  | 1 => if 72 < f then (s, 3) else if f = i.code then (s, 0) else (s.islandStart cl array 1 f, 0)
  | 2 => if !i.on then (s, 0) else if s.islandBusy cl array then (s, 2) else (s.islandStart cl array 2 0, 0)
  | _ => if i.on then (s, 0) else (s.islandStart cl array 3 0, 0)

/-- The word islctl writes. -/
def Island.word (i : Island) (r : Nat) : Word :=
  BitVec.ofNat 64 (r + i.code * 2 ^ 8 + i.on.toNat * 2 ^ 16 + i.change.isSome.toNat * 2 ^ 17)

/-- islctl (R324). -/
def execIslctl (rd rs1 rs2 : BitVec 5) (s : State) : Out :=
  let x := s.rx rs1
  let v := s.rx rs2
  let cl := fld x 0 7
  let a := bit x 7
  let r := s.islctl cl a (fld v 0 2) (fld v 8 8)
  s.legal (fieldsIslctl rd rs1 rs2).toWord (s.priv s.cur && zeroBits x 8 56 && zeroBits v 2 6 && zeroBits v 16 48)
    (r.1.putX s.cur rd (((r.1.cluster cl).island a).word r.2))

/-- A clock change is done. -/
def State.islandClockDone (s : State) (cl : Nat) (array : Bool) : Option State :=
  match ((s.cluster cl).island array).change with
  | some (1, f) => some (s.onIsland cl array (fun i => { i.settled s.dev.cy with code := f, change := none }))
  | _ => none

/-- The scratchpads of a cluster read as zero with every line empty. -/
def State.clearScratch (s : State) (cl : Nat) : State :=
  (coresOf cl).foldl (fun (s : State) c =>
    let b := scratchBase c
    let s := s.clearRange b 0x100000
    { s with fe := s.fe.filter (fun (p : Nat × Bool) => !(decide (lineOf b ≤ p.1) && decide (p.1 < lineOf b + 0x2000))) }) s

/-- A core island loses its contents: caches, scratchpads, vector state. -/
def State.loseCores (s : State) (cl : Nat) : State :=
  let s := (coresOf cl).foldl (fun (s : State) c => s.onCore c (fun k => { k with l1 := [], l1used := [], icache := [] })) s
  let s := (List.range 16).foldl (fun (s : State) i => s.onHart (strandAt cl i) (fun t =>
    { t with fetchBuf := [], vec := Vec.start t.vec.vgrant })) s
  s.clearScratch cl

/-- An array island loses its contents: the weight buffer and the tiles. -/
def State.loseArray (s : State) (cl : Nat) : State := s.onCluster cl (fun c => { c with weights := [], tiles := [], live := 0 })

/-- An island goes off, whether by islctl or by a trip. -/
def State.islandGone (s : State) (cl : Nat) (array : Bool) : State :=
  let s := s.onIsland cl array (fun i => { i.settled s.dev.cy with on := false, change := none })
  if array then s.loseArray cl else (s.dropTiles cl).loseCores cl

/-- An off is done. -/
def State.islandOffDone (s : State) (cl : Nat) (array : Bool) : Option State :=
  match ((s.cluster cl).island array).change with
  | some (2, _) => some (s.islandGone cl array)
  | _ => none

/-- An on is done: a core island leaves reset with its cycle count at 0 (R62), its scratchpads 0 and empty. -/
def State.islandOnDone (s : State) (cl : Nat) (array : Bool) : Option State :=
  match ((s.cluster cl).island array).change with
  | some (3, _) =>
    let s := s.onIsland cl array (fun i => { i with on := true, change := none, cyc := (0, s.dev.cy) })
    some (if array then s.loseArray cl else s.clearScratch cl)
  | _ => none

/-! ## The vector state image (R316, Table 13-8) -/

/-- The physical places of the image's 1,280 pieces of 64 bytes, each checked by halves of 32, or the first that fails. -/
def State.imageAt (s : State) (h : Nat) (va : Word) (a : Acc') : Nat → Nat → List Hit → Except (Stop × Word) (List Hit)
  | 0, _, l => .ok l.reverse
  | n + 1, i, l =>
    let v := va + word (64 * i)
    match s.access h v 32 a, s.access h (v + 32) 32 a with
    | .stop z, _ => .error (z, v)
    | .ok _, .stop z => .error (z, v + 32)
    | .ok x, .ok _ => s.imageAt h va a n (i + 1) (x :: l)

/-- The image's pieces. -/
def State.image (s : State) (h : Nat) (va : Word) (a : Acc') : Except (Stop × Word) (List Hit) := s.imageAt h va a 1280 0 []

/-- The places in program order of the instructions that a strand holds records of, array records with `arr` (R165, R195). -/
def Hart.recorded (t : Hart) (arr : Bool) : List Nat :=
  t.vec.resume.map Resume.pos ++ (if arr then t.arr.resume.map ACmd.pos else [])

/-- How many of these come before a place: the order that an image keeps (log 8). -/
def rankIn (l : List Nat) (p : Nat) : Nat := (l.filter (fun q => decide (q < p))).length

/-- A resume record, with its rank in program order (log 8). -/
def Resume.bytes (k : Nat) (r : Resume) : List Byte :=
  bytesOf 4 r.word.toNat ++ bytesOf 8 r.x1.toNat ++ bytesOf 8 r.x2.toNat ++ bytesOf 4 r.fv.toNat ++
    bytesOf 8 (r.vl % 2 ^ 14 + r.ty.toNat * 2 ^ 14 + r.frm.toNat * 2 ^ 18 + r.ncode % 4 * 2 ^ 21 + r.index % 2 ^ 14 * 2 ^ 23 +
      k % 64 * 2 ^ 37)

/-- An array resume record, with its rank in program order (log 8). -/
def ACmd.bytes (k : Nat) (a : ACmd) : List Byte :=
  bytesOf 4 a.word.toNat ++ bytesOf 4 0 ++ bytesOf 8 a.x1.toNat ++ bytesOf 8 a.x2.toNat ++ bytesOf 8 (k % 64)

/-- Zero bytes up to a length. -/
def padTo (n : Nat) (l : List Byte) : List Byte := l ++ List.replicate (n - l.length) 0

/-- A leeway configuration word of the image. -/
def Leeway.config (l : Leeway) : Nat := l.c % 512 + l.p % 256 * 2 ^ 16 + l.ns.toNat * 2 ^ 31

/-- Register l of the leeway file. -/
def Vec.leeway (v : Vec) (i : Nat) : Leeway := v.ly.get Leeway.start i

/-- Loop slot i. -/
def Vec.loop (v : Vec) (i : Nat) : LoopSlot := v.loops.get LoopSlot.empty i

/-- A loop slot's 16 bytes: the configuration word and P, 0 while unset (P is never 0 while set, R74). -/
def LoopSlot.bytes (l : LoopSlot) : List Byte := bytesOf 8 l.cfg.toNat ++ bytesOf 8 ((l.prev.map (fun p => p.toNat)).getD 0)

/-- A loop slot's count register and M (log 8). -/
def LoopSlot.rest (l : LoopSlot) : Nat := l.creg.getD 0 % 32 + l.miss % 4 * 32

/-- The set of sequence numbers as bits above a base. -/
def maskOf (base : Nat) (l : List Nat) : Nat := ((List.range 64).map (fun k => if l.contains (base + k) then 2 ^ k else 0)).foldl (· + ·) 0

/-- The sequence numbers that bits above a base name. -/
def ofMask (base n : Nat) : List Nat := ((List.range 64).filter (fun k => n / 2 ^ k % 2 = 1)).map (fun k => base + k)

/-- A ring slot's 32 bytes: binding (set, role, cluster, ring), R, acquisitions, posted releases, stages released (log 8). -/
def State.ringBytes (s : State) (h i : Nat) : List Byte :=
  match (s.hart h).stg.rings.find i with
  | none => List.replicate 32 0
  | some rs =>
    let r := match s.ring (clOf h) rs.ring with | some r => r.r | none => 0
    let rel := ((s.hart h).stg.releases.filter (fun l => l.ring = rs.ring)).map Release.stage
    bytesOf 8 (1 + rs.consumer.toNat * 2 + clOf h % 256 * 2 ^ 8 + rs.ring * 2 ^ 16) ++ bytesOf 8 r ++ bytesOf 8 (maskOf r rs.acq) ++
      bytesOf 4 (maskOf r rel) ++ bytesOf 4 (maskOf r rs.left)

/-- A channel's 128 bytes, with what the loop slot of the same number has beside its 16 bytes (log 8). -/
def Hart.chanBytes (t : Hart) (i : Nat) : List Byte :=
  let c := t.stg.chans.get Chan.start i
  (List.range 7).flatMap (fun j => bytesOf 8 (c.sh.get 0 j).toNat) ++ bytesOf 4 c.nextId.toNat ++
    bytesOf 4 (t.vec.loop i).rest ++ bytesOf 8 c.stat.toNat ++ List.replicate 56 0

/-- The word at 24 (Table 13-8). -/
def Hart.holderWord (t : Hart) (h : Nat) (flag : Bool) : Nat :=
  h * 2 ^ 12 + (if !flag then 0
    else (t.arr.area.getD 0) % 32 + t.arr.area.isSome.toNat * 2 ^ 5 + t.arr.mask % 16 * 2 ^ 6 +
      maskOf 0 ((t.stg.eps.filter (fun (p : Nat × Endpoint) => p.2.parked.isNone)).map Prod.fst) % 16 * 2 ^ 24)

/-- Extent of register j as saved: 0 if clean. -/
def Vec.extent (v : Vec) (j : Nat) : Nat := if (v.reg j).dirty then (v.reg j).ext else 0

/-- The registers of a strand, by number. -/
def Vec.regs (v : Vec) : List Nat := List.range (nregs v.ncode)

/-- The first 256 bytes of the image. -/
def Hart.imageHead (t : Hart) (h : Nat) (flag : Bool) : List Byte :=
  let v := t.vec
  let g := t.stg
  let es := v.regs.map v.extent
  let nums := fun (p : Notice → Bool) => maskOf 0 ((g.notices.filter p).map Notice.tag) % 2 ^ 16
  let held := fun (k : Nat) => match g.notices.find? (fun n => n.tag = k) with | some n => n.granules | none => 0
  bytesOf 8 v.config.toNat ++ bytesOf 4 (v.vl + v.vetype.toNat * 2 ^ 16) ++ bytesOf 4 (256 * es.foldl max 0) ++
    bytesOf 4 (maskOf 0 (v.regs.filter (fun j => (v.reg j).dirty))) ++
    bytesOf 4 (v.resume.length % 64 + (if flag then t.arr.resume.length % 16 * 2 ^ 8 + 2 ^ 12 else 0)) ++
    bytesOf 8 (t.holderWord h flag) ++ (List.range 4).flatMap (fun i => bytesOf 8 (v.leeway i).config) ++
    (if flag then bytesOf 2 (maskOf 0 g.tags) ++ bytesOf 2 (nums (fun _ => true)) ++ bytesOf 2 (nums Notice.starved) ++
      bytesOf 2 (min 65535 g.async.length) ++ bytesOf 8 0 ++ (List.range 16).flatMap (fun k => bytesOf 1 (held k))
    else List.replicate 32 0) ++
    List.replicate 48 0 ++ padTo 32 (es.flatMap (fun e => bytesOf 1 e)) ++ List.replicate 72 0 ++ bytesOf 8 1

/-- What vsave writes: offsets, multiples of 64, with their bytes. -/
def State.imageBytes (s : State) (h : Nat) (flag : Bool) : List (Nat × List Byte) :=
  let t := s.hart h
  let v := t.vec
  let n := nregs v.ncode
  let rank := rankIn (t.recorded flag)
  [(0, t.imageHead h flag),
    (256, padTo 1536 (v.resume.flatMap (fun r => r.bytes (rank r.pos)))),
    (1792, padTo 256 (if flag then (t.arr.resume.take 8).flatMap (fun a => a.bytes (rank a.pos)) else [])),
    (2048, (List.range 4).flatMap (fun i => (List.range 256).flatMap (fun j => bytesOf 4 ((v.leeway i).res.get 0 j).toNat))),
    (6144, (List.range 4).flatMap (fun i => (v.loop i).bytes)),
    (6208, if flag then (List.range 8).flatMap (s.ringBytes h) else List.replicate 256 0),
    (6464, (List.range 4).flatMap t.chanBytes),
    (6976, List.replicate 192 0),
    (7168, (List.range 7).flatMap (fun i => bytesOf 1024 (v.mask (i + 1)).toNat)),
    (14336, padTo 1024 (v.regs.flatMap (fun j => bytesOf 32 (v.reg j).valid.toNat))),
    (15360, padTo 1024 ((v.resume.filter (fun r => !r.scales.isEmpty)).flatMap (fun r =>
      (List.range 16).flatMap (fun i => bytesOf 4 (r.scales.getD i 0).toNat))))] ++
  v.regs.map (fun j => (16384 + j * (65536 / n), (v.reg j).bytes 0 (256 * v.extent j)))

/-- Write one piece of an image: at its home, or in a remote window by eight RDMA WRITEs. -/
def State.putPiece (s : State) (h va : Nat) (x : Hit) (bs : List Byte) : State :=
  if isRemote x.pa then
    (List.range 8).foldl (fun (s : State) j => s.remoteStore h (va + 8 * j) (x.pa + 8 * j) 8 (ofBytes ((bs.drop (8 * j)).take 8))) s
  else ((s.writeHomed h x.homed x.pa).writeHomed h x.homed (x.pa + 32)).perform false h (ownCore h) x.pa bs

/-- Write 64-byte pieces from a place of the image at va on. -/
def State.putPieces (s : State) (h va : Nat) (xs : Array Hit) (i : Nat) (bs : List Byte) : Nat → State
  | 0 => s
  | n + 1 =>
    match bs with
    | [] => s
    | _ => (s.putPiece h (va + 64 * i) (xs.getD i (.phys 0)) (bs.take 64)).putPieces h va xs (i + 1) (bs.drop 64) n

/-- Write parts of the image. -/
def State.putImage (s : State) (h va : Nat) (xs : Array Hit) (l : List (Nat × List Byte)) : State :=
  l.foldl (fun (s : State) p => s.putPieces h va xs (p.1 / 64) p.2 1280) s

/-- A byte of the image as a vrestore of hart h reads it. -/
def State.imageByte (s : State) (h : Nat) (pas : Array Nat) (off : Nat) : Byte :=
  let pa := pas.getD (off / 64) 0 + off % 64
  if isRemote pa then
    ((((s.hart h).imageIn.getD []).get 0 (off / 8) >>> (8 * (off % 8))).setWidth 8)
  else s.byte pa

/-- The number of n bytes at an offset of the image. -/
def State.img (s : State) (h : Nat) (pas : Array Nat) (off n : Nat) : Nat :=
  ofBytes ((List.range n).map (fun i => s.imageByte h pas (off + i)))

/-! ## vsave (R317, R318) -/

/-- The channels with transfers in flight are detached: they stay in the copy engine, and each names its image's cpstat word
and tag word. -/
def Hart.detach (t : Hart) (pas : Array Nat) : List Detached :=
  t.stg.detached ++ (t.stg.chans.filter (fun (p : Nat × Chan) => !p.2.xfers.isEmpty)).map (fun (p : Nat × Chan) =>
    let o := 6464 + 128 * p.1 + 64
    { image := pas.getD (o / 64) 0 + o % 64, head := pas.getD 1 0, num := p.1, chan := p.2 })

/-- The strand after a vsave with T = 1: no task, its vector-side state that of task start; what stays are detached
channels, and open endpoints, which now belong to the image. -/
def Hart.parkedAs (t : Hart) (pas : Array Nat) : Hart :=
  let im := pas.getD 0 0
  let mark := fun (e : Endpoint) => if e.parked.isNone then { e with parked := some im } else e
  { t with
    task := none, preempt := false, vec := Vec.start t.vec.vgrant, arr := ArraySide.start
    stg := { Staging.start with
      detached := t.detach pas, eps := t.stg.eps.map (fun (p : Nat × Endpoint) => (p.1, mark p.2)) } }

/-- A vsave with T = 1 takes the task off the strand. -/
def State.parkTask (s : State) (h : Nat) (pas : Array Nat) : State :=
  let im := pas.getD 0 0
  let t := s.hart h
  let rest := s.parked.filter (fun p => p.image != im)
  let ps := match t.task with
    | some k =>
      [{ image := im, task := k, susp := t.arr.susp, async := t.stg.async, area := t.arr.area.map (fun k => (clOf h, k)),
         ranges := t.arr.resume.map ACmd.range, held := true }]
    | none => []
  let mark := fun (p : Nat × Wire) =>
    if p.2.part = some h ∧ p.2.parked = none then (p.1, { p.2 with parked := some im }) else p
  let s := { s with parked := rest ++ ps }
  let s := s.onCore (coreOf h) (fun c => { c with wires := c.wires.map mark })
  s.onHart h (fun t => t.parkedAs pas)

/-- Whether the array side of a strand has settled for a vsave with T = 1: its accepted commands that had begun are
complete and its tiles are parked. -/
def State.arraySettled (s : State) (h : Nat) : Bool :=
  (s.acmds h).isEmpty && decide ((s.cluster (clOf h)).lease.ending.map Prod.fst ≠ some h)

/-- Whether a strand's queues are empty and its older scalar accesses have performed, as vsave and vrestore need (R317,
R319). -/
def State.imageReady (s : State) (h : Nat) : Bool :=
  let t := s.hart h
  t.vec.queue.isEmpty && s.quiet h true true && t.remotes.isEmpty

/-- A waiting vsave writes its image, once no copy holds what it writes (R217), and retires once that has performed
(R317). -/
def State.vsaveWrite (s : State) (h : Nat) : Option State :=
  match (s.hart h).wait with
  | .vsave a flag =>
    if !s.imageReady h || (flag && !s.arraySettled h) then none
    else match s.image h (word a) .store with
    | .error (z, v) => some (s.scalarStop h v true none z)
    | .ok xs =>
      let bytes := s.imageBytes h flag
      if bytes.any (fun p => s.held h (s.hart h).pos (a + p.1) p.2.length true) then none
      else
        let pas := (xs.map Hit.pa).toArray
        let s := xs.foldl (fun (s : State) x => s.setAD x) s
        let s := s.putImage h a xs.toArray bytes
        let s := s.onVec h (fun v => { v with resume := [], frames := [] })
        let s := if flag then s.parkTask h pas else s
        some (if (s.hart h).remotes.isEmpty then s.retire h else s.hold h .remoteSave)
  | .remoteSave => if (s.hart h).remotes.isEmpty then some (s.retire h) else none
  | _ => none

/-- vsave at its issue: the operand's tests and the check of the whole range, then it holds the strand. A task that goes
off its core leaves the array (R197) (log 39). -/
def State.vsave (s : State) (h base : Nat) (x : Word) : State :=
  let a := setFld x 0 8 0
  let flag := bit x 0
  if fld x 1 7 ≠ 0 then s.raise h 6 (setBit x 0 false)
  else match s.image h a .store with
  | .error (z, v) => s.scalarStop h v true (some base) z
  | .ok _ =>
    let s := if flag && decide ((s.hart h).arr.susp = 0) then s.suspendArray h else s
    s.hold h (.vsave a.toNat flag)

/-- vsave (R316, R317). -/
def execVsave (rs1 : BitVec 5) (s : State) : Out :=
  let x := s.rx rs1
  s.own (fieldsVsave rs1).toWord (!bit x 0 || s.priv s.cur) (s.vsave s.cur rs1.toNat x)

/-! ## vrestore (R319) -/

/-- A resume record of the image: the r-th, with the scales of the k-th vmma. -/
def State.imgResume (s : State) (h : Nat) (pas : Array Nat) (r k : Nat) : Resume :=
  let o := 256 + 32 * r
  let w : BitVec 32 := BitVec.ofNat 32 (s.img h pas o 4)
  let x := BitVec.ofNat 64 (s.img h pas (o + 24) 8)
  let mma := match VOp.ofWord w with | some (_, .mma _ _ _ _) => true | _ => false
  { pos := (s.hart h).pos + fld x 37 6, word := w, x1 := word (s.img h pas (o + 4) 8), x2 := word (s.img h pas (o + 12) 8), fv := BitVec.ofNat 32 (s.img h pas (o + 20) 4),
    scales := if mma then (List.range 16).map (fun i => BitVec.ofNat 32 (s.img h pas (15360 + 64 * k + 4 * i) 4)) else []
    vl := fld x 0 14, ty := BitVec.ofNat 4 (fld x 14 4), frm := BitVec.ofNat 3 (fld x 18 3), ncode := fld x 21 2,
    index := fld x 23 14 }

/-- The resume records of the image, in sequence order. -/
def State.imgResumes (s : State) (h : Nat) (pas : Array Nat) : List Resume :=
  let n := min 48 (s.img h pas 20 4 % 64)
  ((List.range n).foldl (fun (a : List Resume × Nat) r =>
    let x := s.imgResume h pas r a.2
    (a.1 ++ [x], if x.scales.isEmpty then a.2 else a.2 + 1)) ([], 0)).1

/-- The offsets of bad fields of an image, for a vrestore with flag T on hart h (R319). -/
def State.imageBad (s : State) (h : Nat) (pas : Array Nat) (flag : Bool) : List Nat :=
  let w := fun (o n : Nat) => BitVec.ofNat 64 (s.img h pas o n)
  let cfg := w 0 8
  let n := fld cfg 0 2
  let hold := w 24 8
  let bad := fun (o : Nat) (b : Bool) => if b then [o] else []
  bad 0 (decide (n = 3) || !zeroBits cfg 2 2 || !zeroBits cfg 8 56) ++
  bad 8 (!zeroBits (w 8 4) 14 2 || !zeroBits (w 8 4) 20 12) ++
  bad 20 (!zeroBits (w 20 4) 6 2 || !zeroBits (w 20 4) 13 19 || decide (bit (w 20 4) 12 ≠ flag) ||
    (!flag && !zeroBits (w 20 4) 8 4)) ++
  bad 24 (!zeroBits hold 10 2 || !zeroBits hold 28 36 ||
    (if flag then decide (fld hold 24 4 ≠ 0) && decide (fld hold 12 12 ≠ h) else !zeroBits hold 0 10 || !zeroBits hold 24 4)) ++
  (List.range 4).flatMap (fun i => let l := w (32 + 8 * i) 8
    bad (32 + 8 * i) (!zeroBits l 9 7 || !zeroBits l 24 7 || !zeroBits l 32 32)) ++
  bad 64 (!flag && decide (s.img h pas 64 8 ≠ 0)) ++
  bad 72 (decide (s.img h pas 72 8 ≠ 0)) ++
  bad 80 (!flag && decide (s.img h pas 80 16 ≠ 0)) ++
  bad 96 (decide (s.img h pas 96 48 ≠ 0)) ++
  (List.range 32).flatMap (fun j =>
    bad (144 + j) (decide ((if j < nregs n && decide (s.img h pas 16 4 / 2 ^ j % 2 = 1) then regBits n / 2048 else 0) <
      s.img h pas (144 + j) 1))) ++
  bad 176 (decide (s.img h pas 176 72 ≠ 0)) ++
  bad 248 (decide (s.img h pas 248 8 ≠ 1)) ++
  bad 6976 (decide (s.img h pas 6976 192 ≠ 0)) ++
  ((List.range 16).drop ((s.imgResumes h pas).filter (fun r => !r.scales.isEmpty)).length).flatMap (fun k =>
    bad (15360 + 64 * k) (decide (s.img h pas (15360 + 64 * k) 64 ≠ 0)))

/-- A v register of the image. -/
def State.imgReg (s : State) (h : Nat) (pas : Array Nat) (n j : Nat) : VReg :=
  let valid : BitVec 256 := BitVec.ofNat 256 (s.img h pas (14336 + 32 * j) 32)
  if s.img h pas 16 4 / 2 ^ j % 2 = 1 then
    let e := s.img h pas (144 + j) 1
    { bits := BitVec.ofNat 65536 (s.img h pas (16384 + j * (65536 / n)) (256 * e)), valid := valid, dirty := true, ext := e }
  else { VReg.start with valid := valid }

/-- A leeway register of the image. -/
def State.imgLeeway (s : State) (h : Nat) (pas : Array Nat) (i : Nat) : Leeway :=
  let w := BitVec.ofNat 64 (s.img h pas (32 + 8 * i) 8)
  { res := (List.range 256).foldl (fun (t : Tab (BitVec 32)) j =>
      t.put 0 j (BitVec.ofNat 32 (s.img h pas (2048 + 1024 * i + 4 * j) 4))) []
    c := fld w 0 9, p := fld w 16 8, ns := bit w 31 }

/-- A loop slot of the image. -/
def State.imgLoop (s : State) (h : Nat) (pas : Array Nat) (i : Nat) : LoopSlot :=
  let p := s.img h pas (6144 + 16 * i + 8) 8
  let r := s.img h pas (6464 + 128 * i + 60) 1
  { cfg := word (s.img h pas (6144 + 16 * i) 8), prev := if p = 0 then none else some (word p), miss := r / 32 % 4,
    creg := if r % 32 = 0 then none else some (r % 32) }

/-- The vector side as an image gives it. -/
def State.imgVec (s : State) (h : Nat) (pas : Array Nat) : Vec :=
  let v := (s.hart h).vec
  let cfg := s.img h pas 0 8
  let n := nregs (cfg % 4)
  let w := s.img h pas 8 4
  { v with
    ncode := cfg % 4, slip := cfg / 16 % 16, vl := w % 2 ^ 14, vetype := BitVec.ofNat 4 (w / 2 ^ 16 % 16)
    v := (List.range n).map (fun j => (j, s.imgReg h pas n j))
    k := (List.range 7).foldl (fun (t : Tab (BitVec 8192)) i => t.put 0 (i + 1) (BitVec.ofNat 8192 (s.img h pas (7168 + 1024 * i) 1024))) []
    ly := (List.range 4).map (fun i => (i, s.imgLeeway h pas i))
    loops := (List.range 4).map (fun i => (i, s.imgLoop h pas i)) }

/-- Reinstate the resume records of an image (R101, R319). -/
def Vec.restore (v : Vec) (pos : Nat) (rs : List Resume) : Vec :=
  let first := rs.head?.map (fun r => (v.nextSeq, r.index))
  { v.reinstate pos rs with restored := first }

/-- A ring slot of the image: the slot and its posted releases; none where it is unset. Stages that have passed since are
acquired no more (R208). -/
def State.imgRing (s : State) (h : Nat) (pas : Array Nat) (pos i : Nat) : Option (RingSlot × List Release) :=
  let o := 6208 + 32 * i
  let w := s.img h pas o 8
  let base := s.img h pas (o + 8) 8
  let now := ((s.ring (clOf h) (w / 2 ^ 16)).map Ring.r).getD 0
  let live := fun (q : Nat) => decide (now ≤ q)
  if w % 2 = 0 then none
  else some ({ ring := w / 2 ^ 16, consumer := decide (w / 2 % 2 = 1), acq := (ofMask base (s.img h pas (o + 16) 8)).filter live,
               left := (ofMask base (s.img h pas (o + 28) 4)).filter live },
    (ofMask base (s.img h pas (o + 24) 4)).map (fun q =>
      { ring := w / 2 ^ 16, stage := q, producer := decide (w / 2 % 2 = 0), pos := pos + 64 }))

/-- Whether slot i of the image names a ring that the strand's cluster has no entry for (R319). -/
def State.imgLost (s : State) (h : Nat) (pas : Array Nat) (i : Nat) : Bool :=
  let w := s.img h pas (6208 + 32 * i) 8
  decide (w % 2 = 1) && (decide (w / 2 ^ 8 % 256 ≠ clOf h) || (s.ring (clOf h) (w / 2 ^ 16)).isNone)

/-- The bound ring slots of the image. -/
def State.imgRings (s : State) (h : Nat) (pas : Array Nat) (pos : Nat) : List (Nat × RingSlot × List Release) :=
  (List.range 8).filterMap (fun i => (s.imgRing h pas pos i).map (fun r => (i, r)))

/-- A channel of the image. -/
def State.imgChan (s : State) (h : Nat) (pas : Array Nat) (i : Nat) : Chan :=
  let o := 6464 + 128 * i
  let st := s.img h pas (o + 64) 8
  { Chan.start with
    sh := (List.range 7).foldl (fun (t : Tab Word) j => t.put 0 j (word (s.img h pas (o + 8 * j) 8))) []
    nextId := BitVec.ofNat 32 (s.img h pas (o + 56) 4), wm := BitVec.ofNat 32 st, err := decide (st / 2 ^ 32 % 2 = 1) }

/-- The array operation that a command word stands for (Table 8-3). -/
def AOp.ofWord (w : BitVec 32) : AOp :=
  let z := fld w 7 2
  match fld w 25 4 with
  | 2 => .mwld
  | 3 => .mzero z
  | 4 => .mld z
  | 5 => .mst z (fld w 20 3) (fld w 23 2) (bit w 9)
  | c => .mmac c z (fld w 29 2 * 8 + fld w 9 3)

/-- The ranges of an array command of an image that no vsave of this part has written: resolved as at its acceptance, in U-mode;
one that resolves to nothing names an address where nothing answers, so that the command fails as R188 says (log 14). -/
def State.rangesAnew (s : State) (h pos : Nat) (op : AOp) (x1 x2 : Word) : List (Nat × Nat) :=
  match (s.onHart h (fun t => { t with mode := .u })).arrayChk h pos op x1 x2 with
  | .ok l => l
  | .error _ => [(0x020000000000, 8)]

/-- An array resume record of the image, with its memory ranges as they were accepted (R188, R197). -/
def State.imgACmd (s : State) (h : Nat) (pas : Array Nat) (ranges : Option (List (List (Nat × Nat)))) (r : Nat) : ACmd :=
  let o := 1792 + 32 * r
  let w : BitVec 32 := BitVec.ofNat 32 (s.img h pas o 4)
  let x1 := word (s.img h pas (o + 8) 8)
  let x2 := word (s.img h pas (o + 16) 8)
  let op := AOp.ofWord w
  let pos := (s.hart h).pos + s.img h pas (o + 24) 8 % 64
  { hart := h, pos := pos, op := op, word := w, x1 := x1, x2 := x2, va := x1.toNat, since := 0,
    range := (ranges.bind (fun l => l[r]?)).getD (s.rangesAnew h pos op x1 x2) }

/-- The array side of the image, with what its vsave has kept beside it. -/
def State.imgArray (s : State) (h : Nat) (pas : Array Nat) (p : Option Parked) : ArraySide :=
  let w := BitVec.ofNat 64 (s.img h pas 24 8)
  { ArraySide.start with
    area := if bit w 5 then some (fld w 0 5) else none, mask := fld w 6 4, susp := (p.map Parked.susp).getD 0
    resume := (List.range (min 8 (s.img h pas 20 4 / 256 % 16))).map (s.imgACmd h pas (p.map Parked.ranges)) }

/-- The staging units as an image with T = 1 gives them, beside what stays at the strand. -/
def State.imgStaging (s : State) (h : Nat) (pas : Array Nat) (async : List Nat) : Staging :=
  let t := s.hart h
  let g := t.stg
  let im := pas.getD 0 0
  let has := fun (o k : Nat) => decide (s.img h pas o 2 / 2 ^ k % 2 = 1)
  let rs := s.imgRings h pas t.pos
  let back := fun (e : Endpoint) => if e.parked = some im then { e with parked := none } else e
  { g with
    rings := rs.map (fun r => (r.1, r.2.1))
    releases := rs.flatMap (fun r => r.2.2)
    chans := (List.range 4).map (fun i => (i, s.imgChan h pas i))
    eps := g.eps.map (fun (p : Nat × Endpoint) => (p.1, back p.2))
    tags := (List.range 16).filter (has 64)
    notices := ((List.range 16).filter (has 66)).map (fun k => ⟨k, has 68 k, s.img h pas (80 + k) 1⟩)
    async := async.take (s.img h pas 70 2) }

/-- A vrestore with T = 1 gives the strand its task back. -/
def State.unparkTask (s : State) (h : Nat) (pas : Array Nat) : State :=
  let im := pas.getD 0 0
  let p := s.parked.find? (fun p => p.image = im)
  let g := s.imgStaging h pas ((p.map Parked.async).getD [])
  let s := s.onHart h (fun t => { t with task := (p.map Parked.task).orElse (fun _ => t.task), stg := g })
  let a := s.imgArray h pas p
  let s := s.onHart h (fun t => { t with arr := a })
  let mark := fun (q : Nat × Wire) =>
    if q.2.parked = some im then (q.1, { q.2 with part := some h, parked := none, arrival := q.2.arrival.map (fun x => (x.1, 0)) })
    else q
  let s := s.onCore (coreOf h) (fun c => { c with wires := c.wires.map mark })
  { s with parked := s.parked.map (fun p => if p.image = im then { p with held := false } else p) }

/-- A waiting vrestore reads the pieces of its image that lie in remote windows. -/
def State.askImage (s : State) (h a : Nat) (pas : Array Nat) : State :=
  let s := s.onHart h (fun t => { t with imageIn := some [] })
  (List.range 10240).foldl (fun (s : State) o =>
    let pa := pas.getD (o / 8) 0 + o % 8 * 8
    if isRemote pa then
      s.remoteLoad h (a + 8 * o) { pos := (s.hart h).pos, rd := 0, isF := false, pa := pa, width := 8, signed := false } (some o)
    else s) s

/-- The state of a strand as an image that has passed its tests gives it (R319). Its program order goes on after the
instructions reinstated. -/
def State.imageLoaded (s : State) (h : Nat) (pas : Array Nat) (flag : Bool) : State :=
  let t := s.hart h
  let v := s.imgVec h pas
  let rs := s.imgResumes h pas
  let s := if flag then s.unparkTask h pas else s
  (s.onHart h (fun t' => { t' with vec := v.restore t.pos rs, pos := t.pos + 64, imageIn := none })).retire h

/-- A waiting vrestore loads its image and retires (R319), or raises what the image gives cause for (log 26). -/
def State.vrestoreLoad (s : State) (h : Nat) : Option State :=
  match (s.hart h).wait with
  | .vrestore a flag =>
    if !s.imageReady h || s.held h (s.hart h).pos a 81920 false then none
    else match s.image h (word a) .load with
    | .error (z, v) => some (s.scalarStop h v false none z)
    | .ok xs =>
      let pas := (xs.map Hit.pa).toArray
      if pas.any isRemote && (s.hart h).imageIn.isNone then some (s.askImage h a pas)
      else match s.imageBad h pas flag with
      | o :: r => some (s.raise h 5 (word (a + r.foldl min o)))
      | [] =>
        if flag && (List.range 8).any (s.imgLost h pas) then some (s.raise h 25 (word (a + 6208)))
        else if flag && (List.range 4).any (fun i => decide (s.img h pas (6464 + 128 * i + 64) 8 / 2 ^ 33 % 16 ≠ 0)) then
          -- an image in a remote window is read again
          (if pas.any isRemote then some (s.onHart h (fun t => { t with imageIn := none })) else none)
        else some ((xs.foldl (fun (s : State) x => (s.setAD x).readHomed h x 64) s).imageLoaded h pas flag)
  | _ => none

/-- vrestore at its issue: the operand's tests and the check of the whole range, then it holds the strand. -/
def State.vrestore (s : State) (h base : Nat) (x : Word) : State :=
  let a := setFld x 0 8 0
  if fld x 1 7 ≠ 0 then s.raise h 4 (setBit x 0 false)
  else match s.image h a .load with
  | .error (z, v) => s.scalarStop h v false (some base) z
  | .ok _ => (s.onHart h (fun t => { t with imageIn := none })).hold h (.vrestore a.toNat (bit x 0))

/-- vrestore (R316, R319). -/
def execVrestore (rs1 : BitVec 5) (s : State) : Out :=
  let x := s.rx rs1
  s.own (fieldsVrestore rs1).toWord ((!bit x 0 || s.priv s.cur) && (s.hart s.cur).vec.resume.isEmpty)
    (s.vrestore s.cur rs1.toNat x)

end Sys2Proof.Machine
end

