-- ==== Sys2Proof/Machine/Fetch.lean ====
section
/-!
DEFINITION. Instruction fetch (R26, R59): where a hart's next word stands, what it reads; whether a hart may act; the
base loads and stores of device registers that stand next; the entry of interrupts and notices (R145, R312, R320).
-/
namespace Sys2Proof.Machine

/-! ## The next word -/

/-- Where the next instruction of hart h stands, or why it cannot be fetched (R26, R59). A pc that is no multiple of 4, which an
upret from such an upepc leaves (R26 names jumps and taken branches, R144 lets upret copy upepc), raises instruction address
misaligned here, with the pc as trap value: the model's choice (log 68). -/
def State.fetchAt (s : State) (h : Nat) : XRes :=
  let pc := (s.hart h).pc
  if pc.toNat % 4 ≠ 0 then .stop (.exc 0) else s.access h pc 4 .fetch

/-- The word at a physical address as a hart's fetch finds it: its fetch buffer, its core's instruction cache, memory
(R59). -/
def State.fetchWord (s : State) (h pa : Nat) : BitVec 32 :=
  match (s.hart h).fetchBuf.find pa with
  | some w => w
  | none =>
    match (s.core (bufCore h)).icache.find pa with
    | some w => w
    | none => BitVec.ofNat 32 (s.mem64 pa 4)

/-- The next word of hart h, where it can be fetched. -/
def State.nextWord (s : State) (h : Nat) : Option (BitVec 32) :=
  match s.fetchAt h with
  | .ok x => some (s.fetchWord h x.pa)
  | .stop _ => none

/-! ## Whether a hart may act -/

/-- Whether hart h is there to act: it is on, its die answers, its core island is on, and its context is not being
killed (R323, R324, R338). -/
def State.runnable (s : State) (h : Nat) : Bool :=
  isHart h && (s.hart h).on &&
    (isMgmt h || (s.dieUp (dieOfCore (coreOf h)) && (s.cluster (clOf h)).coreIsland.backed)) &&
    (match s.ctxOf h with | some c => !(s.ctx c).killing | none => true)

/-- Whether a hart stands at a boundary with its next instruction to come. -/
def State.atBoundary (s : State) (h : Nat) : Bool := s.runnable h && decide ((s.hart h).wait = .none)

/-- A strand whose issue is lowered is ready only in every fourth cy (R233). -/
def State.loweredNow (s : State) (h : Nat) : Bool :=
  !isMgmt h && decide (s.dev.cy % 4 ≠ h % 4) &&
    (s.core (coreOf h)).lowered.any (fun (l : Nat × Nat) => decide (s.ctxOf h = some l.1) && decide (s.dev.cy < l.2))

/-- Whether hart h may issue in this cy, if what its next instruction needs is there (R66, R233): a strand whose lease has yet to
come back to it issues nothing (R197). -/
def State.mayIssue (s : State) (h : Nat) : Bool := s.atBoundary h && !(s.hart h).arr.back && !s.loweredNow h

/-- The other strands of a core that may issue: a turn strikes off those whose next instruction is not ready (log 44). -/
def State.othersReady (s : State) (h : Nat) : List Nat :=
  ((List.range 4).map (fun i => coreOf h * 4 + i)).filter (fun k => k != h && s.mayIssue k)

/-- yield (R239). -/
def execYield (s : State) : Out :=
  s.own fieldsYield.toWord true ((s.retire s.cur).hold s.cur (.yield_ (s.dev.cy + 64) (s.othersReady s.cur)))

/-- Whether an interrupt that reaches a hart in this wait abandons it; the other waits end first (log 42). -/
def Wait.abandonable : Wait → Bool
  | .kill _ => false
  | .vstupd _ _ => false
  | .wayset _ => false
  | .homeStore => false
  | .ctxStore _ => false
  | .remoteSave => false
  | .fqpop _ _ _ => false
  | .gang _ => false
  | _ => true

/-! ## What a yield waits for (R239) -/

/-- What of a hart changes as an instruction of it issues. -/
def Hart.mark (t : Hart) : Nat × BitVec 64 × Wait × Csrs := (t.pos, t.pc, t.wait, t.csr)

/-- A yield without a hart among those it waits for. -/
def Wait.without (w : Wait) (h : Nat) : Wait :=
  match w with
  | .yield_ t l => .yield_ t (l.filter (fun x => decide (x ≠ h)))
  | w => w

/-- The yields of hart h's core wait for it no more. -/
def State.strike (s : State) (h : Nat) : State :=
  { s with harts := s.harts.map (fun (p : Nat × Hart) =>
      if !isMgmt p.1 && !isMgmt h && decide (coreOf p.1 = coreOf h) then (p.1, { p.2 with wait := p.2.wait.without h }) else p) }

/-- The state t that comes of s, where hart h may have issued: if it has, the yields of its core wait for it no more. -/
def State.struck (s : State) (h : Nat) (t : State) : State := if (t.hart h).mark ≠ (s.hart h).mark then t.strike h else t

/-- The next word of hart h is no instruction: it has issued, and raises the illegal-instruction exception (R28). -/
def State.illegalWord (s : State) (h : Nat) (w : BitVec 32) : State := (s.illegal h w).strike h

/-- The fetch at hart h's pc does not go on (R26, R59): it has issued where that raises an exception. -/
def State.fetchStop (s : State) (h : Nat) (z : Stop) : State :=
  let t := s.scalarStop h (s.hart h).pc false none z
  match z with
  | .exc _ => t.strike h
  | .offline _ => t.strike h
  | _ => s.struck h t

/-! ## Interrupts -/

/-- The interrupt that hart h takes now, if any (R312). A strand that waits for its lease to come back issues nothing, a
handler's instructions neither, but can be pre-empted again (R197, log 42). -/
def State.takes (s : State) (h : Nat) : Option Nat :=
  if !s.runnable h then none
  else match s.interrupt h with
  | none => none
  | some i => if (s.hart h).wait.abandonable && (!(s.hart h).arr.back || decide (i = 17)) then some i else none

/-- An interrupt other than 17 is taken: the vector side stops and the hart traps. -/
def State.takeInterrupt (s : State) (h i : Nat) : State := (s.stopVector h (s.allSeq h)).trapEntry h true i 0

/-- Interrupt 17 is taken (R320): the scalar side stops at its boundary, the vector side at its element groups, and the
array side of a lease holder, or of a strand that its lease has yet to come back to, is suspended (R197). -/
def State.takePreempt (s : State) (h : Nat) : State :=
  ((s.stopVector h 0).trapEntry h true 17 0).suspendArray h

/-! ## Notices (R145, R314) -/

/-- Whether a strand stands where it takes notices: in U-mode with UE = 1, at a boundary. -/
def State.noticeable (s : State) (h : Nat) : Bool :=
  let t := s.hart h
  s.runnable h && !isMgmt h && decide (t.mode = .u) && bit t.csr.upvec 0 && !t.arr.back &&
    (match t.wait with | .none => true | .yield_ _ _ => true | _ => false)

/-- The strand takes its first notice: ASYNC_ERROR notices in sequence order, then the lowest tag (R314). The W, V and N
fields of upcause are 0 (log 32). -/
def State.notice (s : State) (h : Nat) : Option State :=
  let g := (s.hart h).stg
  if !s.noticeable h then none
  else match g.async with
  | q :: r =>
    some ((s.onStg h (fun g => { g with async := r })).onHart h (fun t =>
      t.upcall t.pc (upcauseWord 4 0 false false false) (word (q % 2 ^ 32))))
  | [] =>
    (leastBy Notice.tag g.notices).map (fun n =>
      (s.onStg h (fun g =>
        { g with notices := g.notices.filter (fun k => k.tag != n.tag), tags := g.tags.filter (fun k => k != n.tag) })).onHart h
        (fun t => t.upcall t.pc (upcauseWord (if n.starved then 3 else 5) n.tag false false false)
          (word (if n.starved then n.granules else 0))))

/-! ## A base load or store that stands next -/

/-- A base load or store: its register numbers, its address and its bytes. -/
structure MemOp where
  store : Bool
  base : Nat
  reg : Nat
  va : Word
  bytes : Nat
  signed : Bool
  deriving DecidableEq, Repr

/-- The base integer load or store that a word stands for (Table 3-1), with its address. -/
def State.memOp (s : State) (h : Nat) (w : BitVec 32) : Option MemOp :=
  let f3 := fld w 12 3
  let b := fld w 15 5
  if fld w 0 7 = 0x03 ∧ f3 ≠ 7 then
    some { store := false, base := b, reg := fld w 7 5, va := s.x h b + sx 12 (fld w 20 12), bytes := 2 ^ (f3 % 4), signed := decide (f3 < 4) }
  else if fld w 0 7 = 0x23 ∧ f3 < 4 then
    some { store := true, base := b, reg := fld w 20 5, va := s.x h b + sx 12 (fld w 25 7 * 32 + fld w 7 5), bytes := 2 ^ f3, signed := false }
  else none

/-- The base load or store that stands next at hart h with its operands ready, and the device register it reaches. -/
def State.nextReg (s : State) (h : Nat) : Option (MemOp × Nat × DevReg) :=
  if !s.mayIssue h then none
  else match (s.nextWord h).bind (s.memOp h) with
  | none => none
  | some m =>
    let busy := (s.hart h).busyX
    if busy.contains m.base || busy.contains m.reg then none
    else match s.access h m.va m.bytes (if m.store then .store else .load) with
    | .ok x =>
      (match regionOf x.pa with
        | .reg off => some (m, off, devReg (off / 8 * 8))
        | _ => none)
    | .stop _ => none

/-- The 8 bytes that a store of a device register stands for (R351). -/
def State.regValue (s : State) (h : Nat) (m : MemOp) (off : Nat) (r : DevReg) : Word :=
  let v := (s.x h m.reg).toNat
  if m.bytes = 8 then word v else setFld (s.otherHalf r) (8 * (off % 8)) 32 v

/-- The store of a device register that stands next at hart h is made where it is of a kind: the register and the value
decide. -/
def State.regWrite (s : State) (h : Nat) (kind : DevReg → Word → Bool) : Option State :=
  match s.nextReg h with
  | some (m, off, r) =>
    if m.store && kind r (s.regValue h m off r) then
      some (s.struck h (s.scalarStore h m.base m.va m.bytes (s.x h m.reg).toNat))
    else none
  | none => none

/-- The load of a device register that stands next at hart h is made where it is of a kind. -/
def State.regRead (s : State) (h : Nat) (kind : DevReg → Nat → Bool) : Option State :=
  match s.nextReg h with
  | some (m, _, r) =>
    if !m.store && kind r m.bytes then some (s.struck h (s.scalarLoad h m.base m.va m.bytes m.signed m.reg false)) else none
  | none => none

/-- What an event leaves: its effect where its conditions hold, else the state as it is. -/
def State.orStay (s : State) (r : Option State) : Out := .next (r.getD s)

end Sys2Proof.Machine
end

