-- ==== Sys2Proof/Machine/EventsMem.lean ====
section
/-!
DEFINITION. What happens of itself on a strand's memory side: the store buffer, returning loads, walks, the span buffer,
vector groups and accesses, notices, waits of configuration and full/empty bits, rings, copies, streams (chapters 4 to 7
and 9). Each event changes nothing where its conditions do not hold.
-/
namespace Sys2Proof.Machine

/-! ## Scalar accesses -/

/-- STORE_BUFFER_DRAIN (R67, R121): the k-th store in hart h's buffer performs at its home. -/
def execStoreBufferDrain (h k : Nat) (s : State) : Out := s.orStay (s.drain h k)

/-- SCALAR_LOAD_RETURN (R126). -/
def execScalarLoadReturn (h k : Nat) (s : State) : Out := s.orStay (s.loadReturn h k)

/-! ## Walks (R130, R133) -/

/-- The walks of a core without the one for an address of a hart. -/
def Core.endWalk (c : Core) (h va : Nat) : Core := { c with walking := c.walking.filter (fun w => !(w.hart = h && w.va = va)) }

/-- What an entry says to a walk that no access waits for: tested for a load, and where that fails for a fetch. -/
def walkTest (c : Csrs) (md : Mode) (level : Nat) (e : Word) : PteRes :=
  match pteTest c md .load level e with
  | .stop _ => pteTest c md .fetch level e
  | x => x

/-- One read of a walk (R130): it descends, or at the leaf fills the walk cache with the entries of levels 4 to 2 and the
translation buffer with the leaf, or ends without one, which installs nothing and counts SPEC_DROP (R67, R134). -/
def State.walkRead (s : State) (h : Nat) (w : Walk) : State :=
  let c := (s.hart h).csr
  let k := coreOf h
  let p := w.base + vpn w.va w.level * 8
  let fail := (s.onCore k (fun x => x.endWalk h w.va)).count 0 1
  if !s.walkable p then fail
  else
    let e := word (s.mem64 p 8)
    match walkTest c (s.hart h).mode w.level e with
    | .stop _ => fail
    | .next b =>
      let w' := { w with
        level := w.level - 1, base := b
        entries := if 2 ≤ w.level then w.entries ++ [walkEntryOf w.asid w.level w.va e] else w.entries }
      s.onCore k (fun x => let x := x.endWalk h w.va; { x with walking := x.walking ++ [w'] })
    | .leaf => s.onCore k (fun x => ((x.endWalk h w.va).fillWalks w.entries).fillTlb (tlbEntryOf w.asid w.level w.va e p))

/-- Whether the addresses of a hart's accesses are virtual: the windows resolve before any table (R127). -/
def Hart.virt (t : Hart) : Bool := decide (t.mode = .u) || (decide (t.mode = .s) && t.csr.sv57)

/-- Whether a hart's addresses are translated by Sv57, this one among them, with no translation of it held. -/
def State.walkable57 (s : State) (h va : Nat) : Bool :=
  let t := s.hart h
  t.virt && t.csr.sv57 && decide (winOf va = .none) && !decide (va / 2 ^ 56 ≠ 0 ∧ va / 2 ^ 56 ≠ 255) && (s.tlbHit h va).isNone

/-- A walk of a strand for an address goes on by one read, or starts where fewer than two run, below a walk-cache entry that
it then uses (R133); one whose address needs it no more ends. In the span window there is nothing to walk: what an access on a
wrong path, or a hardware prefetch, meets there is an entry, and an absent one counts SPEC_DROP (R67, R137, R150). -/
def State.pageWalk (s : State) (h va : Nat) : Option State :=
  let t := s.hart h
  if isMgmt h then none
  else match (s.core (coreOf h)).walking.find? (fun w => w.hart = h && w.va = va) with
  | some w =>
    some (if s.walkable57 h va && decide (w.asid = t.csr.asid) then s.walkRead h w
      else s.onCore (coreOf h) (fun x => x.endWalk h va))
  | none =>
    match winOf va with
    | .span g _ => if t.virt && (s.ctxOf h).isSome && !bit (s.spanEntry h g) 18 then some (s.count 0 1) else none
    | _ =>
      if !s.walkable57 h va || decide (2 ≤ (s.core (coreOf h)).walking.length) then none
      else
        let (l, b) := s.walkStart h va
        let s := match s.walkEntry h va with
          | some w => s.onCore (coreOf h) (fun x => x.walkUsed w)
          | none => s
        some (s.walkRead h { hart := h, asid := t.csr.asid, va := va, level := l, base := b, entries := [] })

/-- PAGE_TABLE_WALK (R130, R133). -/
def execPageTableWalk (h : Nat) (va : BitVec 64) (s : State) : Out := s.orStay (s.pageWalk h va.toNat)

/-- The address, the bytes and the kind of the scalar memory access that a word makes. -/
def State.accessOf (s : State) (h : Nat) (w : BitVec 32) : Option (Word × Nat × Acc') :=
  let f3 := fld w 12 3
  let a := s.x h (fld w 15 5)
  let st := sx 12 (fld w 25 7 * 32 + fld w 7 5)
  match fld w 0 7 with
  | 0x03 => some (a + sx 12 (fld w 20 12), 2 ^ (f3 % 4), .load)
  | 0x07 => some (a + sx 12 (fld w 20 12), 4, .load)
  | 0x23 => some (a + st, 2 ^ (f3 % 4), .store)
  | 0x27 => some (a + st, 4, .store)
  | 0x2F => some (a, 2 ^ (f3 % 4), if fld w 27 5 = 2 then .reserve else .atomic)
  | _ => none

/-- The oldest unretired access of hart h sets A, or D too (R131); an sc that holds no reservation sets A only. -/
def State.adStep (s : State) (h : Nat) : Option State :=
  if !s.atBoundary h then none
  else match s.nextWord h with
  | none => none
  | some w =>
    match s.accessOf h w with
    | none => none
    | some (va, n, a) =>
      match s.access h va n a with
      | .stop _ => none
      | .ok x =>
        let x := if fld w 0 7 = 0x2F ∧ fld w 27 5 = 3 ∧ (s.hart h).resv ≠ some (x.pa, n) then x.aOnly else x
        if x.ad.isSome then some (s.setAD x) else none

/-- AD_UPDATE (R131). -/
def execAdUpdate (h : Nat) (s : State) : Out := s.orStay (s.adStep h)

/-- A core's span buffer reads an entry of the hart's context from its die's replica (R137). -/
def State.spanFetch (s : State) (h g : Nat) : Option State :=
  match s.ctxOf h with
  | none => none
  | some c =>
    let k := coreOf h
    if isMgmt h || (s.core k).span.any (fun (e : Nat × Nat × BitVec 32) => e.1 = c && e.2.1 = g) || decide (524288 ≤ g) then none
    else
      let v := s.dev.vst.get 0 (vstKey (dieOfCore k) c g)
      some (s.onCore k (fun x => { x with span := keepLast 64 x.span (c, g, v) }))

/-- SPAN_ENTRY_FETCH (R137). -/
def execSpanEntryFetch (h g : Nat) (s : State) : Out := s.orStay (s.spanFetch h g)

/-- The k-th stream detector entry of hart h is freed after 1,024 cy (R124). -/
def State.detectorExpiry (s : State) (h k : Nat) : Option State :=
  match (s.hart h).detector[k]? with
  | some (_, _, t) =>
    if t + 1024 ≤ s.dev.cy then some (s.onHart h (fun t => { t with detector := dropAt t.detector k })) else none
  | none => none

/-- STREAM_DETECTOR_EXPIRY (R124). -/
def execStreamDetectorExpiry (h k : Nat) (s : State) : Out := s.orStay (s.detectorExpiry h k)

/-! ## The vector queues -/

/-- VECTOR_GROUP_ISSUE (R77 to R79, R107). -/
def execVectorGroupIssue (h : Nat) (q : VQueue) (s : State) : Out := s.orStay (s.issueStep h q)

/-- VECTOR_ACCESS_COMPLETE (R107, R117). -/
def execVectorAccessComplete (h k : Nat) (s : State) : Out := s.orStay (s.accessStep h k)

/-- VAQ_GROUP_LANDED (R91). -/
def execVaqGroupLanded (h : Nat) (s : State) : Out := s.orStay (s.landVaq h)

/-- NOTICE_UPCALL (R145, R314). -/
def execNoticeUpcall (h : Nat) (s : State) : Out := s.orStay (s.notice h)

/-! ## Waits of configuration and of full/empty bits -/

/-- A waiting vcfg takes effect once the queues are empty (R69). -/
def State.vcfgWake (s : State) (h : Nat) : Option State :=
  match (s.hart h).wait with
  | .vcfg rd n slip => if (s.hart h).vec.idle then some (s.vcfgDone h rd n slip) else none
  | _ => none

/-- VCFG_RECONFIGURE (R69). -/
def execVcfgReconfigure (h : Nat) (s : State) : Out := s.orStay (s.vcfgWake h)

/-- A waiting lycfg or lyclr takes effect once older users of its register are complete (R165). -/
def State.leewayWake (s : State) (h : Nat) : Option State :=
  match (s.hart h).wait with
  | .lycfg ly w => if s.lyReady h ly then some (s.lycfgDone h ly w) else none
  | .lyclr ly => if s.lyReady h ly then some (s.lyclrDone h ly) else none
  | _ => none

/-- LEEWAY_CONFIG_APPLY (R165). -/
def execLeewayConfigApply (h : Nat) (s : State) : Out := s.orStay (s.leewayWake h)

/-- A waiting ldfe finds its line full (R200). -/
def State.ldfeWake (s : State) (h : Nat) : Option State :=
  match (s.hart h).wait with
  | .ldfe rd pa _ _ => if s.ldfeReady h pa then some (s.ldfeTake h rd pa) else none
  | _ => none

/-- LDFE_WAKE (R200). -/
def execLdfeWake (h : Nat) (s : State) : Out := s.orStay (s.ldfeWake h)

/-- The trap value of a group's time-out: the first byte of the lowest line still empty, or the endpoint (R202, R222). -/
def State.timeoutVal (s : State) (h : Nat) (e : VEntry) : Nat :=
  match e.op with
  | .ldfe _ k =>
    (match s.feChecked h e k false with
      | .ok els =>
        ((leastBy id ((els.filter (fun (x : Nat × Nat × Nat) => !s.full (lineOf x.2.2))).map (fun x => x.2.1 / 128 * 128))).getD 0)
      | .error _ => 0)
  | _ => e.x1.toNat

/-- A wait of 2^20 cy raises FE_TIMEOUT (R201, R202, R222): that of a scalar ldfe, or of the next group of a queue. -/
def State.feTimeout (s : State) (h : Nat) (q : Option VQueue) : Option State :=
  match q with
  | none =>
    (match (s.hart h).wait with
      | .ldfe _ pa va since => if !s.ldfeReady h pa && decide (since + 2 ^ 20 ≤ s.dev.cy) then some (s.raise h 26 va) else none
      | _ => none)
  | some q =>
    match s.issue h q (s.allSeq h) with
    | some (e, .ext) =>
      (match e.since with
        | some t => if t + 2 ^ 20 ≤ s.dev.cy then s.vectorStop h e (.exc 26) (s.timeoutVal h e) else none
        | none => none)
    | _ => none

/-- FE_TIMEOUT (R201, R202, R222). -/
def execFeTimeout (h : Nat) (q : Option VQueue) (s : State) : Out := s.orStay (s.feTimeout h q)

/-! ## Rings and copies -/

/-- RING_ARRIVAL (R208, R209). -/
def execRingArrival (h k : Nat) (s : State) : Out := s.orStay (s.takeRelease h k true)

/-- RING_CONSUMER_RELEASE (R208). -/
def execRingConsumerRelease (h k : Nat) (s : State) : Out := s.orStay (s.takeRelease h k false)

/-- COPY_MOVE (R215): the engine moves piece n of transfer k of a channel. -/
def execCopyMove (h ch k n : Nat) (s : State) : Out := s.orStay (s.copyPiece h ch k n)

/-- A transfer whose every byte has moved completes (R216). -/
def State.copyDone (s : State) (h ch k : Nat) : Option State :=
  match s.xfer h ch k with
  | some x => if x.done then some (s.finishXfer h ch k) else none
  | none => none

/-- COPY_COMPLETE (R216). -/
def execCopyComplete (h ch k : Nat) (s : State) : Out := s.orStay (s.copyDone h ch k)

/-- A waiting channel reset takes effect once the channel's transfers have ended (R213). -/
def State.resetWake (s : State) (h : Nat) : Option State :=
  match (s.hart h).wait with
  | .cpReset ch => if s.chanIdle h ch then some (s.cpReset h ch) else none
  | _ => none

/-- CHANNEL_RESET_DONE (R213). -/
def execChannelResetDone (h : Nat) (s : State) : Out := s.orStay (s.resetWake h)

/-- A waiting waitc retires (R218). -/
def State.waitcWake (s : State) (h : Nat) : Option State :=
  match (s.hart h).wait with
  | .waitc a b c d => if s.waitcOk h a b c d then some (s.retire h) else none
  | _ => none

/-- WAITC_RELEASE (R218). -/
def execWaitcRelease (h : Nat) (s : State) : Out := s.orStay (s.waitcWake h)

/-- A waiting fence.vs retires (R264). -/
def State.fenceVsWake (s : State) (h : Nat) : Option State :=
  match (s.hart h).wait with
  | .fenceVs sys => if s.vsReady h sys then some (s.retire h) else none
  | _ => none

/-- FENCE_VS_RELEASE (R264). -/
def execFenceVsRelease (h : Nat) (s : State) : Out := s.orStay (s.fenceVsWake h)

/-! ## Streams (R221, R222) -/

/-- The next group of hart h's VSQ is a vsend of endpoint ep that has a credit: it arrives (R221). -/
def State.sendGroup (s : State) (h ep : Nat) : Option State :=
  match s.issue h .vsq (s.allSeq h) with
  | some (e, .go s') =>
    (match e.op with
      | .send _ => if e.x1.toNat = ep then some s' else none
      | _ => none)
  | _ => none

/-- STREAM_GROUP_ARRIVAL (R221). -/
def execStreamGroupArrival (h ep : Nat) (s : State) : Out := s.orStay (s.sendGroup h ep)

/-- The vrecv group that hart h waits at, with the peer it waits for and the peer's endpoint. -/
def State.recvWait (s : State) (h : Nat) : Option (VEntry × Nat × Option Nat) :=
  match (s.hart h).vec.head .vlq with
  | some e =>
    (match e.op, e.since, s.endpoint h e.x1.toNat with
      | .recv _, some _, some x => some (e, x.peer, x.link.ep)
      | _, _, _ => none)
  | none => none

/-- The peer, and its endpoint, of the vsend group that hart h waits at for a credit. -/
def State.creditWait (s : State) (h : Nat) : Option (Nat × Option Nat) :=
  match (s.hart h).vec.head .vsq with
  | some e =>
    (match e.op, e.since, s.endpoint h e.x1.toNat with
      | .send _, some _, some x => if x.link.ep.isSome then some (x.peer, x.link.ep) else none
      | _, _, _ => none)
  | none => none

/-- Whether a probe comes to an endpoint whose task is off its core, where it finds nothing waiting (R223). -/
def State.probeLost (s : State) (p : Probe) : Bool :=
  match p.ep.bind (s.endpoint p.at_) with
  | some x => x.parked.isSome
  | none => false

/-- Put a probe, or none, at its origin. -/
def State.setProbe (s : State) (h : Nat) (p : Option Probe) : State := s.onStg h (fun g => { g with probe := p })

/-- A vrecv group that has waited 4,096 cy, or 4,096 cy since its last probe, sends one (R222). -/
def State.probeSend (s : State) (h : Nat) : Option State :=
  match s.recvWait h with
  | none => none
  | some (e, peer, ep) =>
    let last := e.probed.getD (e.since.getD 0)
    if (s.hart h).stg.probe.isSome || decide (s.dev.cy < last + 4096) then none
    else
      let p : Probe := { origin := h, at_ := peer, ep := ep, hops := 1, due := s.dev.cy + 16 }
      some ((s.onEntry h e.seq (fun e => { e with probed := some s.dev.cy })).setProbe h (some p))

/-- STREAM_PROBE_SEND (R222). -/
def execStreamProbeSend (h : Nat) (s : State) : Out := s.orStay (s.probeSend h)

/-- The probe of hart h reaches the strand it travels to (R222): home again, it raises STREAM_CYCLE with its hops; a
strand with a probe of its own outstanding drops those of higher harts; a waiting strand forwards it; at an endpoint of a
task off its core it is dropped (R223). From a strand that waits both in a vrecv and in a vsend for a credit it goes on to the
vrecv's peer: the model's choice (log 71). -/
def State.probeHop (s : State) (h : Nat) : Option State :=
  match (s.hart h).stg.probe with
  | none => none
  | some p =>
    if s.dev.cy < p.due then none
    else if p.at_ = h then
      (match s.recvWait h with
        | some (e, _) => (s.setProbe h none).vectorStop h e (.exc 27) p.hops
        | none => some (s.setProbe h none))
    else if (s.hart p.at_).stg.probe.isSome ∧ p.at_ < h ∨ s.probeLost p = true then some (s.setProbe h none)
    else
      let on := fun (q : Nat × Option Nat) => s.setProbe h (some { p with at_ := q.1, ep := q.2, hops := p.hops + 1, due := s.dev.cy + 16 })
      match s.recvWait p.at_, s.creditWait p.at_ with
      | some (_, q), _ => some (on q)
      | none, some q => some (on q)
      | none, none => some (s.setProbe h none)

/-- STREAM_PROBE_HOP (R222). -/
def execStreamProbeHop (h : Nat) (s : State) : Out := s.orStay (s.probeHop h)

end Sys2Proof.Machine
end

