-- ==== Sys2Proof/Machine/EventsUnits.lean ====
section
/-!
DEFINITION. What happens of itself in the units around the strands: link turns, way roles, the work distributor,
dispatch, exits, tile commit, barriers, the cluster array (chapters 8 to 11). Each event changes nothing where its
conditions do not hold.
-/
namespace Sys2Proof.Machine

/-! ## Link turns (R225) -/

/-- The head of a link's FIFO: it leaves where the split is its own already, or starts its turn 2 µs after the last
change began (Example 9-2). -/
def State.turnBegin (s : State) (l : Nat) : Option State :=
  let k := s.link l
  let quiet := match k.lastChange with | some t => decide (t + 2400 ≤ s.dev.cy) | none => true
  match k.fifo with
  | [] => none
  | (_, n) :: r =>
    if k.turning.isSome || k.down then none
    else if n = k.out then some (s.onLink l (fun k => { k with fifo := r }))
    else if quiet then some (s.onLink l (fun k => { k with turning := some (n, none), lastChange := some s.dev.cy }))
    else none

/-- LINK_TURN_BEGIN (R225). -/
def execLinkTurnBegin (l : Nat) (s : State) : Out := s.orStay (s.turnBegin l)

/-- The flits on the turning groups have drained: the dead time starts. -/
def State.turnDrained (s : State) (l : Nat) : Option State :=
  match (s.link l).turning with
  | some (n, none) => some (s.onLink l (fun k => { k with turning := some (n, some s.dev.cy) }))
  | _ => none

/-- LINK_TURN_DRAINED (R225). -/
def execLinkTurnDrained (l : Nat) (s : State) : Out := s.orStay (s.turnDrained l)

/-- The 40 ns of dead time, 48 cy, are over: the new split holds and the command leaves the FIFO. -/
def State.turnDone (s : State) (l : Nat) : Option State :=
  match (s.link l).turning with
  | some (n, some t) =>
    if t + 48 ≤ s.dev.cy then
      some (s.onLink l (fun k => { k with out := n, fifo := k.fifo.tail, turning := none }))
    else none
  | _ => none

/-- LINK_TURN_DONE (R225). -/
def execLinkTurnDone (l : Nat) (s : State) : Out := s.orStay (s.turnDone l)

/-! ## Way roles, the distributor, dispatch -/

/-- WAYSET_COMPLETE (R219). -/
def execWaysetComplete (c : Nat) (s : State) : Out := s.orStay (s.waysetDone c)

/-- WDQ_ANSWER (R241): the k-th query in flight goes on. -/
def execWdqAnswer (k : Nat) (s : State) : Out := s.orStay (s.wdqStep k)

/-- DISPATCH (R243 to R247). -/
def execDispatch (cl : Nat) (s : State) : Out := s.orStay (s.dispatch cl)

/-- A placed member of a gang may issue once chron reaches the tick (R242). -/
def State.gangStart (s : State) (h : Nat) : Option State :=
  match (s.hart h).wait with
  | .gang t => if t.toNat ≤ s.dev.chron then some (s.hold h .none) else none
  | _ => none

/-- GANG_TICK (R242). -/
def execGangTick (h : Nat) (s : State) : Out := s.orStay (s.gangStart h)

/-- QUEUE_AGING (R245). -/
def execQueueAging (q : Nat) (s : State) : Out := s.orStay (s.age q)

/-- CANDIDATE_RESERVATION (R245). -/
def execCandidateReservation (cl q : Nat) (s : State) : Out := s.orStay (s.reserve cl q)

/-- BATCH_WAIT_EXPIRY (R243). -/
def execBatchWaitExpiry (q : Nat) (s : State) : Out := s.orStay (s.batchWait q)

/-- EXIT_PERFORM (R238). -/
def execExitPerform (h : Nat) (s : State) : Out := s.orStay (s.exitPerform h)

/-- A core's lowered issue returns to normal where its time has run out (R233). -/
def State.loweringEnd (s : State) (c : Nat) : Option State :=
  let now := s.dev.cy
  if (s.core c).lowered.any (fun (l : Nat × Nat) => l.2 ≤ now) then
    some (s.onCore c (fun k => { k with lowered := k.lowered.filter (fun l => now < l.2) }))
  else none

/-- ISSUE_LOWERING_END (R233). -/
def execIssueLoweringEnd (c : Nat) (s : State) : Out := s.orStay (s.loweringEnd c)

/-! ## Tile commit (R254, R255) -/

/-- TICKET_APPLY (R254). -/
def execTicketApply (c k : Nat) (s : State) : Out := s.orStay (s.applyTicket c k)

/-- A refused tcfg, tcommit or tskip is tried again, every 64 cy (R255). -/
def State.retryUnit (s : State) (h : Nat) : Option State :=
  match (s.hart h).wait with
  | .unit w x1 x2 retry => if retry ≤ s.dev.cy then some (s.unitPost h w x1 x2) else none
  | _ => none

/-- UNIT_RETRY (R255). -/
def execUnitRetry (h : Nat) (s : State) : Out := s.orStay (s.retryUnit h)

/-! ## Barriers (R276 to R279) -/

/-- BARRIER_PHASE_COMPLETE (R276). -/
def execBarrierPhaseComplete (c w : Nat) (s : State) : Out := s.orStay (s.barrierComplete c w)

/-- WEV_RETURN (R278). -/
def execWevReturn (h : Nat) (s : State) : Out := s.orStay (s.wevReturn h)

/-- BARRIER_TIMEOUT (R279). -/
def execBarrierTimeout (h : Nat) (s : State) : Out := s.orStay (s.wevTimeout h)

/-! ## The cluster array -/

/-- LEASE_GRANT (R182). -/
def execLeaseGrant (cl : Nat) (s : State) : Out := s.orStay (s.leaseGrant cl)

/-- The cy budget of a lease has run out (R181); a command budget ends at the command that uses it up. -/
def State.budgetEnd (s : State) (cl : Nat) : Option State :=
  let l := (s.cluster cl).lease
  match l.holder, l.start with
  | some _, some t => if t + 16384 ≤ s.dev.cy then some (s.budgetOut cl) else none
  | _, _ => none

/-- LEASE_BUDGET_END (R181). -/
def execLeaseBudgetEnd (cl : Nat) (s : State) : Out := s.orStay (s.budgetEnd cl)

/-- A park that waits takes the first free area (R184). -/
def State.parkStart (s : State) (cl : Nat) : State :=
  if (s.cluster cl).lease.parking.isNone then s.leaseSettle cl else s

/-- TILE_PARK_DONE (R183, R184): a park that still waits for an area takes one first. -/
def execTileParkDone (cl : Nat) (s : State) : Out := s.orStay ((s.parkStart cl).parkDone cl)

/-- TILE_RESTORE_DONE (R182, R183). -/
def execTileRestoreDone (cl : Nat) (s : State) : Out := s.orStay (s.restoreDone cl)

/-- ARRAY_COMMAND_START (R194). -/
def execArrayCommandStart (cl : Nat) (s : State) : Out := s.orStay (s.arrayStart cl)

/-- ARRAY_COMMAND_COMPLETE (R195): k is 0 for the array, else a place of the fill path. -/
def execArrayCommandComplete (cl k : Nat) (s : State) : Out := s.orStay (s.arrayComplete cl k)

/-- The clear of a weight buffer ends (R179). -/
def State.clearDone (s : State) (cl : Nat) : Option State :=
  if (s.cluster cl).clearing then some (s.onCluster cl (fun c => { c with clearing := false, weights := [] })) else none

/-- WEIGHT_BUFFER_CLEAR_DONE (R179). -/
def execWeightBufferClearDone (cl : Nat) (s : State) : Out := s.orStay (s.clearDone cl)

end Sys2Proof.Machine
end

