-- ==== Sys2Proof/Machine/EventsSys.lean ====
section
/-!
DEFINITION. What happens of itself in the part as a whole: interrupts and waits, kills, table changes, images, islands,
the governor, links and errors, bring-up and warm reset (chapters 6, 10 and 13), and the two failures of the next word
(R28, R59). Each event changes nothing where its conditions do not hold.
-/
namespace Sys2Proof.Machine

/-! ## The next word -/

/-- ILLEGAL_INSTRUCTION (R28, R31): the next word of hart h is w, and no row has it. -/
def execIllegalInstruction (h : Nat) (w : BitVec 32) (s : State) : Out :=
  s.orStay (if s.mayIssue h && decide (s.nextWord h = some w) && !assigned w then some (s.illegalWord h w) else none)

/-- The fetch at a hart's pc fails (R26, R59). -/
def State.fetchFault (s : State) (h : Nat) : Option State :=
  if !s.mayIssue h then none
  else match s.fetchAt h with
  | .stop z => some (s.fetchStop h z)
  | .ok _ => none

/-- INSTRUCTION_FETCH_FAULT (R26, R59). -/
def execInstructionFetchFault (h : Nat) (s : State) : Out := s.orStay (s.fetchFault h)

/-! ## Interrupts and the waits they end -/

/-- PREEMPT_TAKEN (R320). -/
def execPreemptTaken (h : Nat) (s : State) : Out := s.orStay (if s.takes h = some 17 then some (s.takePreempt h) else none)

/-- The interrupt of hart h, where it is another than 17, is taken. -/
def State.otherInterrupt (s : State) (h : Nat) : Option State :=
  match s.takes h with
  | some i => if i = 17 then none else some (s.takeInterrupt h i)
  | none => none

/-- INTERRUPT_TAKEN (R312, R308). -/
def execInterruptTaken (h : Nat) (s : State) : Out := s.orStay (s.otherInterrupt h)

/-- A hart in wfi goes on once an interrupt is pending for it (R63). -/
def State.wfiWake (s : State) (h : Nat) : Option State :=
  if (s.hart h).wait = .wfi ∧ s.mip h ≠ 0 then some (s.retire h) else none

/-- WFI_WAKE (R63). -/
def execWfiWake (h : Nat) (s : State) : Out := s.orStay (s.wfiWake h)

/-- A pause is over (R58). -/
def State.pauseWake (s : State) (h : Nat) : Option State :=
  match (s.hart h).wait with
  | .pause t => if t ≤ s.dev.cy then some (s.retire h) else none
  | _ => none

/-- PAUSE_END (R58). -/
def execPauseEnd (h : Nat) (s : State) : Out := s.orStay (s.pauseWake h)

/-- The hold of a yield is over: 64 cy have passed, or each strand that was ready then has issued or is ready no more
(R239). -/
def State.yieldWake (s : State) (h : Nat) : Option State :=
  match (s.hart h).wait with
  | .yield_ t others =>
    if decide (t ≤ s.dev.cy) || !others.any s.mayIssue then some (s.hold h .none) else none
  | _ => none

/-- YIELD_END (R239). -/
def execYieldEnd (h : Nat) (s : State) : Out := s.orStay (s.yieldWake h)

/-- ALARM_INTERRUPT (R334): interrupt 18 is pending by chron and ALARM alone, so nothing else changes. -/
def execAlarmInterrupt (_h : Nat) (s : State) : Out := .next s

/-! ## Kills, tables, images -/

/-- KILL_COMPLETE (R323). -/
def execKillComplete (c : Nat) (s : State) : Out := s.orStay (s.killComplete c)

/-- VSTUPD_COMPLETE (R139). -/
def execVstupdComplete (h : Nat) (s : State) : Out := s.orStay (s.vstupdDone h)

/-- A shootdown ends once the accesses in flight at its start have performed (R135). -/
def State.shootDone (s : State) : Option State :=
  match s.dev.shoot with
  | none => none
  | some cmd =>
    if s.olderInFlight s.dev.shootPos then none
    else some ((s.flushAll cmd).onDev (fun d => { d with shoot := none, shootPos := [] }))

/-- SHOOTDOWN_COMPLETE (R135). -/
def execShootdownComplete (s : State) : Out := s.orStay s.shootDone

/-- Every hart held by a wait of a kind retires. -/
def State.retireAll (s : State) (w : Wait) : State :=
  s.harts.foldl (fun (s : State) (p : Nat × Hart) => if p.2.wait = w then s.retire p.1 else s) s

/-- The lines of every slice for which a test holds are written back and go, with their L1 copies (R120, R338). -/
def State.dropLines (s : State) (gone : Nat → SliceLine → Bool) : State :=
  (s.cores.map Prod.fst).foldl (fun (s : State) c => s.dropSlice c (gone c)) s

/-- A home table write ends (R120): the lines that the entry homed are written back and gone, with their L1 copies; the
entry stands, and the store retires. -/
def State.homeDone (s : State) : Option State :=
  match s.dev.homeChange with
  | none => none
  | some (c, v) =>
    let s := s.dropLines (fun _ x => decide (x.code = c))
    some ((s.onDev (fun d => { d with home := d.home.put 0 c v, homeChange := none })).retireAll .homeStore)

/-- HOME_TABLE_CHANGE_DONE (R120). -/
def execHomeTableChangeDone (s : State) : Out := s.orStay s.homeDone

/-- A context becomes resident (R327): its replicas are zero, no span buffer holds an entry of it, nothing of it is
counted lost. -/
def State.residentDone (s : State) (c : Nat) : Option State :=
  if !(s.ctx c).entering then none
  else
    let s := s.onCtx c (fun x => { x with ctl := setBit x.ctl 0 true, entering := false, killed := false, fqlost := 0, pendLoss := 0 })
    let s := s.onDev (fun d => { d with
      vst := d.vst.filter (fun (p : Nat × BitVec 32) => decide (p.1 / 524288 % 16 ≠ c))
      vstLate := d.vstLate.filter (fun (p : Nat × Nat × BitVec 32) => decide (p.2.1 / 524288 ≠ c)) })
    let s := { s with cores := s.cores.map (fun (p : Nat × Core) =>
      (p.1, { p.2 with span := p.2.span.filter (fun e => e.1 != c) })) }
    some (s.retireAll (.ctxStore c))

/-- CONTEXT_RESIDENT_DONE (R327). -/
def execContextResidentDone (c : Nat) (s : State) : Out := s.orStay (s.residentDone c)

/-- VSAVE_WRITE (R317). -/
def execVsaveWrite (h : Nat) (s : State) : Out := s.orStay (s.vsaveWrite h)

/-- VRESTORE_LOAD (R319). -/
def execVrestoreLoad (h : Nat) (s : State) : Out := s.orStay (s.vrestoreLoad h)

/-! ## Islands and power (R324, R325) -/

/-- ISLAND_CLOCK_DONE (R324). -/
def execIslandClockDone (cl : Nat) (array : Bool) (s : State) : Out := s.orStay (s.islandClockDone cl array)

/-- ISLAND_OFF_DONE (R324). -/
def execIslandOffDone (cl : Nat) (array : Bool) (s : State) : Out := s.orStay (s.islandOffDone cl array)

/-- ISLAND_ON_DONE (R324). -/
def execIslandOnDone (cl : Nat) (array : Bool) (s : State) : Out := s.orStay (s.islandOnDone cl array)

/-- The governor's choice (R71, R196, R325): vgrant from 1 to 32 at strands, T from 1 to 16 at arrays; which choice it
makes the event says (log 15). -/
def State.governor (s : State) (grants throttles : List (Nat × Nat)) : State :=
  let grant := fun (s : State) (p : Nat × Nat) =>
    if p.1 < 2048 ∧ 1 ≤ p.2 ∧ p.2 ≤ 32 then s.onVec p.1 (fun v => { v with vgrant := p.2 }) else s
  let slow := fun (s : State) (p : Nat × Nat) =>
    if p.1 < 128 ∧ 1 ≤ p.2 ∧ p.2 ≤ 16 then s.onCluster p.1 (fun c => { c with throttle := p.2 }) else s
  throttles.foldl slow (grants.foldl grant s)

/-- GOVERNOR_SAMPLE (R325). -/
def execGovernorSample (grants throttles : List (Nat × Nat)) (s : State) : Out := .next (s.governor grants throttles)

/-- Every island goes off (R325). -/
def State.allIslandsGone (s : State) : State :=
  (List.range 128).foldl (fun (s : State) cl => (s.islandGone cl false).islandGone cl true) s

/-- THERMAL_TRIP (R325): every island goes off and the event is posted. -/
def execThermalTrip (s : State) : Out :=
  .next ((s.allIslandsGone.onDev (fun d => { d with tripped := true })).linkevPost 5 0 false)

/-- THERMAL_CLEAR (R325): after a trip, the event is posted. -/
def execThermalClear (s : State) : Out :=
  s.orStay (if s.dev.tripped then some ((s.onDev (fun d => { d with tripped := false })).linkevPost 6 0 false) else none)

/-! ## Links and errors (R331, R332, R336, R337) -/

/-- A lane, or the port, changes state (R331, R332). -/
def State.ethernet (s : State) (lane : Option Nat) (up : Bool) : Option State :=
  match lane with
  | none => some ((s.onDev (fun d => { d with portUp := up })).linkevPost 2 0 up)
  | some l =>
    if l < 8 then some ((s.onDev (fun d => { d with lanes := setBit d.lanes l up })).linkevPost 1 l up) else none

/-- ETHERNET_LINK_CHANGE (R331, R332). -/
def execEthernetLinkChange (lane : Option Nat) (up : Bool) (s : State) : Out := s.orStay (s.ethernet lane up)

/-- LINK_REPLAY (R336): the flit is dropped and sent again; no state that an instruction reads changes. -/
def execLinkReplay (_l : Nat) (s : State) : Out := .next s

/-- DIE_LINK_ERROR (R337): a kind-4 event. -/
def execDieLinkError (die link : Nat) (s : State) : Out :=
  s.orStay (if die < 4 ∧ link < 3 then some (s.linkevPost 4 (die * 4 + link) false) else none)

/-- An error in the word of 8 bytes of stacked SRAM, or the 32 bytes of device memory, at an address: a single bit is
corrected, a double makes what reads it fail (R336). -/
def State.eccError (s : State) (pa : Nat) (double : Bool) : Option State :=
  let mark := fun (n : Nat) => s.onDev (fun d => { d with poison := d.poison ++ [(pa / n * n, n)] })
  if !double then none
  else match regionOf pa with
  | .dram => some (mark 32)
  | .vault _ _ => some (mark 8)
  | .scratch _ _ => some (mark 8)
  | _ => none

/-- ECC_ERROR (R336). -/
def execEccError (pa : Nat) (double : Bool) (s : State) : Out := s.orStay (s.eccError pa double)

/-! ## Warm reset of a die (R338) -/

/-- The clusters of a die. -/
def clustersOf (d : Nat) : List Nat := (List.range 32).map (fun i => d * 32 + i)

/-- The cores of a die. -/
def dieCores (d : Nat) : List Nat := (List.range 128).map (fun i => d * 128 + i)

/-- The strands of a die. -/
def dieStrands (d : Nat) : List Nat := (List.range 512).map (fun i => d * 512 + i)

/-- The die links of a die. -/
def dieLinks (d : Nat) : List Nat := (List.range 3).map (fun l => (linkOf d l).1)

/-- Whether no context has a task, ring, lease, wire state, queue home or tile home on a die: Pilot has killed those that
had (R338), whose queues stay valid (R323). -/
def State.dieClear (s : State) (d : Nat) : Bool :=
  s.harts.all (fun (p : Nat × Hart) => isMgmt p.1 || decide (dieOfCore (coreOf p.1) ≠ d) || p.2.task.isNone) &&
  s.clusters.all (fun (p : Nat × Cluster) => decide (p.1 / 32 ≠ d) ||
    (p.2.rings.isEmpty && p.2.lease.holder.isNone && p.2.lease.ending.isNone && p.2.quiet && p.2.areas.isEmpty)) &&
  s.cores.all (fun (p : Nat × Core) => decide (p.1 / 128 ≠ d) ||
    (p.2.tiles.isEmpty && p.2.wires.all (fun (q : Nat × Wire) => q.2.part.isNone))) &&
  s.queues.all (fun (p : Nat × Queue) => decide (p.1 / 256 ≠ d) || !p.2.valid || (s.ctx p.2.ctx).killed)

/-- A home table entry moved away from die d to die e. -/
def rehome (d e : Nat) (v : Word) : Word :=
  if fld v 62 2 = 1 ∧ fld v 0 9 / 128 = d then setFld v 7 2 e
  else if fld v 62 2 = 2 ∧ fld v 16 2 = d then setFld v 16 2 e
  else v

/-- A core after its die's reset: only its way roles stand (log 29). -/
def Core.warm (c : Core) : Core := { Core.reset with ways := c.ways }

/-- A cluster after its die's reset: the registers on the IOD stand, and the islands' settings (log 29). -/
def Cluster.warm (c : Cluster) : Cluster :=
  { Cluster.reset with
    arrbind := c.arrbind, tsave := c.tsave, throttle := c.throttle, coreIsland := c.coreIsland, arrayIsland := c.arrayIsland }

/-- A strand after its die's reset: its ALARM, on the IOD, stands. -/
def Hart.warm (t : Hart) (powered : Bool) : Hart := { Hart.reset powered with alarm := t.alarm }

/-- Binnacle resets a die (R338, steps 1 to 6). -/
def State.warmReset (s : State) (d : Nat) : Option State :=
  if 4 ≤ d ∨ s.dieUp d = false ∨ s.dieClear d = false then none
  else
    let s := s.onDev (fun v => { v with offline := v.offline.ins d true })
    let e := s.serving d
    let s := s.dropLines (fun c _ => decide (c / 128 = d))
    let s := (dieLinks d).foldl (fun (s : State) l => s.onLink l (fun _ => { Link.reset l with down := true })) s
    let home := s.dev.home.map (fun (p : Nat × Word) => (p.1, rehome d e p.2))
    let s := s.onDev (fun v => { v with home := home })
    let s := { s with
      harts := s.harts.map (fun (p : Nat × Hart) =>
        if !isMgmt p.1 && decide (dieOfCore (coreOf p.1) = d) then (p.1, p.2.warm s.dev.powered) else p)
      clusters := s.clusters.map (fun (p : Nat × Cluster) => if p.1 / 32 = d then (p.1, p.2.warm) else p)
      queues := s.queues.filter (fun (p : Nat × Queue) => decide (p.1 / 256 ≠ d))
      cores := s.cores.map (fun (p : Nat × Core) => if p.1 / 128 = d then (p.1, p.2.warm) else p) }
    some ((List.range 3).foldl (fun (s : State) l => s.linkevPost 3 (d * 4 + l) false) s)

/-- DIE_WARM_RESET (R338). -/
def execDieWarmReset (die : Nat) (s : State) : Out := s.orStay (s.warmReset die)

/-- The vaults and scratchpads of a die read as 0, their lines empty (R339). -/
def State.clearDie (s : State) (d : Nat) : State :=
  let lo := lineOf (scratchBase (d * 128))
  let s := (s.clearRange (0x010000000000 + d * 2 ^ 30) (2 ^ 30)).clearRange (scratchBase (d * 128)) (2 ^ 27)
  { s with fe := s.fe.filter (fun (p : Nat × Bool) => !(decide (lo ≤ p.1) && decide (p.1 < lo + 2 ^ 20))) }

/-- The VST writes that a die missed (R139). -/
def State.lateVst (s : State) (d : Nat) : State :=
  let mine := s.dev.vstLate.filter (fun (p : Nat × Nat × BitVec 32) => p.1 = d)
  s.onDev (fun v => { v with
    vst := mine.foldl (fun (t : Tab (BitVec 32)) (p : Nat × Nat × BitVec 32) => t.put 0 (d * 16 * 524288 + p.2.1) p.2.2) v.vst
    vstLate := v.vstLate.filter (fun (p : Nat × Nat × BitVec 32) => p.1 != d) })

/-- Lines that another core now homes leave the slice that stood in for it (R338, step 7). -/
def State.dropStray (s : State) : State := s.dropLines (fun c x => decide (s.homeOf x.code x.addr ≠ c))

/-- Binnacle re-admits a die (R338, step 7): the home hash takes it again once the substitutes have written back, its links
are up at the even split, its strands' cycle counts start at 0 (R62). -/
def State.readmit (s : State) (d : Nat) : Option State :=
  if s.dev.offline.get false d = false then none
  else
    let s := s.onDev (fun v => { v with offline := v.offline.ins d false })
    let s := (dieLinks d).foldl (fun (s : State) l => s.onLink l (fun k => { k with down := false })) s
    let s := (s.dropStray.clearDie d).lateVst d
    let s := (clustersOf d).foldl (fun (s : State) cl => s.onIsland cl false (fun i => { i with cyc := (0, s.dev.cy) })) s
    some ((List.range 3).foldl (fun (s : State) l => s.linkevPost 3 (d * 4 + l) true) s)

/-- DIE_READMIT (R338). -/
def execDieReadmit (die : Nat) (s : State) : Out := s.orStay (s.readmit die)

/-! ## Bring-up (R308, R335) -/

/-- A hart once Binnacle has started the part: delegation and interrupt 17 are set (R308), and a management hart runs
M-mode code. -/
def Hart.started (t : Hart) (mgmt : Bool) : Hart :=
  { t with
    on := mgmt || t.on
    csr := { t.csr with medeleg := (Csrs.reset true).medeleg, mideleg := (Csrs.reset true).mideleg, mie := (Csrs.reset true).mie } }

/-- Binnacle verifies the signed code: it starts it, or the module stays in the lowest power state, every island off (R308,
R325, R335). -/
def State.powerGood (s : State) (verified : Bool) : Option State :=
  if s.dev.powered || s.dev.locked then none
  else if !verified then some (s.allIslandsGone.onDev (fun d => { d with locked := true }))
  else
    let s := s.onDev (fun d => { d with powered := true })
    let s := { s with harts := s.harts.map (fun (p : Nat × Hart) => (p.1, p.2.started false)) }
    some ((List.range 8).foldl (fun (s : State) i => s.onHart (mgmtBase + i) (fun t => t.started true)) s)

/-- POWER_GOOD (R335). -/
def execPowerGood (verified : Bool) (s : State) : Out := s.orStay (s.powerGood verified)

/-- A link of a die has trained: it is up, and a change of its state is an event (R331). -/
def State.linkUp (s : State) (d l : Nat) : State :=
  let n := (linkOf d l).1
  if (s.link n).down then (s.onLink n (fun k => { k with down := false })).linkevPost 3 (d * 4 + l) true else s

/-- A die whose repair and links have finished is admitted (R335): its links are up, and it homes its lines. -/
def State.dieAdmit (s : State) (d : Nat) : Option State :=
  if !s.dev.powered || decide (4 ≤ d) || s.dev.admitted.get false d then none
  else
    let s := (s.onDev (fun v => { v with admitted := v.admitted.ins d true })).dropStray
    some ((List.range 3).foldl (fun (s : State) l => s.linkUp d l) s)

/-- DIE_ADMIT (R335). -/
def execDieAdmit (die : Nat) (s : State) : Out := s.orStay (s.dieAdmit die)

/-- MEMORY_TRAINED (R335). -/
def execMemoryTrained (s : State) : Out :=
  s.orStay (if s.dev.powered then some (s.onDev (fun d => { d with trained := true })) else none)

end Sys2Proof.Machine
end

