-- ==== Sys2Proof/Machine/EventsNet.lean ====
section
/-!
DEFINITION. The RoCEv2 engine's inbound requests, answers and table changes (R328 to R330, R7), PTP messages, and the
stores and loads of device registers as events of their own (Table 13-9). Each event changes nothing where its conditions
do not hold.
-/
namespace Sys2Proof.Machine

/-! ## Inbound requests (R328, R330) -/

/-- Word i of a queue pair's entry (Table 13-14). -/
def State.qpWord (s : State) (qp i : Nat) : Word := (s.dev.qps.get [] qp).getD i 0

/-- Whether a queue pair takes packets: valid and in state ready. -/
def State.qpReady (s : State) (qp : Nat) : Bool := bit (s.qpWord qp 0) 0 && decide (fld (s.qpWord qp 0) 1 2 = 1)

/-- Whether a queue pair is Pilot's. -/
def State.qpPilot (s : State) (qp : Nat) : Bool := bit (s.qpWord qp 0) 3

/-- The context of a queue pair. -/
def State.qpCtx (s : State) (qp : Nat) : Nat := fld (s.qpWord qp 0) 4 4

/-- The next expected receive PSN goes up by one: the request is taken (log 12). -/
def State.takePsn (s : State) (qp : Nat) : State :=
  let up := fun (w : Word) => setFld w 24 24 (fld w 24 24 + 1)
  s.onDev (fun d => { d with qps := d.qps.ins qp ((d.qps.get [] qp).modify 1 up) })

/-- Whether a region's entry serves an inbound request: valid, its key and the pair's context, which is resident and not
killed (R323), of the kind asked for, with the range inside (R330). -/
def State.serves (s : State) (qp : Nat) (key : BitVec 32) (addr : Word) (len right : Nat) (r : List Word) : Bool :=
  let w0 := r.getD 0 0
  let base := (r.getD 1 0).toNat
  let c := fld w0 4 4
  bit w0 0 && decide (fld w0 32 32 = key.toNat) && decide (c = s.qpCtx qp) && bit w0 right && s.resident c &&
    !(s.ctx c).killing && !(s.ctx c).killed && decide (base ≤ addr.toNat) &&
    decide (addr.toNat + len ≤ base + fld (r.getD 3 0) 0 40)

/-- The region that serves an inbound request; `right` is the bit of word 0 that must be set: 1 read, 2 write, 3 push. -/
def State.regionFor (s : State) (qp : Nat) (key : BitVec 32) (addr : Word) (len right : Nat) : Option (List Word) :=
  (s.dev.regions.map Prod.snd).find? (s.serves qp key addr len right)

/-- The region with a key names a push region. -/
def State.pushKey (s : State) (key : BitVec 32) : Bool :=
  s.dev.regions.any (fun (p : Nat × List Word) =>
    bit (p.2.getD 0 0) 0 && decide (fld (p.2.getD 0 0) 32 32 = key.toNat) && bit (p.2.getD 0 0) 3)

/-- The physical address that a region gives an address. -/
def regionPa (r : List Word) (addr : Word) : Nat := fld (r.getD 2 0) 0 48 + (addr.toNat - (r.getD 1 0).toNat)

/-- Write bytes at a physical address, each naturally aligned 8 bytes performed at once (R328); n bounds the pieces. -/
def State.netWrite (s : State) (pa : Nat) (bs : List Byte) : Nat → State
  | 0 => s
  | n + 1 =>
    if bs.isEmpty then s
    else
      let k := 8 - pa % 8
      (s.perform true mgmtBase none pa (bs.take k)).netWrite (pa + k) (bs.drop k) n

/-- Whether every byte of a range of device memory answers. -/
def State.netBacked (s : State) (pa n : Nat) : Bool := s.dev.trained && dramRange pa n

/-- An inbound RDMA WRITE (R330): it is performed and acknowledged, or refused with Remote Access Error. -/
def State.rdmaWrite (s : State) (qp : Nat) (key : BitVec 32) (addr : Word) (data : List Byte) : Option State :=
  if !s.qpReady qp || s.pushKey key then none
  else
    let s := s.takePsn qp
    match s.regionFor qp key addr data.length 2 with
    | some r =>
      let pa := regionPa r addr
      if s.netBacked pa data.length then some ((s.netWrite pa data (data.length / 8 + 2)).send 4 qp []) else some (s.send 6 qp [])
    | none => some (s.send 6 qp [])

/-- RDMA_WRITE_IN (R328, R330). -/
def execRdmaWriteIn (qp : Nat) (key : BitVec 32) (addr : BitVec 64) (data : List (BitVec 8)) (s : State) : Out :=
  s.orStay (s.rdmaWrite qp key addr data)

/-- An inbound RDMA READ (R330): it is answered with its bytes, or refused. -/
def State.rdmaRead (s : State) (qp : Nat) (key : BitVec 32) (addr : Word) (len : Nat) : Option State :=
  if !s.qpReady qp then none
  else
    let s := s.takePsn qp
    match s.regionFor qp key addr len 1 with
    | some r =>
      let pa := regionPa r addr
      if !bit (r.getD 0 0) 3 && s.netBacked pa len && !s.poisoned pa len then some (s.send 3 qp (s.bytes pa len))
      else some (s.send 6 qp [])
    | none => some (s.send 6 qp [])

/-- RDMA_READ_IN (R328, R330). -/
def execRdmaReadIn (qp : Nat) (key : BitVec 32) (addr : BitVec 64) (len : Nat) (s : State) : Out :=
  s.orStay (s.rdmaRead qp key addr len)

/-- An inbound SEND (R328): the message goes into the receive ring of a pair of Pilot's, in entries of 64 bytes, in order;
a pair of a context takes none (log 12). -/
def State.rdmaSend (s : State) (qp : Nat) (data : List Byte) : Option State :=
  if !s.qpReady qp then none
  else
    let s := s.takePsn qp
    if !s.qpPilot qp then some (s.send 7 qp [])
    else
      let w := s.qpWord qp 6
      let base := fld w 6 42 * 64
      let n := 2 ^ (fld w 48 4 + 6)
      let k := ceilDiv data.length 64
      let at_ := s.dev.recvPos.get 0 qp
      let put := fun (s : State) (i : Nat) =>
        let part := (data.drop (64 * i)).take 64
        s.perform true mgmtBase none (base + 64 * ((at_ + i) % n)) (part ++ List.replicate (64 - part.length) 0)
      let s := (List.range k).foldl put s
      some ((s.onDev (fun d => { d with recvPos := d.recvPos.put 0 qp (at_ + k) })).send 4 qp [])

/-- RDMA_SEND_IN (R328). -/
def execRdmaSendIn (qp : Nat) (data : List (BitVec 8)) (s : State) : Out := s.orStay (s.rdmaSend qp data)

/-- qpush for a queue pair's context (R235, R329): as from S-mode on a pair of Pilot's, else as from U-mode. -/
def State.netPush (s : State) (qp q : Nat) (d : BitVec 512) : State × Nat :=
  let x := s.queue q
  if !x.valid || decide (x.ctx ≠ s.qpCtx qp) || (bit d 56 && !s.qpPilot qp) || !s.queueUp q then (s, 6)
  else
    let (s, ok) := s.pushNet q (setS d false)
    (s, if ok then 4 else 5)

/-- A remote qpush (R329): 64 bytes, aligned, into a push region, which must allow remote writes too (R330). -/
def State.remotePush (s : State) (qp : Nat) (key : BitVec 32) (addr : Word) (data : List Byte) : Option State :=
  if !s.qpReady qp || !s.pushKey key then none
  else
    let s := s.takePsn qp
    if data.length ≠ 64 ∨ addr.toNat % 64 ≠ 0 then some (s.send 7 qp [])
    else match s.regionFor qp key addr 64 3 with
    | none => some (s.send 6 qp [])
    | some r =>
      if !bit (r.getD 0 0) 2 then some (s.send 6 qp [])
      else
      let (s, a) := s.netPush qp ((addr.toNat - (r.getD 1 0).toNat) / 64) (BitVec.ofNat 512 (ofBytes data))
      some (s.send a qp [])

/-- REMOTE_QPUSH (R329). -/
def execRemoteQpush (qp : Nat) (key : BitVec 32) (addr : BitVec 64) (data : List (BitVec 8)) (s : State) : Out :=
  s.orStay (s.remotePush qp key addr data)

/-- INVALID_REQUEST_NAK (R7). -/
def execInvalidRequestNak (qp : Nat) (s : State) : Out :=
  s.orStay (if s.qpReady qp then some (s.send 7 qp []) else none)

/-! ## Answers and time-outs -/

/-- The answer to the k-th remote access of hart h arrives, in the order of its queue pair (R329). -/
def State.response (s : State) (h k : Nat) (data : Word) : Option State :=
  match (s.hart h).remotes[k]? with
  | none => none
  | some r =>
    if ((s.hart h).remotes.take k).any (fun x => x.qp = r.qp) then none
    else
      let s := s.onHart h (fun t => { t with remotes := dropAt t.remotes k })
      some (s.remoteWord h r data.toNat)

/-- REMOTE_RESPONSE (R329). -/
def execRemoteResponse (h k : Nat) (data : BitVec 64) (s : State) : Out := s.orStay (s.response h k data)

/-- QP_ACK_TIMEOUT (R330): a ready pair with something unanswered sends it again. -/
def execQpAckTimeout (qp : Nat) (s : State) : Out :=
  s.orStay (if s.qpReady qp && s.harts.any (fun (p : Nat × Hart) => p.2.remotes.any (fun r => r.qp = qp)) then
    some (s.send 8 qp []) else none)

/-- PTP_MESSAGE (R6, R333): the stamps go to Pilot, who disciplines the chronometer by CHRONADJ and CHRONSTEP; the message
itself changes no state (log 12). -/
def execPtpMessage (_kind : Nat) (s : State) : Out := .next s

/-! ## QPCMD (R330) -/

/-- Whether a remote access is in flight on an entry: a queue pair's, or a window's. -/
def Remote.uses (r : Remote) (table i : Nat) : Bool :=
  match table with
  | 0 => decide (r.qp = i)
  | 1 => decide (r.window = i)
  | _ => false

/-- The outstanding requests of a queue pair at hart h are discarded. -/
def State.discardRemotes (s : State) (h qp : Nat) : State :=
  let rs := (s.hart h).remotes.filter (fun r => r.qp = qp)
  let s := s.onHart h (fun t => { t with remotes := t.remotes.filter (fun r => r.qp != qp) })
  rs.foldl (fun (s : State) r => s.failRemote h r) s

/-- Put an entry into its table. -/
def Device.putEntry (d : Device) (idx : Word) (im : List Word) : Device :=
  let i := fld idx 0 12
  match fld idx 12 2 with
  | 0 => { d with qps := d.qps.ins i im }
  | 1 => { d with windows := d.windows.ins i im }
  | _ => { d with regions := d.regions.ins i im }

/-- An apply takes effect (R330): once every request in flight on the entry is answered; a queue pair applied in state
reset or error discards its outstanding requests. -/
def State.applyDone (s : State) : Option State :=
  match s.dev.qpBusy with
  | none => none
  | some (idx, im) =>
    let i := fld idx 0 12
    let table := fld idx 12 2
    let drop := decide (table = 0) && decide (fld (im.getD 0 0) 1 2 ≠ 1)
    if !drop && s.harts.any (fun (p : Nat × Hart) => p.2.remotes.any (fun r => r.uses table i)) then none
    else
      let s := if drop then (s.harts.map Prod.fst).foldl (fun (s : State) h => s.discardRemotes h i) s else s
      some (s.onDev (fun d => { d.putEntry idx im with qpBusy := none }))

/-- QPCMD_APPLY_DONE (R330). -/
def execQpcmdApplyDone (s : State) : Out := s.orStay s.applyDone

/-! ## Stores and loads of device registers (R351, Table 13-9) -/

/-- HOME_TABLE_WRITE (R120). -/
def execHomeTableWrite (h : Nat) (s : State) : Out :=
  s.orStay (s.regWrite h (fun r _ => match r with | .home _ => true | _ => false))

/-- SHOOT_CMD_WRITE (R135). -/
def execShootCmdWrite (h : Nat) (s : State) : Out := s.orStay (s.regWrite h (fun r _ => decide (r = .shootCmd)))

/-- PGDONE_WRITE (R145). -/
def execPgdoneWrite (h : Nat) (s : State) : Out := s.orStay (s.regWrite h (fun r _ => decide (r = .pgdone)))

/-- ARRBIND_WRITE (R179). -/
def execArrbindWrite (h : Nat) (s : State) : Out :=
  s.orStay (s.regWrite h (fun r _ => match r with | .arrbind _ => true | _ => false))

/-- TSAVE_WRITE (R184). -/
def execTsaveWrite (h : Nat) (s : State) : Out :=
  s.orStay (s.regWrite h (fun r _ => match r with | .tsave _ _ => true | _ => false))

/-- QCTL_WRITE (R230, R231). -/
def execQctlWrite (h : Nat) (s : State) : Out :=
  s.orStay (s.regWrite h (fun r _ => match r with | .queue _ 0 => true | _ => false))

/-- PREEMPT_REQUEST (R320). -/
def execPreemptRequest (h : Nat) (s : State) : Out :=
  s.orStay (s.regWrite h (fun r v => decide (r = .preempt) && !bit v 12))

/-- PREEMPT_CANCEL (R320). -/
def execPreemptCancel (h : Nat) (s : State) : Out :=
  s.orStay (s.regWrite h (fun r v => decide (r = .preempt) && bit v 12))

/-- EVENT_COUNTER_CLEAR (R326). -/
def execEventCounterClear (h : Nat) (s : State) : Out :=
  s.orStay (s.regWrite h (fun r v => match r with | .event _ => decide (v = 0) | _ => false))

/-- CHRONADJ_WRITE (R333). -/
def execChronadjWrite (h : Nat) (s : State) : Out := s.orStay (s.regWrite h (fun r _ => decide (r = .chronAdj)))

/-- CHRONSTEP_WRITE (R333). -/
def execChronstepWrite (h : Nat) (s : State) : Out := s.orStay (s.regWrite h (fun r _ => decide (r = .chronStep)))

/-- LINKEV_READ (R332): an 8-byte load. -/
def execLinkevRead (h : Nat) (s : State) : Out :=
  s.orStay (s.regRead h (fun r n => decide (r = .linkev) && decide (n = 8)))

/-- CONTEXT_MAKE_RESIDENT (R327): a store that sets CXCTL.R. -/
def execContextMakeResident (h : Nat) (s : State) : Out :=
  s.orStay (s.regWrite h (fun r v => match r with | .ctx c 0 => bit v 0 && !s.resident c | _ => false))

/-- CONTEXT_RELEASE (R327): a store that clears CXCTL.R. -/
def execContextRelease (h : Nat) (s : State) : Out :=
  s.orStay (s.regWrite h (fun r v => match r with | .ctx c 0 => !bit v 0 && s.resident c | _ => false))

/-- ALARM_WRITE (R334). -/
def execAlarmWrite (h : Nat) (s : State) : Out :=
  s.orStay (s.regWrite h (fun r _ => match r with | .alarm _ => true | _ => false))

/-- QPCMD_APPLY (R330): a store of 1. -/
def execQpcmdApply (h : Nat) (s : State) : Out :=
  s.orStay (s.regWrite h (fun r v => decide (r = .qpcmd) && decide (v = 1)))

/-- QPCMD_FETCH (R330): a store of 2. -/
def execQpcmdFetch (h : Nat) (s : State) : Out :=
  s.orStay (s.regWrite h (fun r v => decide (r = .qpcmd) && decide (v = 2)))

/-- Whether a store of a device register is one that no other event names. -/
def State.plainRegister (s : State) (r : DevReg) (v : Word) : Bool :=
  match r with
  | .home _ => false
  | .shootCmd => false
  | .pgdone => false
  | .arrbind _ => false
  | .tsave _ _ => false
  | .queue _ w => decide (w ≠ 0)
  | .preempt => false
  | .event _ => decide (v ≠ 0)
  | .chronAdj => false
  | .chronStep => false
  | .ctx c w => decide (w ≠ 0) || (bit v 0 == s.resident c)
  | .alarm _ => false
  | .qpcmd => decide (v ≠ 1) && decide (v ≠ 2)
  | _ => true

/-- DEVICE_REGISTER_WRITE (R351). -/
def execDeviceRegisterWrite (h : Nat) (s : State) : Out := s.orStay (s.regWrite h s.plainRegister)

end Sys2Proof.Machine
end

