-- ==== Sys2Proof/Machine/FloatScalar.lean ====
section
/-!
DEFINITION. F: binary32 arithmetic on the f registers (Table 3-3, R60, R61).
-/
namespace Sys2Proof.Machine

/-- An F instruction that rounds: illegal while FS is Off or where the rounding mode is (R61). -/
def State.rounding (s : State) (w : BitVec 32) (rm : BitVec 3) (k : Nat → State) : Out :=
  match s.rmode s.cur rm with
  | none => .next (s.illegal s.cur w)
  | some m => s.legal w (!s.fsOff s.cur) (k m)

/-- An F instruction that does not round: illegal while FS is Off (R61). -/
def State.plainF (s : State) (w : BitVec 32) (k : State) : Out := s.legal w (!s.fsOff s.cur) k

/-- FmaddS (Table 3-3): one rounding. -/
def execFmaddS (rd : BitVec 5) (rm : BitVec 3) (rs1 rs2 rs3 : BitVec 5) (s : State) : Out :=
  s.rounding (fieldsFmaddS rd rm rs1 rs2 rs3).toWord rm
    (fun m => s.putF s.cur rd (Fmt.f32.fma m false false (s.rf rs1) (s.rf rs2) (s.rf rs3)))

/-- FmsubS (Table 3-3): one rounding. -/
def execFmsubS (rd : BitVec 5) (rm : BitVec 3) (rs1 rs2 rs3 : BitVec 5) (s : State) : Out :=
  s.rounding (fieldsFmsubS rd rm rs1 rs2 rs3).toWord rm
    (fun m => s.putF s.cur rd (Fmt.f32.fma m false true (s.rf rs1) (s.rf rs2) (s.rf rs3)))

/-- FnmsubS (Table 3-3): one rounding. -/
def execFnmsubS (rd : BitVec 5) (rm : BitVec 3) (rs1 rs2 rs3 : BitVec 5) (s : State) : Out :=
  s.rounding (fieldsFnmsubS rd rm rs1 rs2 rs3).toWord rm
    (fun m => s.putF s.cur rd (Fmt.f32.fma m true false (s.rf rs1) (s.rf rs2) (s.rf rs3)))

/-- FnmaddS (Table 3-3): one rounding. -/
def execFnmaddS (rd : BitVec 5) (rm : BitVec 3) (rs1 rs2 rs3 : BitVec 5) (s : State) : Out :=
  s.rounding (fieldsFnmaddS rd rm rs1 rs2 rs3).toWord rm
    (fun m => s.putF s.cur rd (Fmt.f32.fma m true true (s.rf rs1) (s.rf rs2) (s.rf rs3)))

/-- FaddS (Table 3-3). -/
def execFaddS (rd : BitVec 5) (rm : BitVec 3) (rs1 rs2 : BitVec 5) (s : State) : Out :=
  s.rounding (fieldsFaddS rd rm rs1 rs2).toWord rm
    (fun m => s.putF s.cur rd (Fmt.f32.add m (s.rf rs1) (s.rf rs2)))

/-- FsubS (Table 3-3). -/
def execFsubS (rd : BitVec 5) (rm : BitVec 3) (rs1 rs2 : BitVec 5) (s : State) : Out :=
  s.rounding (fieldsFsubS rd rm rs1 rs2).toWord rm
    (fun m => s.putF s.cur rd (Fmt.f32.sub m (s.rf rs1) (s.rf rs2)))

/-- FmulS (Table 3-3). -/
def execFmulS (rd : BitVec 5) (rm : BitVec 3) (rs1 rs2 : BitVec 5) (s : State) : Out :=
  s.rounding (fieldsFmulS rd rm rs1 rs2).toWord rm
    (fun m => s.putF s.cur rd (Fmt.f32.mul m (s.rf rs1) (s.rf rs2)))

/-- FdivS (Table 3-3). -/
def execFdivS (rd : BitVec 5) (rm : BitVec 3) (rs1 rs2 : BitVec 5) (s : State) : Out :=
  s.rounding (fieldsFdivS rd rm rs1 rs2).toWord rm
    (fun m => s.putF s.cur rd (Fmt.f32.div m (s.rf rs1) (s.rf rs2)))

/-- fsqrt.s (Table 3-3). -/
def execFsqrtS (rd : BitVec 5) (rm : BitVec 3) (rs1 : BitVec 5) (s : State) : Out :=
  s.rounding (fieldsFsqrtS rd rm rs1).toWord rm (fun m => s.putF s.cur rd (Fmt.f32.sqrt m (s.rf rs1)))

/-- FsgnjS (Table 3-3): a payload moves unchanged. -/
def execFsgnjS (rd rs1 rs2 : BitVec 5) (s : State) : Out :=
  s.plainF (fieldsFsgnjS rd rs1 rs2).toWord (s.putF s.cur rd (Fmt.f32.withSign (s.rf rs1) (decide (2 ^ 31 ≤ s.rf rs2)), 0))

/-- FsgnjnS (Table 3-3): a payload moves unchanged. -/
def execFsgnjnS (rd rs1 rs2 : BitVec 5) (s : State) : Out :=
  s.plainF (fieldsFsgnjnS rd rs1 rs2).toWord (s.putF s.cur rd (Fmt.f32.withSign (s.rf rs1) (!decide (2 ^ 31 ≤ s.rf rs2)), 0))

/-- FsgnjxS (Table 3-3): a payload moves unchanged. -/
def execFsgnjxS (rd rs1 rs2 : BitVec 5) (s : State) : Out :=
  s.plainF (fieldsFsgnjxS rd rs1 rs2).toWord (s.putF s.cur rd (Fmt.f32.withSign (s.rf rs1) (decide (2 ^ 31 ≤ s.rf rs1) != decide (2 ^ 31 ≤ s.rf rs2)), 0))

/-- FminS (Table 3-3): minimumNumber, maximumNumber. -/
def execFminS (rd rs1 rs2 : BitVec 5) (s : State) : Out :=
  s.plainF (fieldsFminS rd rs1 rs2).toWord (s.putF s.cur rd (Fmt.f32.minmax false (s.rf rs1) (s.rf rs2)))

/-- FmaxS (Table 3-3): minimumNumber, maximumNumber. -/
def execFmaxS (rd rs1 rs2 : BitVec 5) (s : State) : Out :=
  s.plainF (fieldsFmaxS rd rs1 rs2).toWord (s.putF s.cur rd (Fmt.f32.minmax true (s.rf rs1) (s.rf rs2)))

/-- binary32 to an integer of n bits, saturating; a 32-bit result is sign-extended (Table 3-3, R60). -/
def State.toInteger (s : State) (w : BitVec 32) (rd : BitVec 5) (rm : BitVec 3) (rs1 : BitVec 5) (n : Nat) (sgn : Bool) :
    Out :=
  s.rounding w rm (fun m =>
    let r := (Fmt.f32.val (s.rf rs1)).toIntSat m n sgn
    s.putXF s.cur rd (sx n r.1) r.2)

/-- FcvtWS (Table 3-3). -/
def execFcvtWS (rd : BitVec 5) (rm : BitVec 3) (rs1 : BitVec 5) (s : State) : Out :=
  s.toInteger (fieldsFcvtWS rd rm rs1).toWord rd rm rs1 32 true

/-- FcvtWuS (Table 3-3). -/
def execFcvtWuS (rd : BitVec 5) (rm : BitVec 3) (rs1 : BitVec 5) (s : State) : Out :=
  s.toInteger (fieldsFcvtWuS rd rm rs1).toWord rd rm rs1 32 false

/-- FcvtLS (Table 3-3). -/
def execFcvtLS (rd : BitVec 5) (rm : BitVec 3) (rs1 : BitVec 5) (s : State) : Out :=
  s.toInteger (fieldsFcvtLS rd rm rs1).toWord rd rm rs1 64 true

/-- FcvtLuS (Table 3-3). -/
def execFcvtLuS (rd : BitVec 5) (rm : BitVec 3) (rs1 : BitVec 5) (s : State) : Out :=
  s.toInteger (fieldsFcvtLuS rd rm rs1).toWord rd rm rs1 64 false

/-- FcvtSW (Table 3-3). -/
def execFcvtSW (rd : BitVec 5) (rm : BitVec 3) (rs1 : BitVec 5) (s : State) : Out :=
  s.rounding (fieldsFcvtSW rd rm rs1).toWord rm (fun m => s.putF s.cur rd (Fmt.f32.ofInt m false (toInt 32 (s.rx rs1).toNat) 0))

/-- FcvtSWu (Table 3-3). -/
def execFcvtSWu (rd : BitVec 5) (rm : BitVec 3) (rs1 : BitVec 5) (s : State) : Out :=
  s.rounding (fieldsFcvtSWu rd rm rs1).toWord rm (fun m => s.putF s.cur rd (Fmt.f32.ofInt m false (((s.rx rs1).toNat % 2 ^ 32 : Nat)) 0))

/-- FcvtSL (Table 3-3). -/
def execFcvtSL (rd : BitVec 5) (rm : BitVec 3) (rs1 : BitVec 5) (s : State) : Out :=
  s.rounding (fieldsFcvtSL rd rm rs1).toWord rm (fun m => s.putF s.cur rd (Fmt.f32.ofInt m false ((s.rx rs1).toInt) 0))

/-- FcvtSLu (Table 3-3). -/
def execFcvtSLu (rd : BitVec 5) (rm : BitVec 3) (rs1 : BitVec 5) (s : State) : Out :=
  s.rounding (fieldsFcvtSLu rd rm rs1).toWord rm (fun m => s.putF s.cur rd (Fmt.f32.ofInt m false (((s.rx rs1).toNat : Int)) 0))

/-- fmv.x.w (Table 3-3). -/
def execFmvXW (rd rs1 : BitVec 5) (s : State) : Out :=
  s.plainF (fieldsFmvXW rd rs1).toWord (s.putX s.cur rd (sx 32 (s.rf rs1)))

/-- fclass.s (Table 3-3). -/
def execFclassS (rd rs1 : BitVec 5) (s : State) : Out :=
  s.plainF (fieldsFclassS rd rs1).toWord (s.putX s.cur rd (word (Fmt.f32.fclass (s.rf rs1))))

/-- FeqS (Table 3-3). -/
def execFeqS (rd rs1 rs2 : BitVec 5) (s : State) : Out :=
  s.plainF (fieldsFeqS rd rs1 rs2).toWord
    (let r := Fmt.f32.feq (s.rf rs1) (s.rf rs2); s.putXF s.cur rd (wordOfBool r.1) r.2)

/-- FltS (Table 3-3). -/
def execFltS (rd rs1 rs2 : BitVec 5) (s : State) : Out :=
  s.plainF (fieldsFltS rd rs1 rs2).toWord
    (let r := Fmt.f32.flt (s.rf rs1) (s.rf rs2); s.putXF s.cur rd (wordOfBool r.1) r.2)

/-- FleS (Table 3-3). -/
def execFleS (rd rs1 rs2 : BitVec 5) (s : State) : Out :=
  s.plainF (fieldsFleS rd rs1 rs2).toWord
    (let r := Fmt.f32.fle (s.rf rs1) (s.rf rs2); s.putXF s.cur rd (wordOfBool r.1) r.2)

/-- fmv.w.x (Table 3-3). -/
def execFmvWX (rd rs1 : BitVec 5) (s : State) : Out :=
  s.plainF (fieldsFmvWX rd rs1).toWord (s.putF s.cur rd ((s.rx rs1).toNat % 2 ^ 32, 0))

end Sys2Proof.Machine
end

