-- ==== Sys2Proof/Machine/VecArith.lean ====
section
/-!
DEFINITION. Vector arithmetic, masks and conversions: each enters the VAQ at its scalar retirement (R36, R37, R81 to R97, R171, R172).
-/
namespace Sys2Proof.Machine

/-- Whether the vetype in force is an integer type (R37). -/
def State.intTy (s : State) : Bool := isIntTy s.vec.vetype

/-- Whether it is f16, bf16 or f32 (R37). -/
def State.fpTy (s : State) : Bool := (fmtOf s.vec.vetype).isSome

/-- A register of the [19:15] field: a vector register where s is 0 (R30). -/
def State.vregS (s : State) (r : BitVec 5) (sc : BitVec 1) : Bool := decide (sc = 1) || s.vreg r

/-- An x operand in the [19:15] field, where s is 1 (R64). -/
def State.capX (s : State) (r : BitVec 5) : Captured := { Captured.none with x1 := s.rx r }

/-- The scalar operand of a form with s (R36, R64): X for integer and narrow types, F for floating-point ones. -/
def State.capS (s : State) (r : BitVec 5) (sc : BitVec 1) : Captured :=
  if sc = 0 then Captured.none
  else if s.fpTy then { Captured.none with fv := s.f s.cur r.toNat }
  else s.capX r

/-- A form with s that reads an f register is illegal while FS is Off (R61). -/
def State.fsS (s : State) (sc : BitVec 1) : Bool := !(decide (sc = 1) && s.fpTy && s.fsOff s.cur)

/-- A vector arithmetic instruction of the current hart enters the VAQ where it is legal (R72, R77). -/
def State.toVaq (s : State) (w : BitVec 32) (ok : Bool) (op : VOp) (c : Captured) : Out :=
  s.own w ok (s.enqueue s.cur .vaq op w c)

/-- vadd (R86). -/
def execVadd (d : BitVec 5) (k : BitVec 3) (v1 : BitVec 5) (v2 : BitVec 5) (s_ : BitVec 1) (s : State) : Out :=
  s.toVaq (fieldsVadd d k v1 v2 s_).toWord
    (s.intTy && s.vreg d && s.vreg v2 && s.vregS v1 s_)
    (.int .add (s_ = 1) d.toNat v2.toNat v1.toNat k.toNat) (s.capS v1 s_)

/-- vsub (R86). -/
def execVsub (d : BitVec 5) (k : BitVec 3) (v1 : BitVec 5) (v2 : BitVec 5) (s_ : BitVec 1) (s : State) : Out :=
  s.toVaq (fieldsVsub d k v1 v2 s_).toWord
    (s.intTy && s.vreg d && s.vreg v2 && s.vregS v1 s_)
    (.int .sub (s_ = 1) d.toNat v2.toNat v1.toNat k.toNat) (s.capS v1 s_)

/-- vmul (R86). -/
def execVmul (d : BitVec 5) (k : BitVec 3) (v1 : BitVec 5) (v2 : BitVec 5) (s_ : BitVec 1) (s : State) : Out :=
  s.toVaq (fieldsVmul d k v1 v2 s_).toWord
    (s.intTy && s.vreg d && s.vreg v2 && s.vregS v1 s_)
    (.int .mul (s_ = 1) d.toNat v2.toNat v1.toNat k.toNat) (s.capS v1 s_)

/-- vmulh (R86). -/
def execVmulh (d : BitVec 5) (k : BitVec 3) (v1 : BitVec 5) (v2 : BitVec 5) (s_ : BitVec 1) (s : State) : Out :=
  s.toVaq (fieldsVmulh d k v1 v2 s_).toWord
    (s.intTy && s.vreg d && s.vreg v2 && s.vregS v1 s_)
    (.int .mulh (s_ = 1) d.toNat v2.toNat v1.toNat k.toNat) (s.capS v1 s_)

/-- vmulhu (R86). -/
def execVmulhu (d : BitVec 5) (k : BitVec 3) (v1 : BitVec 5) (v2 : BitVec 5) (s_ : BitVec 1) (s : State) : Out :=
  s.toVaq (fieldsVmulhu d k v1 v2 s_).toWord
    (s.intTy && s.vreg d && s.vreg v2 && s.vregS v1 s_)
    (.int .mulhu (s_ = 1) d.toNat v2.toNat v1.toNat k.toNat) (s.capS v1 s_)

/-- vmacc (R86). -/
def execVmacc (d : BitVec 5) (k : BitVec 3) (v1 : BitVec 5) (v2 : BitVec 5) (s_ : BitVec 1) (s : State) : Out :=
  s.toVaq (fieldsVmacc d k v1 v2 s_).toWord
    (s.intTy && s.vreg d && s.vreg v2 && s.vregS v1 s_)
    (.int .macc (s_ = 1) d.toNat v2.toNat v1.toNat k.toNat) (s.capS v1 s_)

/-- vand (R86). -/
def execVand (d : BitVec 5) (k : BitVec 3) (v1 : BitVec 5) (v2 : BitVec 5) (s_ : BitVec 1) (s : State) : Out :=
  s.toVaq (fieldsVand d k v1 v2 s_).toWord
    (s.intTy && s.vreg d && s.vreg v2 && s.vregS v1 s_)
    (.int .and (s_ = 1) d.toNat v2.toNat v1.toNat k.toNat) (s.capS v1 s_)

/-- vor (R86). -/
def execVor (d : BitVec 5) (k : BitVec 3) (v1 : BitVec 5) (v2 : BitVec 5) (s_ : BitVec 1) (s : State) : Out :=
  s.toVaq (fieldsVor d k v1 v2 s_).toWord
    (s.intTy && s.vreg d && s.vreg v2 && s.vregS v1 s_)
    (.int .or (s_ = 1) d.toNat v2.toNat v1.toNat k.toNat) (s.capS v1 s_)

/-- vxor (R86). -/
def execVxor (d : BitVec 5) (k : BitVec 3) (v1 : BitVec 5) (v2 : BitVec 5) (s_ : BitVec 1) (s : State) : Out :=
  s.toVaq (fieldsVxor d k v1 v2 s_).toWord
    (s.intTy && s.vreg d && s.vreg v2 && s.vregS v1 s_)
    (.int .xor (s_ = 1) d.toNat v2.toNat v1.toNat k.toNat) (s.capS v1 s_)

/-- vsll (R86). -/
def execVsll (d : BitVec 5) (k : BitVec 3) (v1 : BitVec 5) (v2 : BitVec 5) (s_ : BitVec 1) (s : State) : Out :=
  s.toVaq (fieldsVsll d k v1 v2 s_).toWord
    (s.intTy && s.vreg d && s.vreg v2 && s.vregS v1 s_)
    (.int .sll (s_ = 1) d.toNat v2.toNat v1.toNat k.toNat) (s.capS v1 s_)

/-- vsrl (R86). -/
def execVsrl (d : BitVec 5) (k : BitVec 3) (v1 : BitVec 5) (v2 : BitVec 5) (s_ : BitVec 1) (s : State) : Out :=
  s.toVaq (fieldsVsrl d k v1 v2 s_).toWord
    (s.intTy && s.vreg d && s.vreg v2 && s.vregS v1 s_)
    (.int .srl (s_ = 1) d.toNat v2.toNat v1.toNat k.toNat) (s.capS v1 s_)

/-- vsra (R86). -/
def execVsra (d : BitVec 5) (k : BitVec 3) (v1 : BitVec 5) (v2 : BitVec 5) (s_ : BitVec 1) (s : State) : Out :=
  s.toVaq (fieldsVsra d k v1 v2 s_).toWord
    (s.intTy && s.vreg d && s.vreg v2 && s.vregS v1 s_)
    (.int .sra (s_ = 1) d.toNat v2.toNat v1.toNat k.toNat) (s.capS v1 s_)

/-- vmin (R86). -/
def execVmin (d : BitVec 5) (k : BitVec 3) (v1 : BitVec 5) (v2 : BitVec 5) (s_ : BitVec 1) (s : State) : Out :=
  s.toVaq (fieldsVmin d k v1 v2 s_).toWord
    (s.intTy && s.vreg d && s.vreg v2 && s.vregS v1 s_)
    (.int .min (s_ = 1) d.toNat v2.toNat v1.toNat k.toNat) (s.capS v1 s_)

/-- vminu (R86). -/
def execVminu (d : BitVec 5) (k : BitVec 3) (v1 : BitVec 5) (v2 : BitVec 5) (s_ : BitVec 1) (s : State) : Out :=
  s.toVaq (fieldsVminu d k v1 v2 s_).toWord
    (s.intTy && s.vreg d && s.vreg v2 && s.vregS v1 s_)
    (.int .minu (s_ = 1) d.toNat v2.toNat v1.toNat k.toNat) (s.capS v1 s_)

/-- vmax (R86). -/
def execVmax (d : BitVec 5) (k : BitVec 3) (v1 : BitVec 5) (v2 : BitVec 5) (s_ : BitVec 1) (s : State) : Out :=
  s.toVaq (fieldsVmax d k v1 v2 s_).toWord
    (s.intTy && s.vreg d && s.vreg v2 && s.vregS v1 s_)
    (.int .max (s_ = 1) d.toNat v2.toNat v1.toNat k.toNat) (s.capS v1 s_)

/-- vmaxu (R86). -/
def execVmaxu (d : BitVec 5) (k : BitVec 3) (v1 : BitVec 5) (v2 : BitVec 5) (s_ : BitVec 1) (s : State) : Out :=
  s.toVaq (fieldsVmaxu d k v1 v2 s_).toWord
    (s.intTy && s.vreg d && s.vreg v2 && s.vregS v1 s_)
    (.int .maxu (s_ = 1) d.toNat v2.toNat v1.toNat k.toNat) (s.capS v1 s_)

/-- vseq (R87). -/
def execVseq (d : BitVec 3) (k : BitVec 3) (v1 : BitVec 5) (v2 : BitVec 5) (s_ : BitVec 1) (s : State) : Out :=
  s.toVaq (fieldsVseq d k v1 v2 s_).toWord
    (s.intTy && s.vreg v2 && s.vregS v1 s_)
    (.cmp .seq (s_ = 1) d.toNat v2.toNat v1.toNat k.toNat) (s.capS v1 s_)

/-- vsne (R87). -/
def execVsne (d : BitVec 3) (k : BitVec 3) (v1 : BitVec 5) (v2 : BitVec 5) (s_ : BitVec 1) (s : State) : Out :=
  s.toVaq (fieldsVsne d k v1 v2 s_).toWord
    (s.intTy && s.vreg v2 && s.vregS v1 s_)
    (.cmp .sne (s_ = 1) d.toNat v2.toNat v1.toNat k.toNat) (s.capS v1 s_)

/-- vslt (R87). -/
def execVslt (d : BitVec 3) (k : BitVec 3) (v1 : BitVec 5) (v2 : BitVec 5) (s_ : BitVec 1) (s : State) : Out :=
  s.toVaq (fieldsVslt d k v1 v2 s_).toWord
    (s.intTy && s.vreg v2 && s.vregS v1 s_)
    (.cmp .slt (s_ = 1) d.toNat v2.toNat v1.toNat k.toNat) (s.capS v1 s_)

/-- vsltu (R87). -/
def execVsltu (d : BitVec 3) (k : BitVec 3) (v1 : BitVec 5) (v2 : BitVec 5) (s_ : BitVec 1) (s : State) : Out :=
  s.toVaq (fieldsVsltu d k v1 v2 s_).toWord
    (s.intTy && s.vreg v2 && s.vregS v1 s_)
    (.cmp .sltu (s_ = 1) d.toNat v2.toNat v1.toNat k.toNat) (s.capS v1 s_)

/-- vsle (R87). -/
def execVsle (d : BitVec 3) (k : BitVec 3) (v1 : BitVec 5) (v2 : BitVec 5) (s_ : BitVec 1) (s : State) : Out :=
  s.toVaq (fieldsVsle d k v1 v2 s_).toWord
    (s.intTy && s.vreg v2 && s.vregS v1 s_)
    (.cmp .sle (s_ = 1) d.toNat v2.toNat v1.toNat k.toNat) (s.capS v1 s_)

/-- vsleu (R87). -/
def execVsleu (d : BitVec 3) (k : BitVec 3) (v1 : BitVec 5) (v2 : BitVec 5) (s_ : BitVec 1) (s : State) : Out :=
  s.toVaq (fieldsVsleu d k v1 v2 s_).toWord
    (s.intTy && s.vreg v2 && s.vregS v1 s_)
    (.cmp .sleu (s_ = 1) d.toNat v2.toNat v1.toNat k.toNat) (s.capS v1 s_)

/-- vfadd (R88, R61). -/
def execVfadd (d : BitVec 5) (k : BitVec 3) (v1 : BitVec 5) (v2 : BitVec 5) (s_ : BitVec 1) (s : State) : Out :=
  s.toVaq (fieldsVfadd d k v1 v2 s_).toWord
    (s.fpTy && s.vreg d && s.vreg v2 && s.vregS v1 s_ && s.fsS s_ && s.frmOk s.cur)
    (.fp .add (s_ = 1) d.toNat v2.toNat v1.toNat k.toNat) (s.capS v1 s_)

/-- vfsub (R88, R61). -/
def execVfsub (d : BitVec 5) (k : BitVec 3) (v1 : BitVec 5) (v2 : BitVec 5) (s_ : BitVec 1) (s : State) : Out :=
  s.toVaq (fieldsVfsub d k v1 v2 s_).toWord
    (s.fpTy && s.vreg d && s.vreg v2 && s.vregS v1 s_ && s.fsS s_ && s.frmOk s.cur)
    (.fp .sub (s_ = 1) d.toNat v2.toNat v1.toNat k.toNat) (s.capS v1 s_)

/-- vfmul (R88, R61). -/
def execVfmul (d : BitVec 5) (k : BitVec 3) (v1 : BitVec 5) (v2 : BitVec 5) (s_ : BitVec 1) (s : State) : Out :=
  s.toVaq (fieldsVfmul d k v1 v2 s_).toWord
    (s.fpTy && s.vreg d && s.vreg v2 && s.vregS v1 s_ && s.fsS s_ && s.frmOk s.cur)
    (.fp .mul (s_ = 1) d.toNat v2.toNat v1.toNat k.toNat) (s.capS v1 s_)

/-- vfdiv (R88, R61). -/
def execVfdiv (d : BitVec 5) (k : BitVec 3) (v1 : BitVec 5) (v2 : BitVec 5) (s_ : BitVec 1) (s : State) : Out :=
  s.toVaq (fieldsVfdiv d k v1 v2 s_).toWord
    (s.fpTy && s.vreg d && s.vreg v2 && s.vregS v1 s_ && s.fsS s_ && s.frmOk s.cur)
    (.fp .div (s_ = 1) d.toNat v2.toNat v1.toNat k.toNat) (s.capS v1 s_)

/-- vfmacc (R88, R61). -/
def execVfmacc (d : BitVec 5) (k : BitVec 3) (v1 : BitVec 5) (v2 : BitVec 5) (s_ : BitVec 1) (s : State) : Out :=
  s.toVaq (fieldsVfmacc d k v1 v2 s_).toWord
    (s.fpTy && s.vreg d && s.vreg v2 && s.vregS v1 s_ && s.fsS s_ && s.frmOk s.cur)
    (.fp .macc (s_ = 1) d.toNat v2.toNat v1.toNat k.toNat) (s.capS v1 s_)

/-- vfnmacc (R88, R61). -/
def execVfnmacc (d : BitVec 5) (k : BitVec 3) (v1 : BitVec 5) (v2 : BitVec 5) (s_ : BitVec 1) (s : State) : Out :=
  s.toVaq (fieldsVfnmacc d k v1 v2 s_).toWord
    (s.fpTy && s.vreg d && s.vreg v2 && s.vregS v1 s_ && s.fsS s_ && s.frmOk s.cur)
    (.fp .nmacc (s_ = 1) d.toNat v2.toNat v1.toNat k.toNat) (s.capS v1 s_)

/-- vfmsac (R88, R61). -/
def execVfmsac (d : BitVec 5) (k : BitVec 3) (v1 : BitVec 5) (v2 : BitVec 5) (s_ : BitVec 1) (s : State) : Out :=
  s.toVaq (fieldsVfmsac d k v1 v2 s_).toWord
    (s.fpTy && s.vreg d && s.vreg v2 && s.vregS v1 s_ && s.fsS s_ && s.frmOk s.cur)
    (.fp .msac (s_ = 1) d.toNat v2.toNat v1.toNat k.toNat) (s.capS v1 s_)

/-- vfmin (R88, R61). -/
def execVfmin (d : BitVec 5) (k : BitVec 3) (v1 : BitVec 5) (v2 : BitVec 5) (s_ : BitVec 1) (s : State) : Out :=
  s.toVaq (fieldsVfmin d k v1 v2 s_).toWord
    (s.fpTy && s.vreg d && s.vreg v2 && s.vregS v1 s_ && s.fsS s_)
    (.fp .min (s_ = 1) d.toNat v2.toNat v1.toNat k.toNat) (s.capS v1 s_)

/-- vfmax (R88, R61). -/
def execVfmax (d : BitVec 5) (k : BitVec 3) (v1 : BitVec 5) (v2 : BitVec 5) (s_ : BitVec 1) (s : State) : Out :=
  s.toVaq (fieldsVfmax d k v1 v2 s_).toWord
    (s.fpTy && s.vreg d && s.vreg v2 && s.vregS v1 s_ && s.fsS s_)
    (.fp .max (s_ = 1) d.toNat v2.toNat v1.toNat k.toNat) (s.capS v1 s_)

/-- vfsgnj (R88, R61). -/
def execVfsgnj (d : BitVec 5) (k : BitVec 3) (v1 : BitVec 5) (v2 : BitVec 5) (s_ : BitVec 1) (s : State) : Out :=
  s.toVaq (fieldsVfsgnj d k v1 v2 s_).toWord
    (s.fpTy && s.vreg d && s.vreg v2 && s.vregS v1 s_ && s.fsS s_)
    (.fp .sgnj (s_ = 1) d.toNat v2.toNat v1.toNat k.toNat) (s.capS v1 s_)

/-- vfsqrt (R88). -/
def execVfsqrt (d : BitVec 5) (k : BitVec 3) (v2 : BitVec 5) (s : State) : Out :=
  s.toVaq (fieldsVfsqrt d k v2).toWord
    (s.fpTy && s.vreg d && s.vreg v2 && s.frmOk s.cur)
    (.fp .sqrt false d.toNat v2.toNat 0 k.toNat) Captured.none

/-- vfclass (R88). -/
def execVfclass (d : BitVec 5) (k : BitVec 3) (v2 : BitVec 5) (s : State) : Out :=
  s.toVaq (fieldsVfclass d k v2).toWord
    (s.fpTy && s.vreg d && s.vreg v2)
    (.fp .class false d.toNat v2.toNat 0 k.toNat) Captured.none

/-- vfeq (R89). -/
def execVfeq (d : BitVec 3) (k : BitVec 3) (v1 : BitVec 5) (v2 : BitVec 5) (s_ : BitVec 1) (s : State) : Out :=
  s.toVaq (fieldsVfeq d k v1 v2 s_).toWord
    (s.fpTy && s.vreg v2 && s.vregS v1 s_ && s.fsS s_)
    (.cmp .feq (s_ = 1) d.toNat v2.toNat v1.toNat k.toNat) (s.capS v1 s_)

/-- vflt (R89). -/
def execVflt (d : BitVec 3) (k : BitVec 3) (v1 : BitVec 5) (v2 : BitVec 5) (s_ : BitVec 1) (s : State) : Out :=
  s.toVaq (fieldsVflt d k v1 v2 s_).toWord
    (s.fpTy && s.vreg v2 && s.vregS v1 s_ && s.fsS s_)
    (.cmp .flt (s_ = 1) d.toNat v2.toNat v1.toNat k.toNat) (s.capS v1 s_)

/-- vfle (R89). -/
def execVfle (d : BitVec 3) (k : BitVec 3) (v1 : BitVec 5) (v2 : BitVec 5) (s_ : BitVec 1) (s : State) : Out :=
  s.toVaq (fieldsVfle d k v1 v2 s_).toWord
    (s.fpTy && s.vreg v2 && s.vregS v1 s_ && s.fsS s_)
    (.cmp .fle (s_ = 1) d.toNat v2.toNat v1.toNat k.toNat) (s.capS v1 s_)

/-- vmv (R90). -/
def execVmv (d : BitVec 5) (k : BitVec 3) (v1 : BitVec 5) (s_ : BitVec 1) (s : State) : Out :=
  s.toVaq (fieldsVmv d k v1 s_).toWord
    (s.tyOk && s.vreg d && s.vregS v1 s_ && s.fsS s_)
    (.mv (s_ = 1) d.toNat v1.toNat k.toNat) (s.capS v1 s_)

/-- vmvxs: X[xd] is written when the VAQ returns the element (R91). -/
def execVmvxs (d : BitVec 5) (v2 : BitVec 5) (s : State) : Out :=
  s.toVaq (fieldsVmvxs d v2).toWord
    (s.tyOk && s.vreg v2)
    (.mvxs d.toNat v2.toNat) Captured.none

/-- vmerge (R92). -/
def execVmerge (d : BitVec 5) (k : BitVec 3) (v1 : BitVec 5) (v2 : BitVec 5) (s_ : BitVec 1) (s : State) : Out :=
  s.toVaq (fieldsVmerge d k v1 v2 s_).toWord
    (s.tyOk && s.vreg d && s.vreg v2 && s.vregS v1 s_ && s.fsS s_)
    (.merge (s_ = 1) d.toNat v2.toNat v1.toNat k.toNat) (s.capS v1 s_)

/-- vslideup: OFF is X[xs1]; vd may not be vs2 (R81, R93). -/
def execVslideup (d : BitVec 5) (k : BitVec 3) (v1 : BitVec 5) (v2 : BitVec 5) (s : State) : Out :=
  s.toVaq (fieldsVslideup d k v1 v2).toWord
    (s.tyOk && s.vreg d && s.vreg v2 && decide (d ≠ v2))
    (.slideup d.toNat v2.toNat k.toNat) (s.capX v1)

/-- vslidedn (R81, R93). -/
def execVslidedn (d : BitVec 5) (k : BitVec 3) (v1 : BitVec 5) (v2 : BitVec 5) (s : State) : Out :=
  s.toVaq (fieldsVslidedn d k v1 v2).toWord
    (s.tyOk && s.vreg d && s.vreg v2 && decide (d ≠ v2))
    (.slidedn d.toNat v2.toNat k.toNat) (s.capX v1)

/-- vperm: vd may be neither source (R81, R93). -/
def execVperm (d : BitVec 5) (k : BitVec 3) (v1 : BitVec 5) (v2 : BitVec 5) (s : State) : Out :=
  s.toVaq (fieldsVperm d k v1 v2).toWord
    (s.tyOk && s.vreg d && s.vreg v2 && s.vreg v1 && decide (d ≠ v2) && decide (d ≠ v1))
    (.perm d.toNat v2.toNat v1.toNat k.toNat) Captured.none

/-- vcompress (R81, R93). -/
def execVcompress (d : BitVec 5) (k : BitVec 3) (v2 : BitVec 5) (s : State) : Out :=
  s.toVaq (fieldsVcompress d k v2).toWord
    (s.tyOk && s.vreg d && s.vreg v2 && decide (d ≠ v2))
    (.compress d.toNat v2.toNat k.toNat) Captured.none

/-- vid (R93). -/
def execVid (d : BitVec 5) (k : BitVec 3) (s : State) : Out :=
  s.toVaq (fieldsVid d k).toWord
    (s.tyOk && s.vreg d)
    (.vid d.toNat k.toNat) Captured.none

/-- viota (R93). -/
def execViota (d : BitVec 5) (k : BitVec 3) (s : State) : Out :=
  s.toVaq (fieldsViota d k).toWord
    (s.tyOk && s.vreg d)
    (.viota d.toNat k.toNat) Captured.none

/-- vredsum (R94, R95). -/
def execVredsum (d : BitVec 5) (k : BitVec 3) (v1 : BitVec 5) (v2 : BitVec 5) (s : State) : Out :=
  s.toVaq (fieldsVredsum d k v1 v2).toWord
    (s.intTy && s.vreg d && s.vreg v2 && s.vreg v1)
    (.red .sum d.toNat v2.toNat v1.toNat k.toNat) Captured.none

/-- vredosum (R94, R95). -/
def execVredosum (d : BitVec 5) (k : BitVec 3) (v1 : BitVec 5) (v2 : BitVec 5) (s : State) : Out :=
  s.toVaq (fieldsVredosum d k v1 v2).toWord
    (s.intTy && s.vreg d && s.vreg v2 && s.vreg v1)
    (.red .osum d.toNat v2.toNat v1.toNat k.toNat) Captured.none

/-- vredmin (R94, R95). -/
def execVredmin (d : BitVec 5) (k : BitVec 3) (v1 : BitVec 5) (v2 : BitVec 5) (s : State) : Out :=
  s.toVaq (fieldsVredmin d k v1 v2).toWord
    (s.intTy && s.vreg d && s.vreg v2 && s.vreg v1)
    (.red .min d.toNat v2.toNat v1.toNat k.toNat) Captured.none

/-- vredmax (R94, R95). -/
def execVredmax (d : BitVec 5) (k : BitVec 3) (v1 : BitVec 5) (v2 : BitVec 5) (s : State) : Out :=
  s.toVaq (fieldsVredmax d k v1 v2).toWord
    (s.intTy && s.vreg d && s.vreg v2 && s.vreg v1)
    (.red .max d.toNat v2.toNat v1.toNat k.toNat) Captured.none

/-- vfredsum (R94, R95). -/
def execVfredsum (d : BitVec 5) (k : BitVec 3) (v1 : BitVec 5) (v2 : BitVec 5) (s : State) : Out :=
  s.toVaq (fieldsVfredsum d k v1 v2).toWord
    (s.fpTy && s.vreg d && s.vreg v2 && s.vreg v1 && s.frmOk s.cur)
    (.red .fsum d.toNat v2.toNat v1.toNat k.toNat) Captured.none

/-- vfredosum (R94, R95). -/
def execVfredosum (d : BitVec 5) (k : BitVec 3) (v1 : BitVec 5) (v2 : BitVec 5) (s : State) : Out :=
  s.toVaq (fieldsVfredosum d k v1 v2).toWord
    (s.fpTy && s.vreg d && s.vreg v2 && s.vreg v1 && s.frmOk s.cur)
    (.red .fosum d.toNat v2.toNat v1.toNat k.toNat) Captured.none

/-- vfredmin (R94, R95). -/
def execVfredmin (d : BitVec 5) (k : BitVec 3) (v1 : BitVec 5) (v2 : BitVec 5) (s : State) : Out :=
  s.toVaq (fieldsVfredmin d k v1 v2).toWord
    (s.fpTy && s.vreg d && s.vreg v2 && s.vreg v1)
    (.red .fmin d.toNat v2.toNat v1.toNat k.toNat) Captured.none

/-- vfredmax (R94, R95). -/
def execVfredmax (d : BitVec 5) (k : BitVec 3) (v1 : BitVec 5) (v2 : BitVec 5) (s : State) : Out :=
  s.toVaq (fieldsVfredmax d k v1 v2).toWord
    (s.fpTy && s.vreg d && s.vreg v2 && s.vreg v1)
    (.red .fmax d.toNat v2.toNat v1.toNat k.toNat) Captured.none

/-- kand (R96). -/
def execKand (d : BitVec 3) (v1 : BitVec 3) (v2 : BitVec 3) (s : State) : Out :=
  s.toVaq (fieldsKand d v1 v2).toWord
    s.tyOk
    (.mask .and d.toNat v2.toNat v1.toNat) Captured.none

/-- kor (R96). -/
def execKor (d : BitVec 3) (v1 : BitVec 3) (v2 : BitVec 3) (s : State) : Out :=
  s.toVaq (fieldsKor d v1 v2).toWord
    s.tyOk
    (.mask .or d.toNat v2.toNat v1.toNat) Captured.none

/-- kxor (R96). -/
def execKxor (d : BitVec 3) (v1 : BitVec 3) (v2 : BitVec 3) (s : State) : Out :=
  s.toVaq (fieldsKxor d v1 v2).toWord
    s.tyOk
    (.mask .xor d.toNat v2.toNat v1.toNat) Captured.none

/-- kpopc (R96, R91). -/
def execKpopc (d : BitVec 5) (v2 : BitVec 3) (s : State) : Out :=
  s.toVaq (fieldsKpopc d v2).toWord
    s.tyOk
    (.kpopc d.toNat v2.toNat) Captured.none

/-- kfirst (R96, R91). -/
def execKfirst (d : BitVec 5) (v2 : BitVec 3) (s : State) : Out :=
  s.toVaq (fieldsKfirst d v2).toWord
    s.tyOk
    (.kfirst d.toNat v2.toNat) Captured.none

/-- kmv (R96). -/
def execKmv (d : BitVec 3) (v2 : BitVec 3) (s : State) : Out :=
  s.toVaq (fieldsKmv d v2).toWord
    s.tyOk
    (.kmv d.toNat v2.toNat) Captured.none

/-- vbvrd (R171, R91). -/
def execVbvrd (d : BitVec 5) (w : BitVec 2) (v2 : BitVec 5) (s : State) : Out :=
  s.toVaq (fieldsVbvrd d w v2).toWord
    (s.tyOk && s.vreg v2)
    (.bvrd d.toNat v2.toNat w.toNat) Captured.none

/-- vbvwr (R171). -/
def execVbvwr (d : BitVec 5) (rs1 : BitVec 5) (w : BitVec 2) (s : State) : Out :=
  s.toVaq (fieldsVbvwr d rs1 w).toWord
    (s.tyOk && s.vreg d)
    (.bvwr d.toNat w.toNat) (s.capX rs1)

/-- Whether vcvt may go from the vetype in force to a type (R61, R81, R97, R172). -/
def State.cvtOk (s : State) (ty : BitVec 4) (d v2 : BitVec 5) : Bool :=
  let src := s.vec.vetype
  let l8 := fun (t : BitVec 4) => decide (t.toNat = 11)
  typeDefined ty && (l8 src == l8 ty) && (decide (d ≠ v2) || decide (ebits src = ebits ty)) &&
    decide (s.vec.vl ≤ vlmax s.vec.ncode ty) && ((isIntTy src && isIntTy ty) || l8 ty || s.frmOk s.cur)

/-- vcvt (R97, R172). -/
def execVcvt (d : BitVec 5) (k : BitVec 3) (ty : BitVec 4) (v2 : BitVec 5) (s : State) : Out :=
  s.toVaq (fieldsVcvt d k ty v2).toWord
    (s.tyOk && s.vreg d && s.vreg v2 && s.cvtOk ty d v2)
    (.cvt d.toNat v2.toNat ty k.toNat) Captured.none

end Sys2Proof.Machine
end

