-- ==== Sys2Proof/Machine/VecAccess.lean ====
section
/-!
DEFINITION. Vector memory, quantised, full/empty and stream instructions: each enters the VLQ or VSQ at its scalar retirement (R38, R104, R157, R202, R221).
-/
namespace Sys2Proof.Machine

/-- A vector load of the current hart enters the VLQ where it is legal. -/
def State.toVlq (s : State) (w : BitVec 32) (ok : Bool) (op : VOp) (c : Captured) : Out :=
  s.own w ok (s.enqueue s.cur .vlq op w c)

/-- A vector store of the current hart enters the VSQ where it is legal. -/
def State.toVsq (s : State) (w : BitVec 32) (ok : Bool) (op : VOp) (c : Captured) : Out :=
  s.own w ok (s.enqueue s.cur .vsq op w c)

/-- The base in xs1. -/
def State.base1 (s : State) (r : BitVec 5) : Captured := { Captured.none with x1 := s.rx r }

/-- The base in xs1 and the stride in xs2. -/
def State.base2 (s : State) (r q : BitVec 5) : Captured := { Captured.none with x1 := s.rx r, x2 := s.rx q }

/-- Every defined type except e2m1 (R104). -/
def State.notE2m1 (s : State) : Bool := s.tyOk && decide (s.vec.vetype.toNat ≠ 10)

/-- i32, i64 or f32, as the atomics accept (R104). -/
def State.amoTy (s : State) : Bool :=
  decide (s.vec.vetype.toNat = 2) || decide (s.vec.vetype.toNat = 3) || decide (s.vec.vetype.toNat = 6)

/-- Whether the endpoint that X[xs1] names is open in a role, and not kept for a parked task (R221, R223). -/
def State.epOk (s : State) (r : BitVec 5) (recv : Bool) : Bool :=
  decide ((s.rx r).toNat ≤ 3) &&
    (match s.endpoint s.cur (s.rx r).toNat with | some x => x.recv == recv && x.parked.isNone | none => false)

/-- vld (R104 to R109). -/
def execVld (d : BitVec 5) (k : BitVec 3) (rs1 : BitVec 5) (nt : BitVec 1) (s : State) : Out :=
  s.toVlq (fieldsVld d k rs1 nt).toWord
    (s.tyOk && s.vreg d)
    (.ld .unit (nt = 1) d.toNat 0 k.toNat) (s.base1 rs1)

/-- vst (R104 to R109). -/
def execVst (d : BitVec 5) (k : BitVec 3) (rs1 : BitVec 5) (nt : BitVec 1) (s : State) : Out :=
  s.toVsq (fieldsVst d k rs1 nt).toWord
    (s.tyOk && s.vreg d)
    (.st .unit (nt = 1) d.toNat 0 k.toNat) (s.base1 rs1)

/-- vlds (R110). -/
def execVlds (d : BitVec 5) (k : BitVec 3) (rs1 : BitVec 5) (rs2 : BitVec 5) (nt : BitVec 1) (s : State) : Out :=
  s.toVlq (fieldsVlds d k rs1 rs2 nt).toWord
    (s.vreg d && s.notE2m1)
    (.ld .stride (nt = 1) d.toNat 0 k.toNat) (s.base2 rs1 rs2)

/-- vsts (R110). -/
def execVsts (d : BitVec 5) (k : BitVec 3) (rs1 : BitVec 5) (rs2 : BitVec 5) (nt : BitVec 1) (s : State) : Out :=
  s.toVsq (fieldsVsts d k rs1 rs2 nt).toWord
    (s.vreg d && s.notE2m1)
    (.st .stride (nt = 1) d.toNat 0 k.toNat) (s.base2 rs1 rs2)

/-- vldx (R110). -/
def execVldx (d : BitVec 5) (k : BitVec 3) (rs1 : BitVec 5) (v2 : BitVec 5) (nt : BitVec 1) (s : State) : Out :=
  s.toVlq (fieldsVldx d k rs1 v2 nt).toWord
    (s.vreg d && s.vreg v2 && s.notE2m1)
    (.ld .index (nt = 1) d.toNat v2.toNat k.toNat) (s.base1 rs1)

/-- vstx (R110). -/
def execVstx (d : BitVec 5) (k : BitVec 3) (rs1 : BitVec 5) (v2 : BitVec 5) (nt : BitVec 1) (s : State) : Out :=
  s.toVsq (fieldsVstx d k rs1 v2 nt).toWord
    (s.vreg d && s.vreg v2 && s.notE2m1)
    (.st .index (nt = 1) d.toNat v2.toNat k.toNat) (s.base1 rs1)

/-- vpref (R112). -/
def execVpref (rs1 : BitVec 5) (nt : BitVec 1) (s : State) : Out :=
  s.toVlq (fieldsVpref rs1 nt).toWord
    s.tyOk
    (.pref (nt = 1)) (s.base1 rs1)

/-- vldfe (R202). -/
def execVldfe (d : BitVec 5) (k : BitVec 3) (rs1 : BitVec 5) (s : State) : Out :=
  s.toVlq (fieldsVldfe d k rs1).toWord
    (s.vreg d && s.notE2m1)
    (.ldfe d.toNat k.toNat) (s.base1 rs1)

/-- vstfe (R202). -/
def execVstfe (d : BitVec 5) (k : BitVec 3) (rs1 : BitVec 5) (s : State) : Out :=
  s.toVsq (fieldsVstfe d k rs1).toWord
    (s.vreg d && s.notE2m1)
    (.stfe d.toNat k.toNat) (s.base1 rs1)

/-- vqld (R157, R158, R61). -/
def execVqld (d : BitVec 5) (rs1 : BitVec 5) (fmt : BitVec 4) (s : State) : Out :=
  s.toVlq (fieldsVqld d rs1 fmt).toWord
    (s.vreg d && s.fpTy && decide (s.vec.vl % 32 = 0) && decide (fmt.toNat < 6) && s.frmOk s.cur)
    (.qld d.toNat fmt.toNat) (s.base1 rs1)

/-- vqst (R157, R159 to R164). -/
def execVqst (d : BitVec 5) (rs1 : BitVec 5) (fmt : BitVec 4) (ly : BitVec 2) (s : State) : Out :=
  s.toVsq (fieldsVqst d rs1 fmt ly).toWord
    (s.vreg d && s.fpTy && decide (s.vec.vl % 32 = 0) && decide (fmt.toNat < 6))
    (.qst d.toNat fmt.toNat ly.toNat) (s.base1 rs1)

/-- vamoadd (R111, R61). -/
def execVamoadd (d : BitVec 5) (k : BitVec 3) (rs1 : BitVec 5) (v2 : BitVec 5) (s : State) : Out :=
  s.toVsq (fieldsVamoadd d k rs1 v2).toWord
    (s.vreg d && s.vreg v2 && s.amoTy && (s.vec.vetype.toNat != 6 || s.frmOk s.cur))
    (.amo .add d.toNat v2.toNat k.toNat) (s.base1 rs1)

/-- vamomin (R111). -/
def execVamomin (d : BitVec 5) (k : BitVec 3) (rs1 : BitVec 5) (v2 : BitVec 5) (s : State) : Out :=
  s.toVsq (fieldsVamomin d k rs1 v2).toWord
    (s.vreg d && s.vreg v2 && s.amoTy)
    (.amo .min d.toNat v2.toNat k.toNat) (s.base1 rs1)

/-- vamomax (R111). -/
def execVamomax (d : BitVec 5) (k : BitVec 3) (rs1 : BitVec 5) (v2 : BitVec 5) (s : State) : Out :=
  s.toVsq (fieldsVamomax d k rs1 v2).toWord
    (s.vreg d && s.vreg v2 && s.amoTy)
    (.amo .max d.toNat v2.toNat k.toNat) (s.base1 rs1)

/-- vsend (R221). -/
def execVsend (d : BitVec 5) (rs1 : BitVec 5) (s : State) : Out :=
  s.toVsq (fieldsVsend d rs1).toWord
    (s.vreg d && s.epOk rs1 false)
    (.send d.toNat) (s.base1 rs1)

/-- vrecv (R221). -/
def execVrecv (d : BitVec 5) (rs1 : BitVec 5) (s : State) : Out :=
  s.toVlq (fieldsVrecv d rs1).toWord
    (s.vreg d && s.epOk rs1 true)
    (.recv d.toNat) (s.base1 rs1)

end Sys2Proof.Machine
end

