-- ==== Sys2Proof/Machine/VecShade.lean ====
section
/-!
DEFINITION. vmma, and the ray, tree-query, raster and texture instructions: each enters the VAQ or VLQ (R175, R285, R286, R297, R301, R304).
-/
namespace Sys2Proof.Machine

/-- fs3 is 0 or 16 (R39). -/
def State.scaleRegs (_s : State) (r : BitVec 5) : Bool := decide (r = 0) || decide (r = 16)

/-- F[fs3] to F[fs3+15] as captured (R175). -/
def State.capScales (s : State) (r : BitVec 5) : Captured :=
  { Captured.none with scales := (List.range 16).map (fun i => s.f s.cur (r.toNat + i)) }

/-- f32 or i32, and VL a multiple of 32, as the slot instructions need (R286). -/
def State.slotOk (s : State) : Bool :=
  (decide (s.vec.vetype.toNat = 2) || decide (s.vec.vetype.toNat = 6)) && decide (s.vec.vl % 32 = 0)

/-- Bits from lo on of X[xs2] are 0 (Table 12-2). -/
def State.x2below (s : State) (r : BitVec 5) (lo : Nat) : Bool := decide ((s.rx r).toNat < 2 ^ lo)

/-- X[xs2] as captured. -/
def State.cap2 (s : State) (r : BitVec 5) : Captured := { Captured.none with x2 := s.rx r }

/-- vmma.e4e4 (R175 to R178): the scale registers are captured. -/
def execVmmaE4e4 (d : BitVec 5) (v1 : BitVec 5) (v2 : BitVec 5) (fs3 : BitVec 5) (s : State) : Out :=
  s.toVaq (fieldsVmmaE4e4 d v1 v2 fs3).toWord
    (s.vreg d && s.vreg v1 && s.vreg v2 && s.scaleRegs fs3 && !s.fsOff s.cur)
    (.mma .e4e4 d.toNat v1.toNat v2.toNat) (s.capScales fs3)

/-- vmma.e5e4 (R175 to R178): the scale registers are captured. -/
def execVmmaE5e4 (d : BitVec 5) (v1 : BitVec 5) (v2 : BitVec 5) (fs3 : BitVec 5) (s : State) : Out :=
  s.toVaq (fieldsVmmaE5e4 d v1 v2 fs3).toWord
    (s.vreg d && s.vreg v1 && s.vreg v2 && s.scaleRegs fs3 && !s.fsOff s.cur)
    (.mma .e5e4 d.toNat v1.toNat v2.toNat) (s.capScales fs3)

/-- vmma.bf16 (R175 to R178): the scale registers are captured. -/
def execVmmaBf16 (d : BitVec 5) (v1 : BitVec 5) (v2 : BitVec 5) (fs3 : BitVec 5) (s : State) : Out :=
  s.toVaq (fieldsVmmaBf16 d v1 v2 fs3).toWord
    (s.vreg d && s.vreg v1 && s.vreg v2 && s.scaleRegs fs3 && !s.fsOff s.cur)
    (.mma .bf16 d.toNat v1.toNat v2.toNat) (s.capScales fs3)

/-- vmma.e4q (R175 to R178): the scale registers are captured. -/
def execVmmaE4q (d : BitVec 5) (v1 : BitVec 5) (v2 : BitVec 5) (fs3 : BitVec 5) (s : State) : Out :=
  s.toVaq (fieldsVmmaE4q d v1 v2 fs3).toWord
    (s.vreg d && s.vreg v1 && s.vreg v2 && s.scaleRegs fs3 && !s.fsOff s.cur)
    (.mma .e4q d.toNat v1.toNat v2.toNat) (s.capScales fs3)

/-- rbox (R286 and its own rule). -/
def execRbox (d : BitVec 5) (v1 : BitVec 5) (rs2 : BitVec 5) (s : State) : Out :=
  s.toVaq (fieldsRbox d v1 rs2).toWord
    (s.slotOk && s.vreg d && s.vreg v1 && s.x2below rs2 1)
    (.ray .rbox d.toNat v1.toNat 0) (s.cap2 rs2)

/-- rtri (R286 and its own rule). -/
def execRtri (d : BitVec 5) (v1 : BitVec 5) (rs2 : BitVec 5) (s : State) : Out :=
  s.toVaq (fieldsRtri d v1 rs2).toWord
    (s.slotOk && s.vreg d && s.vreg v1 && s.x2below rs2 2)
    (.ray .rtri d.toNat v1.toNat 0) (s.cap2 rs2)

/-- qsph (R286 and its own rule). -/
def execQsph (d : BitVec 5) (v1 : BitVec 5) (rs2 : BitVec 5) (s : State) : Out :=
  s.toVaq (fieldsQsph d v1 rs2).toWord
    (s.slotOk && s.vreg d && s.vreg v1 && s.x2below rs2 1)
    (.ray .qsph d.toNat v1.toNat 0) (s.cap2 rs2)

/-- qknn (R286 and its own rule). -/
def execQknn (d : BitVec 5) (v1 : BitVec 5) (rs2 : BitVec 5) (s : State) : Out :=
  s.toVaq (fieldsQknn d v1 rs2).toWord
    (s.slotOk && s.vreg d && s.vreg v1 && s.x2below rs2 1)
    (.ray .qknn d.toNat v1.toNat 0) (s.cap2 rs2)

/-- qkey (R286 and its own rule). -/
def execQkey (d : BitVec 5) (v1 : BitVec 5) (rs2 : BitVec 5) (s : State) : Out :=
  s.toVaq (fieldsQkey d v1 rs2).toWord
    (s.slotOk && s.vreg d && s.vreg v1 && s.x2below rs2 2)
    (.ray .qkey d.toNat v1.toNat 0) (s.cap2 rs2)

/-- rcand (R286). -/
def execRcand (d : BitVec 5) (v1 : BitVec 5) (v2 : BitVec 5) (s : State) : Out :=
  s.toVaq (fieldsRcand d v1 v2).toWord (s.slotOk && s.vreg d && s.vreg v1 && s.vreg v2)
    (.ray .rcand d.toNat v1.toNat v2.toNat) Captured.none

/-- racc (R286). -/
def execRacc (d : BitVec 5) (v1 : BitVec 5) (s : State) : Out :=
  s.toVaq (fieldsRacc d v1).toWord (s.slotOk && s.vreg d && s.vreg v1)
    (.ray .racc d.toNat v1.toNat 0) Captured.none

/-- rrej (R286). -/
def execRrej (d : BitVec 5) (v1 : BitVec 5) (s : State) : Out :=
  s.toVaq (fieldsRrej d v1).toWord (s.slotOk && s.vreg d && s.vreg v1)
    (.ray .rrej d.toNat v1.toNat 0) Captured.none

/-- vedge (R297): vl, vetype and masks are ignored; positions 2 and 3 are illegal. -/
def execVedge (d : BitVec 5) (v1 : BitVec 5) (rs2 : BitVec 5) (s : State) : Out :=
  s.toVaq (fieldsVedge d v1 rs2).toWord (s.vreg d && s.vreg v1 && s.x2below rs2 33)
    (.ray .vedge d.toNat v1.toNat 0) (s.cap2 rs2)

/-- tsamp (R286, R299 to R303): a load, in the VLQ. -/
def execTsamp (d : BitVec 5) (v1 : BitVec 5) (rs2 : BitVec 5) (s : State) : Out :=
  s.toVlq (fieldsTsamp d v1 rs2).toWord
    (s.vreg d && s.vreg v1 && decide (d ≠ v1) && decide (s.vec.vetype.toNat = 2) &&
      decide (s.vec.vl ≤ regBits s.vec.ncode / 128))
    (.ray .tsamp d.toNat v1.toNat 0) (s.cap2 rs2)

/-- tfetch (R286, R299 to R303): a load, in the VLQ. -/
def execTfetch (d : BitVec 5) (v1 : BitVec 5) (rs2 : BitVec 5) (s : State) : Out :=
  s.toVlq (fieldsTfetch d v1 rs2).toWord
    (s.vreg d && s.vreg v1 && decide (d ≠ v1) && decide (s.vec.vetype.toNat = 2) &&
      decide (s.vec.vl ≤ regBits s.vec.ncode / 128))
    (.ray .tfetch d.toNat v1.toNat 0) (s.cap2 rs2)

/-- tdecode (R286, R304). -/
def execTdecode (d : BitVec 5) (v1 : BitVec 5) (rs2 : BitVec 5) (s : State) : Out :=
  s.toVaq (fieldsTdecode d v1 rs2).toWord
    (s.vreg d && s.vreg v1 && decide (d ≠ v1) && decide (s.vec.vetype.toNat = 2) && decide (s.vec.vl % 16 = 0) &&
      decide (3 ≤ (s.rx rs2).toNat) && decide ((s.rx rs2).toNat ≤ 6))
    (.ray .tdecode d.toNat v1.toNat 0) (s.cap2 rs2)

end Sys2Proof.Machine
end

