-- ==== Sys2Proof/Machine/Dispatch.lean ====
section
/-!
DEFINITION. One arm per constructor of Instr: the meaning of each instruction and of each event.
-/
namespace Sys2Proof.Machine

/-- What an instruction does to the machine, run by hart s.cur; an event is no hart's. -/
def exec (i : Instr) (s : State) : Host.Outcome State Fault Refusal :=
  match i with
  | .lui x0 x1 => Sys2Proof.Machine.execLui x0 x1 s
  | .auipc x0 x1 => Sys2Proof.Machine.execAuipc x0 x1 s
  | .jal x0 x1 => Sys2Proof.Machine.execJal x0 x1 s
  | .jalr x0 x1 x2 => Sys2Proof.Machine.execJalr x0 x1 x2 s
  | .beq x0 x1 x2 => Sys2Proof.Machine.execBeq x0 x1 x2 s
  | .bne x0 x1 x2 => Sys2Proof.Machine.execBne x0 x1 x2 s
  | .blt x0 x1 x2 => Sys2Proof.Machine.execBlt x0 x1 x2 s
  | .bge x0 x1 x2 => Sys2Proof.Machine.execBge x0 x1 x2 s
  | .bltu x0 x1 x2 => Sys2Proof.Machine.execBltu x0 x1 x2 s
  | .bgeu x0 x1 x2 => Sys2Proof.Machine.execBgeu x0 x1 x2 s
  | .lb x0 x1 x2 => Sys2Proof.Machine.execLb x0 x1 x2 s
  | .lh x0 x1 x2 => Sys2Proof.Machine.execLh x0 x1 x2 s
  | .lw x0 x1 x2 => Sys2Proof.Machine.execLw x0 x1 x2 s
  | .ld x0 x1 x2 => Sys2Proof.Machine.execLd x0 x1 x2 s
  | .lbu x0 x1 x2 => Sys2Proof.Machine.execLbu x0 x1 x2 s
  | .lhu x0 x1 x2 => Sys2Proof.Machine.execLhu x0 x1 x2 s
  | .lwu x0 x1 x2 => Sys2Proof.Machine.execLwu x0 x1 x2 s
  | .sb x0 x1 x2 => Sys2Proof.Machine.execSb x0 x1 x2 s
  | .sh x0 x1 x2 => Sys2Proof.Machine.execSh x0 x1 x2 s
  | .sw x0 x1 x2 => Sys2Proof.Machine.execSw x0 x1 x2 s
  | .sd x0 x1 x2 => Sys2Proof.Machine.execSd x0 x1 x2 s
  | .addi x0 x1 x2 => Sys2Proof.Machine.execAddi x0 x1 x2 s
  | .slti x0 x1 x2 => Sys2Proof.Machine.execSlti x0 x1 x2 s
  | .sltiu x0 x1 x2 => Sys2Proof.Machine.execSltiu x0 x1 x2 s
  | .xori x0 x1 x2 => Sys2Proof.Machine.execXori x0 x1 x2 s
  | .ori x0 x1 x2 => Sys2Proof.Machine.execOri x0 x1 x2 s
  | .andi x0 x1 x2 => Sys2Proof.Machine.execAndi x0 x1 x2 s
  | .slli x0 x1 x2 => Sys2Proof.Machine.execSlli x0 x1 x2 s
  | .srli x0 x1 x2 => Sys2Proof.Machine.execSrli x0 x1 x2 s
  | .srai x0 x1 x2 => Sys2Proof.Machine.execSrai x0 x1 x2 s
  | .addiw x0 x1 x2 => Sys2Proof.Machine.execAddiw x0 x1 x2 s
  | .slliw x0 x1 x2 => Sys2Proof.Machine.execSlliw x0 x1 x2 s
  | .srliw x0 x1 x2 => Sys2Proof.Machine.execSrliw x0 x1 x2 s
  | .sraiw x0 x1 x2 => Sys2Proof.Machine.execSraiw x0 x1 x2 s
  | .add x0 x1 x2 => Sys2Proof.Machine.execAdd x0 x1 x2 s
  | .sub x0 x1 x2 => Sys2Proof.Machine.execSub x0 x1 x2 s
  | .sll x0 x1 x2 => Sys2Proof.Machine.execSll x0 x1 x2 s
  | .slt x0 x1 x2 => Sys2Proof.Machine.execSlt x0 x1 x2 s
  | .sltu x0 x1 x2 => Sys2Proof.Machine.execSltu x0 x1 x2 s
  | .xor x0 x1 x2 => Sys2Proof.Machine.execXor x0 x1 x2 s
  | .srl x0 x1 x2 => Sys2Proof.Machine.execSrl x0 x1 x2 s
  | .sra x0 x1 x2 => Sys2Proof.Machine.execSra x0 x1 x2 s
  | .or x0 x1 x2 => Sys2Proof.Machine.execOr x0 x1 x2 s
  | .and x0 x1 x2 => Sys2Proof.Machine.execAnd x0 x1 x2 s
  | .addw x0 x1 x2 => Sys2Proof.Machine.execAddw x0 x1 x2 s
  | .subw x0 x1 x2 => Sys2Proof.Machine.execSubw x0 x1 x2 s
  | .sllw x0 x1 x2 => Sys2Proof.Machine.execSllw x0 x1 x2 s
  | .srlw x0 x1 x2 => Sys2Proof.Machine.execSrlw x0 x1 x2 s
  | .sraw x0 x1 x2 => Sys2Proof.Machine.execSraw x0 x1 x2 s
  | .fence x0 x1 x2 x3 x4 => Sys2Proof.Machine.execFence x0 x1 x2 x3 x4 s
  | .fenceTso x0 x1 => Sys2Proof.Machine.execFenceTso x0 x1 s
  | .pause => Sys2Proof.Machine.execPause s
  | .fenceI x0 x1 x2 => Sys2Proof.Machine.execFenceI x0 x1 x2 s
  | .ecall => Sys2Proof.Machine.execEcall s
  | .ebreak => Sys2Proof.Machine.execEbreak s
  | .mul x0 x1 x2 => Sys2Proof.Machine.execMul x0 x1 x2 s
  | .mulh x0 x1 x2 => Sys2Proof.Machine.execMulh x0 x1 x2 s
  | .mulhsu x0 x1 x2 => Sys2Proof.Machine.execMulhsu x0 x1 x2 s
  | .mulhu x0 x1 x2 => Sys2Proof.Machine.execMulhu x0 x1 x2 s
  | .div x0 x1 x2 => Sys2Proof.Machine.execDiv x0 x1 x2 s
  | .divu x0 x1 x2 => Sys2Proof.Machine.execDivu x0 x1 x2 s
  | .rem x0 x1 x2 => Sys2Proof.Machine.execRem x0 x1 x2 s
  | .remu x0 x1 x2 => Sys2Proof.Machine.execRemu x0 x1 x2 s
  | .mulw x0 x1 x2 => Sys2Proof.Machine.execMulw x0 x1 x2 s
  | .divw x0 x1 x2 => Sys2Proof.Machine.execDivw x0 x1 x2 s
  | .divuw x0 x1 x2 => Sys2Proof.Machine.execDivuw x0 x1 x2 s
  | .remw x0 x1 x2 => Sys2Proof.Machine.execRemw x0 x1 x2 s
  | .remuw x0 x1 x2 => Sys2Proof.Machine.execRemuw x0 x1 x2 s
  | .lrW x0 x1 x2 x3 => Sys2Proof.Machine.execLrW x0 x1 x2 x3 s
  | .lrD x0 x1 x2 x3 => Sys2Proof.Machine.execLrD x0 x1 x2 x3 s
  | .scW x0 x1 x2 x3 x4 => Sys2Proof.Machine.execScW x0 x1 x2 x3 x4 s
  | .scD x0 x1 x2 x3 x4 => Sys2Proof.Machine.execScD x0 x1 x2 x3 x4 s
  | .amoswapW x0 x1 x2 x3 x4 => Sys2Proof.Machine.execAmoswapW x0 x1 x2 x3 x4 s
  | .amoswapD x0 x1 x2 x3 x4 => Sys2Proof.Machine.execAmoswapD x0 x1 x2 x3 x4 s
  | .amoaddW x0 x1 x2 x3 x4 => Sys2Proof.Machine.execAmoaddW x0 x1 x2 x3 x4 s
  | .amoaddD x0 x1 x2 x3 x4 => Sys2Proof.Machine.execAmoaddD x0 x1 x2 x3 x4 s
  | .amoxorW x0 x1 x2 x3 x4 => Sys2Proof.Machine.execAmoxorW x0 x1 x2 x3 x4 s
  | .amoxorD x0 x1 x2 x3 x4 => Sys2Proof.Machine.execAmoxorD x0 x1 x2 x3 x4 s
  | .amoandW x0 x1 x2 x3 x4 => Sys2Proof.Machine.execAmoandW x0 x1 x2 x3 x4 s
  | .amoandD x0 x1 x2 x3 x4 => Sys2Proof.Machine.execAmoandD x0 x1 x2 x3 x4 s
  | .amoorW x0 x1 x2 x3 x4 => Sys2Proof.Machine.execAmoorW x0 x1 x2 x3 x4 s
  | .amoorD x0 x1 x2 x3 x4 => Sys2Proof.Machine.execAmoorD x0 x1 x2 x3 x4 s
  | .amominW x0 x1 x2 x3 x4 => Sys2Proof.Machine.execAmominW x0 x1 x2 x3 x4 s
  | .amominD x0 x1 x2 x3 x4 => Sys2Proof.Machine.execAmominD x0 x1 x2 x3 x4 s
  | .amomaxW x0 x1 x2 x3 x4 => Sys2Proof.Machine.execAmomaxW x0 x1 x2 x3 x4 s
  | .amomaxD x0 x1 x2 x3 x4 => Sys2Proof.Machine.execAmomaxD x0 x1 x2 x3 x4 s
  | .amominuW x0 x1 x2 x3 x4 => Sys2Proof.Machine.execAmominuW x0 x1 x2 x3 x4 s
  | .amominuD x0 x1 x2 x3 x4 => Sys2Proof.Machine.execAmominuD x0 x1 x2 x3 x4 s
  | .amomaxuW x0 x1 x2 x3 x4 => Sys2Proof.Machine.execAmomaxuW x0 x1 x2 x3 x4 s
  | .amomaxuD x0 x1 x2 x3 x4 => Sys2Proof.Machine.execAmomaxuD x0 x1 x2 x3 x4 s
  | .flw x0 x1 x2 => Sys2Proof.Machine.execFlw x0 x1 x2 s
  | .fsw x0 x1 x2 => Sys2Proof.Machine.execFsw x0 x1 x2 s
  | .fmaddS x0 x1 x2 x3 x4 => Sys2Proof.Machine.execFmaddS x0 x1 x2 x3 x4 s
  | .fmsubS x0 x1 x2 x3 x4 => Sys2Proof.Machine.execFmsubS x0 x1 x2 x3 x4 s
  | .fnmsubS x0 x1 x2 x3 x4 => Sys2Proof.Machine.execFnmsubS x0 x1 x2 x3 x4 s
  | .fnmaddS x0 x1 x2 x3 x4 => Sys2Proof.Machine.execFnmaddS x0 x1 x2 x3 x4 s
  | .faddS x0 x1 x2 x3 => Sys2Proof.Machine.execFaddS x0 x1 x2 x3 s
  | .fsubS x0 x1 x2 x3 => Sys2Proof.Machine.execFsubS x0 x1 x2 x3 s
  | .fmulS x0 x1 x2 x3 => Sys2Proof.Machine.execFmulS x0 x1 x2 x3 s
  | .fdivS x0 x1 x2 x3 => Sys2Proof.Machine.execFdivS x0 x1 x2 x3 s
  | .fsqrtS x0 x1 x2 => Sys2Proof.Machine.execFsqrtS x0 x1 x2 s
  | .fsgnjS x0 x1 x2 => Sys2Proof.Machine.execFsgnjS x0 x1 x2 s
  | .fsgnjnS x0 x1 x2 => Sys2Proof.Machine.execFsgnjnS x0 x1 x2 s
  | .fsgnjxS x0 x1 x2 => Sys2Proof.Machine.execFsgnjxS x0 x1 x2 s
  | .fminS x0 x1 x2 => Sys2Proof.Machine.execFminS x0 x1 x2 s
  | .fmaxS x0 x1 x2 => Sys2Proof.Machine.execFmaxS x0 x1 x2 s
  | .fcvtWS x0 x1 x2 => Sys2Proof.Machine.execFcvtWS x0 x1 x2 s
  | .fcvtWuS x0 x1 x2 => Sys2Proof.Machine.execFcvtWuS x0 x1 x2 s
  | .fcvtLS x0 x1 x2 => Sys2Proof.Machine.execFcvtLS x0 x1 x2 s
  | .fcvtLuS x0 x1 x2 => Sys2Proof.Machine.execFcvtLuS x0 x1 x2 s
  | .fcvtSW x0 x1 x2 => Sys2Proof.Machine.execFcvtSW x0 x1 x2 s
  | .fcvtSWu x0 x1 x2 => Sys2Proof.Machine.execFcvtSWu x0 x1 x2 s
  | .fcvtSL x0 x1 x2 => Sys2Proof.Machine.execFcvtSL x0 x1 x2 s
  | .fcvtSLu x0 x1 x2 => Sys2Proof.Machine.execFcvtSLu x0 x1 x2 s
  | .fmvXW x0 x1 => Sys2Proof.Machine.execFmvXW x0 x1 s
  | .fclassS x0 x1 => Sys2Proof.Machine.execFclassS x0 x1 s
  | .feqS x0 x1 x2 => Sys2Proof.Machine.execFeqS x0 x1 x2 s
  | .fltS x0 x1 x2 => Sys2Proof.Machine.execFltS x0 x1 x2 s
  | .fleS x0 x1 x2 => Sys2Proof.Machine.execFleS x0 x1 x2 s
  | .fmvWX x0 x1 => Sys2Proof.Machine.execFmvWX x0 x1 s
  | .csrrw x0 x1 x2 => Sys2Proof.Machine.execCsrrw x0 x1 x2 s
  | .csrrs x0 x1 x2 => Sys2Proof.Machine.execCsrrs x0 x1 x2 s
  | .csrrc x0 x1 x2 => Sys2Proof.Machine.execCsrrc x0 x1 x2 s
  | .csrrwi x0 x1 x2 => Sys2Proof.Machine.execCsrrwi x0 x1 x2 s
  | .csrrsi x0 x1 x2 => Sys2Proof.Machine.execCsrrsi x0 x1 x2 s
  | .csrrci x0 x1 x2 => Sys2Proof.Machine.execCsrrci x0 x1 x2 s
  | .sret => Sys2Proof.Machine.execSret s
  | .mret => Sys2Proof.Machine.execMret s
  | .wfi => Sys2Proof.Machine.execWfi s
  | .sfenceVma x0 x1 => Sys2Proof.Machine.execSfenceVma x0 x1 s
  | .vloop x0 x1 x2 => Sys2Proof.Machine.execVloop x0 x1 x2 s
  | .vloopcfg x0 x1 => Sys2Proof.Machine.execVloopcfg x0 x1 s
  | .vcfg x0 x1 => Sys2Proof.Machine.execVcfg x0 x1 s
  | .vsetlen x0 x1 x2 => Sys2Proof.Machine.execVsetlen x0 x1 x2 s
  | .lycfg x0 x1 => Sys2Proof.Machine.execLycfg x0 x1 s
  | .lyclr x0 => Sys2Proof.Machine.execLyclr x0 s
  | .lysave x0 x1 => Sys2Proof.Machine.execLysave x0 x1 s
  | .lyload x0 x1 => Sys2Proof.Machine.execLyload x0 x1 s
  | .flsc x0 x1 x2 => Sys2Proof.Machine.execFlsc x0 x1 x2 s
  | .ldfe x0 x1 => Sys2Proof.Machine.execLdfe x0 x1 s
  | .stfe x0 x1 => Sys2Proof.Machine.execStfe x0 x1 s
  | .ringset x0 x1 => Sys2Proof.Machine.execRingset x0 x1 s
  | .ringsetWithdraw x0 => Sys2Proof.Machine.execRingsetWithdraw x0 s
  | .ringacq x0 x1 x2 => Sys2Proof.Machine.execRingacq x0 x1 x2 s
  | .ringrel x0 x1 => Sys2Proof.Machine.execRingrel x0 x1 s
  | .ringexp x0 x1 => Sys2Proof.Machine.execRingexp x0 x1 s
  | .ringtst x0 x1 x2 => Sys2Proof.Machine.execRingtst x0 x1 x2 s
  | .cpset x0 x1 x2 => Sys2Proof.Machine.execCpset x0 x1 x2 s
  | .cplaunch x0 x1 => Sys2Proof.Machine.execCplaunch x0 x1 s
  | .cpstat x0 x1 => Sys2Proof.Machine.execCpstat x0 x1 s
  | .waitc x0 x1 x2 x3 => Sys2Proof.Machine.execWaitc x0 x1 x2 x3 s
  | .strmopen x0 x1 => Sys2Proof.Machine.execStrmopen x0 x1 s
  | .strmclose x0 => Sys2Proof.Machine.execStrmclose x0 s
  | .tack x0 x1 x2 => Sys2Proof.Machine.execTack x0 x1 x2 s
  | .qpush x0 x1 x2 => Sys2Proof.Machine.execQpush x0 x1 x2 s
  | .qpop x0 x1 x2 => Sys2Proof.Machine.execQpop x0 x1 x2 s
  | .exit x0 x1 => Sys2Proof.Machine.execExit x0 x1 s
  | .yield => Sys2Proof.Machine.execYield s
  | .wdq x0 x1 => Sys2Proof.Machine.execWdq x0 x1 s
  | .tcommit x0 x1 => Sys2Proof.Machine.execTcommit x0 x1 s
  | .tskip x0 => Sys2Proof.Machine.execTskip x0 s
  | .tcfg x0 x1 => Sys2Proof.Machine.execTcfg x0 x1 s
  | .gangarm x0 x1 => Sys2Proof.Machine.execGangarm x0 x1 s
  | .fenceSv x0 => Sys2Proof.Machine.execFenceSv x0 s
  | .fenceVs x0 => Sys2Proof.Machine.execFenceVs x0 s
  | .fenceVv x0 => Sys2Proof.Machine.execFenceVv x0 s
  | .amoaddf x0 x1 x2 x3 => Sys2Proof.Machine.execAmoaddf x0 x1 x2 x3 s
  | .amomaxf x0 x1 x2 x3 => Sys2Proof.Machine.execAmomaxf x0 x1 x2 x3 s
  | .bwcfg x0 x1 => Sys2Proof.Machine.execBwcfg x0 x1 s
  | .bwarr x0 x1 => Sys2Proof.Machine.execBwarr x0 x1 s
  | .bwtst x0 x1 => Sys2Proof.Machine.execBwtst x0 x1 s
  | .wev x0 x1 => Sys2Proof.Machine.execWev x0 x1 s
  | .upret => Sys2Proof.Machine.execUpret s
  | .fqpop x0 x1 => Sys2Proof.Machine.execFqpop x0 x1 s
  | .vstupd x0 x1 => Sys2Proof.Machine.execVstupd x0 x1 s
  | .kill x0 => Sys2Proof.Machine.execKill x0 s
  | .islctl x0 x1 x2 => Sys2Proof.Machine.execIslctl x0 x1 x2 s
  | .vsave x0 => Sys2Proof.Machine.execVsave x0 s
  | .vrestore x0 => Sys2Proof.Machine.execVrestore x0 s
  | .wayset x0 x1 => Sys2Proof.Machine.execWayset x0 x1 s
  | .vadd x0 x1 x2 x3 x4 => Sys2Proof.Machine.execVadd x0 x1 x2 x3 x4 s
  | .vsub x0 x1 x2 x3 x4 => Sys2Proof.Machine.execVsub x0 x1 x2 x3 x4 s
  | .vmul x0 x1 x2 x3 x4 => Sys2Proof.Machine.execVmul x0 x1 x2 x3 x4 s
  | .vmulh x0 x1 x2 x3 x4 => Sys2Proof.Machine.execVmulh x0 x1 x2 x3 x4 s
  | .vmulhu x0 x1 x2 x3 x4 => Sys2Proof.Machine.execVmulhu x0 x1 x2 x3 x4 s
  | .vmacc x0 x1 x2 x3 x4 => Sys2Proof.Machine.execVmacc x0 x1 x2 x3 x4 s
  | .vand x0 x1 x2 x3 x4 => Sys2Proof.Machine.execVand x0 x1 x2 x3 x4 s
  | .vor x0 x1 x2 x3 x4 => Sys2Proof.Machine.execVor x0 x1 x2 x3 x4 s
  | .vxor x0 x1 x2 x3 x4 => Sys2Proof.Machine.execVxor x0 x1 x2 x3 x4 s
  | .vsll x0 x1 x2 x3 x4 => Sys2Proof.Machine.execVsll x0 x1 x2 x3 x4 s
  | .vsrl x0 x1 x2 x3 x4 => Sys2Proof.Machine.execVsrl x0 x1 x2 x3 x4 s
  | .vsra x0 x1 x2 x3 x4 => Sys2Proof.Machine.execVsra x0 x1 x2 x3 x4 s
  | .vmin x0 x1 x2 x3 x4 => Sys2Proof.Machine.execVmin x0 x1 x2 x3 x4 s
  | .vminu x0 x1 x2 x3 x4 => Sys2Proof.Machine.execVminu x0 x1 x2 x3 x4 s
  | .vmax x0 x1 x2 x3 x4 => Sys2Proof.Machine.execVmax x0 x1 x2 x3 x4 s
  | .vmaxu x0 x1 x2 x3 x4 => Sys2Proof.Machine.execVmaxu x0 x1 x2 x3 x4 s
  | .vseq x0 x1 x2 x3 x4 => Sys2Proof.Machine.execVseq x0 x1 x2 x3 x4 s
  | .vsne x0 x1 x2 x3 x4 => Sys2Proof.Machine.execVsne x0 x1 x2 x3 x4 s
  | .vslt x0 x1 x2 x3 x4 => Sys2Proof.Machine.execVslt x0 x1 x2 x3 x4 s
  | .vsltu x0 x1 x2 x3 x4 => Sys2Proof.Machine.execVsltu x0 x1 x2 x3 x4 s
  | .vsle x0 x1 x2 x3 x4 => Sys2Proof.Machine.execVsle x0 x1 x2 x3 x4 s
  | .vsleu x0 x1 x2 x3 x4 => Sys2Proof.Machine.execVsleu x0 x1 x2 x3 x4 s
  | .vfadd x0 x1 x2 x3 x4 => Sys2Proof.Machine.execVfadd x0 x1 x2 x3 x4 s
  | .vfsub x0 x1 x2 x3 x4 => Sys2Proof.Machine.execVfsub x0 x1 x2 x3 x4 s
  | .vfmul x0 x1 x2 x3 x4 => Sys2Proof.Machine.execVfmul x0 x1 x2 x3 x4 s
  | .vfdiv x0 x1 x2 x3 x4 => Sys2Proof.Machine.execVfdiv x0 x1 x2 x3 x4 s
  | .vfsqrt x0 x1 x2 => Sys2Proof.Machine.execVfsqrt x0 x1 x2 s
  | .vfmacc x0 x1 x2 x3 x4 => Sys2Proof.Machine.execVfmacc x0 x1 x2 x3 x4 s
  | .vfnmacc x0 x1 x2 x3 x4 => Sys2Proof.Machine.execVfnmacc x0 x1 x2 x3 x4 s
  | .vfmsac x0 x1 x2 x3 x4 => Sys2Proof.Machine.execVfmsac x0 x1 x2 x3 x4 s
  | .vfmin x0 x1 x2 x3 x4 => Sys2Proof.Machine.execVfmin x0 x1 x2 x3 x4 s
  | .vfmax x0 x1 x2 x3 x4 => Sys2Proof.Machine.execVfmax x0 x1 x2 x3 x4 s
  | .vfsgnj x0 x1 x2 x3 x4 => Sys2Proof.Machine.execVfsgnj x0 x1 x2 x3 x4 s
  | .vfclass x0 x1 x2 => Sys2Proof.Machine.execVfclass x0 x1 x2 s
  | .vfeq x0 x1 x2 x3 x4 => Sys2Proof.Machine.execVfeq x0 x1 x2 x3 x4 s
  | .vflt x0 x1 x2 x3 x4 => Sys2Proof.Machine.execVflt x0 x1 x2 x3 x4 s
  | .vfle x0 x1 x2 x3 x4 => Sys2Proof.Machine.execVfle x0 x1 x2 x3 x4 s
  | .vmv x0 x1 x2 x3 => Sys2Proof.Machine.execVmv x0 x1 x2 x3 s
  | .vmvxs x0 x1 => Sys2Proof.Machine.execVmvxs x0 x1 s
  | .vmerge x0 x1 x2 x3 x4 => Sys2Proof.Machine.execVmerge x0 x1 x2 x3 x4 s
  | .vslideup x0 x1 x2 x3 => Sys2Proof.Machine.execVslideup x0 x1 x2 x3 s
  | .vslidedn x0 x1 x2 x3 => Sys2Proof.Machine.execVslidedn x0 x1 x2 x3 s
  | .vperm x0 x1 x2 x3 => Sys2Proof.Machine.execVperm x0 x1 x2 x3 s
  | .vcompress x0 x1 x2 => Sys2Proof.Machine.execVcompress x0 x1 x2 s
  | .vid x0 x1 => Sys2Proof.Machine.execVid x0 x1 s
  | .viota x0 x1 => Sys2Proof.Machine.execViota x0 x1 s
  | .vredsum x0 x1 x2 x3 => Sys2Proof.Machine.execVredsum x0 x1 x2 x3 s
  | .vredosum x0 x1 x2 x3 => Sys2Proof.Machine.execVredosum x0 x1 x2 x3 s
  | .vredmin x0 x1 x2 x3 => Sys2Proof.Machine.execVredmin x0 x1 x2 x3 s
  | .vredmax x0 x1 x2 x3 => Sys2Proof.Machine.execVredmax x0 x1 x2 x3 s
  | .vfredsum x0 x1 x2 x3 => Sys2Proof.Machine.execVfredsum x0 x1 x2 x3 s
  | .vfredosum x0 x1 x2 x3 => Sys2Proof.Machine.execVfredosum x0 x1 x2 x3 s
  | .vfredmin x0 x1 x2 x3 => Sys2Proof.Machine.execVfredmin x0 x1 x2 x3 s
  | .vfredmax x0 x1 x2 x3 => Sys2Proof.Machine.execVfredmax x0 x1 x2 x3 s
  | .kand x0 x1 x2 => Sys2Proof.Machine.execKand x0 x1 x2 s
  | .kor x0 x1 x2 => Sys2Proof.Machine.execKor x0 x1 x2 s
  | .kxor x0 x1 x2 => Sys2Proof.Machine.execKxor x0 x1 x2 s
  | .kpopc x0 x1 => Sys2Proof.Machine.execKpopc x0 x1 s
  | .kfirst x0 x1 => Sys2Proof.Machine.execKfirst x0 x1 s
  | .kmv x0 x1 => Sys2Proof.Machine.execKmv x0 x1 s
  | .vbvrd x0 x1 x2 => Sys2Proof.Machine.execVbvrd x0 x1 x2 s
  | .vbvwr x0 x1 x2 => Sys2Proof.Machine.execVbvwr x0 x1 x2 s
  | .vcvt x0 x1 x2 x3 => Sys2Proof.Machine.execVcvt x0 x1 x2 x3 s
  | .vld x0 x1 x2 x3 => Sys2Proof.Machine.execVld x0 x1 x2 x3 s
  | .vst x0 x1 x2 x3 => Sys2Proof.Machine.execVst x0 x1 x2 x3 s
  | .vlds x0 x1 x2 x3 x4 => Sys2Proof.Machine.execVlds x0 x1 x2 x3 x4 s
  | .vsts x0 x1 x2 x3 x4 => Sys2Proof.Machine.execVsts x0 x1 x2 x3 x4 s
  | .vldx x0 x1 x2 x3 x4 => Sys2Proof.Machine.execVldx x0 x1 x2 x3 x4 s
  | .vstx x0 x1 x2 x3 x4 => Sys2Proof.Machine.execVstx x0 x1 x2 x3 x4 s
  | .vpref x0 x1 => Sys2Proof.Machine.execVpref x0 x1 s
  | .vldfe x0 x1 x2 => Sys2Proof.Machine.execVldfe x0 x1 x2 s
  | .vstfe x0 x1 x2 => Sys2Proof.Machine.execVstfe x0 x1 x2 s
  | .vqld x0 x1 x2 => Sys2Proof.Machine.execVqld x0 x1 x2 s
  | .vqst x0 x1 x2 x3 => Sys2Proof.Machine.execVqst x0 x1 x2 x3 s
  | .vamoadd x0 x1 x2 x3 => Sys2Proof.Machine.execVamoadd x0 x1 x2 x3 s
  | .vamomin x0 x1 x2 x3 => Sys2Proof.Machine.execVamomin x0 x1 x2 x3 s
  | .vamomax x0 x1 x2 x3 => Sys2Proof.Machine.execVamomax x0 x1 x2 x3 s
  | .vsend x0 x1 => Sys2Proof.Machine.execVsend x0 x1 s
  | .vrecv x0 x1 => Sys2Proof.Machine.execVrecv x0 x1 s
  | .vmmaE4e4 x0 x1 x2 x3 => Sys2Proof.Machine.execVmmaE4e4 x0 x1 x2 x3 s
  | .vmmaE5e4 x0 x1 x2 x3 => Sys2Proof.Machine.execVmmaE5e4 x0 x1 x2 x3 s
  | .vmmaBf16 x0 x1 x2 x3 => Sys2Proof.Machine.execVmmaBf16 x0 x1 x2 x3 s
  | .vmmaE4q x0 x1 x2 x3 => Sys2Proof.Machine.execVmmaE4q x0 x1 x2 x3 s
  | .mlease x0 => Sys2Proof.Machine.execMlease x0 s
  | .mrel => Sys2Proof.Machine.execMrel s
  | .mwld x0 x1 => Sys2Proof.Machine.execMwld x0 x1 s
  | .mzero x0 => Sys2Proof.Machine.execMzero x0 s
  | .mld x0 x1 => Sys2Proof.Machine.execMld x0 x1 s
  | .mst x0 x1 x2 x3 x4 => Sys2Proof.Machine.execMst x0 x1 x2 x3 x4 s
  | .mmacE4e4 x0 x1 x2 x3 => Sys2Proof.Machine.execMmacE4e4 x0 x1 x2 x3 s
  | .mmacE5e4 x0 x1 x2 x3 => Sys2Proof.Machine.execMmacE5e4 x0 x1 x2 x3 s
  | .mmacE4e5 x0 x1 x2 x3 => Sys2Proof.Machine.execMmacE4e5 x0 x1 x2 x3 s
  | .mmacE5e5 x0 x1 x2 x3 => Sys2Proof.Machine.execMmacE5e5 x0 x1 x2 x3 s
  | .mmacBf16 x0 x1 x2 x3 => Sys2Proof.Machine.execMmacBf16 x0 x1 x2 x3 s
  | .mmacE4q x0 x1 x2 x3 => Sys2Proof.Machine.execMmacE4q x0 x1 x2 x3 s
  | .mmacF4 x0 x1 x2 x3 => Sys2Proof.Machine.execMmacF4 x0 x1 x2 x3 s
  | .mmacF4q x0 x1 x2 x3 => Sys2Proof.Machine.execMmacF4q x0 x1 x2 x3 s
  | .rbox x0 x1 x2 => Sys2Proof.Machine.execRbox x0 x1 x2 s
  | .rtri x0 x1 x2 => Sys2Proof.Machine.execRtri x0 x1 x2 s
  | .rcand x0 x1 x2 => Sys2Proof.Machine.execRcand x0 x1 x2 s
  | .racc x0 x1 => Sys2Proof.Machine.execRacc x0 x1 s
  | .rrej x0 x1 => Sys2Proof.Machine.execRrej x0 x1 s
  | .qsph x0 x1 x2 => Sys2Proof.Machine.execQsph x0 x1 x2 s
  | .qknn x0 x1 x2 => Sys2Proof.Machine.execQknn x0 x1 x2 s
  | .qkey x0 x1 x2 => Sys2Proof.Machine.execQkey x0 x1 x2 s
  | .vedge x0 x1 x2 => Sys2Proof.Machine.execVedge x0 x1 x2 s
  | .tsamp x0 x1 x2 => Sys2Proof.Machine.execTsamp x0 x1 x2 s
  | .tfetch x0 x1 x2 => Sys2Proof.Machine.execTfetch x0 x1 x2 s
  | .tdecode x0 x1 x2 => Sys2Proof.Machine.execTdecode x0 x1 x2 s
  | .storeBufferDrain x0 x1 => Sys2Proof.Machine.execStoreBufferDrain x0 x1 s
  | .scalarLoadReturn x0 x1 => Sys2Proof.Machine.execScalarLoadReturn x0 x1 s
  | .pageTableWalk x0 x1 => Sys2Proof.Machine.execPageTableWalk x0 x1 s
  | .adUpdate x0 => Sys2Proof.Machine.execAdUpdate x0 s
  | .spanEntryFetch x0 x1 => Sys2Proof.Machine.execSpanEntryFetch x0 x1 s
  | .streamDetectorExpiry x0 x1 => Sys2Proof.Machine.execStreamDetectorExpiry x0 x1 s
  | .vectorGroupIssue x0 x1 => Sys2Proof.Machine.execVectorGroupIssue x0 x1 s
  | .vectorAccessComplete x0 x1 => Sys2Proof.Machine.execVectorAccessComplete x0 x1 s
  | .noticeUpcall x0 => Sys2Proof.Machine.execNoticeUpcall x0 s
  | .vcfgReconfigure x0 => Sys2Proof.Machine.execVcfgReconfigure x0 s
  | .leewayConfigApply x0 => Sys2Proof.Machine.execLeewayConfigApply x0 s
  | .ldfeWake x0 => Sys2Proof.Machine.execLdfeWake x0 s
  | .feTimeout x0 x1 => Sys2Proof.Machine.execFeTimeout x0 x1 s
  | .ringArrival x0 x1 => Sys2Proof.Machine.execRingArrival x0 x1 s
  | .ringConsumerRelease x0 x1 => Sys2Proof.Machine.execRingConsumerRelease x0 x1 s
  | .copyMove x0 x1 x2 x3 => Sys2Proof.Machine.execCopyMove x0 x1 x2 x3 s
  | .copyComplete x0 x1 x2 => Sys2Proof.Machine.execCopyComplete x0 x1 x2 s
  | .channelResetDone x0 => Sys2Proof.Machine.execChannelResetDone x0 s
  | .waitcRelease x0 => Sys2Proof.Machine.execWaitcRelease x0 s
  | .fenceVsRelease x0 => Sys2Proof.Machine.execFenceVsRelease x0 s
  | .streamGroupArrival x0 x1 => Sys2Proof.Machine.execStreamGroupArrival x0 x1 s
  | .streamProbeSend x0 => Sys2Proof.Machine.execStreamProbeSend x0 s
  | .streamProbeHop x0 => Sys2Proof.Machine.execStreamProbeHop x0 s
  | .linkTurnBegin x0 => Sys2Proof.Machine.execLinkTurnBegin x0 s
  | .linkTurnDrained x0 => Sys2Proof.Machine.execLinkTurnDrained x0 s
  | .linkTurnDone x0 => Sys2Proof.Machine.execLinkTurnDone x0 s
  | .waysetComplete x0 => Sys2Proof.Machine.execWaysetComplete x0 s
  | .wdqAnswer x0 => Sys2Proof.Machine.execWdqAnswer x0 s
  | .dispatch x0 => Sys2Proof.Machine.execDispatch x0 s
  | .gangTick x0 => Sys2Proof.Machine.execGangTick x0 s
  | .queueAging x0 => Sys2Proof.Machine.execQueueAging x0 s
  | .candidateReservation x0 x1 => Sys2Proof.Machine.execCandidateReservation x0 x1 s
  | .batchWaitExpiry x0 => Sys2Proof.Machine.execBatchWaitExpiry x0 s
  | .exitPerform x0 => Sys2Proof.Machine.execExitPerform x0 s
  | .issueLoweringEnd x0 => Sys2Proof.Machine.execIssueLoweringEnd x0 s
  | .ticketApply x0 x1 => Sys2Proof.Machine.execTicketApply x0 x1 s
  | .unitRetry x0 => Sys2Proof.Machine.execUnitRetry x0 s
  | .barrierPhaseComplete x0 x1 => Sys2Proof.Machine.execBarrierPhaseComplete x0 x1 s
  | .wevReturn x0 => Sys2Proof.Machine.execWevReturn x0 s
  | .barrierTimeout x0 => Sys2Proof.Machine.execBarrierTimeout x0 s
  | .leaseGrant x0 => Sys2Proof.Machine.execLeaseGrant x0 s
  | .leaseBudgetEnd x0 => Sys2Proof.Machine.execLeaseBudgetEnd x0 s
  | .tileParkDone x0 => Sys2Proof.Machine.execTileParkDone x0 s
  | .tileRestoreDone x0 => Sys2Proof.Machine.execTileRestoreDone x0 s
  | .arrayCommandStart x0 => Sys2Proof.Machine.execArrayCommandStart x0 s
  | .arrayCommandComplete x0 x1 => Sys2Proof.Machine.execArrayCommandComplete x0 x1 s
  | .weightBufferClearDone x0 => Sys2Proof.Machine.execWeightBufferClearDone x0 s
  | .preemptTaken x0 => Sys2Proof.Machine.execPreemptTaken x0 s
  | .interruptTaken x0 => Sys2Proof.Machine.execInterruptTaken x0 s
  | .wfiWake x0 => Sys2Proof.Machine.execWfiWake x0 s
  | .pauseEnd x0 => Sys2Proof.Machine.execPauseEnd x0 s
  | .yieldEnd x0 => Sys2Proof.Machine.execYieldEnd x0 s
  | .alarmInterrupt x0 => Sys2Proof.Machine.execAlarmInterrupt x0 s
  | .killComplete x0 => Sys2Proof.Machine.execKillComplete x0 s
  | .vstupdComplete x0 => Sys2Proof.Machine.execVstupdComplete x0 s
  | .shootdownComplete => Sys2Proof.Machine.execShootdownComplete s
  | .homeTableChangeDone => Sys2Proof.Machine.execHomeTableChangeDone s
  | .contextResidentDone x0 => Sys2Proof.Machine.execContextResidentDone x0 s
  | .vsaveWrite x0 => Sys2Proof.Machine.execVsaveWrite x0 s
  | .vrestoreLoad x0 => Sys2Proof.Machine.execVrestoreLoad x0 s
  | .islandClockDone x0 x1 => Sys2Proof.Machine.execIslandClockDone x0 x1 s
  | .islandOffDone x0 x1 => Sys2Proof.Machine.execIslandOffDone x0 x1 s
  | .islandOnDone x0 x1 => Sys2Proof.Machine.execIslandOnDone x0 x1 s
  | .governorSample x0 x1 => Sys2Proof.Machine.execGovernorSample x0 x1 s
  | .thermalTrip => Sys2Proof.Machine.execThermalTrip s
  | .thermalClear => Sys2Proof.Machine.execThermalClear s
  | .ethernetLinkChange x0 x1 => Sys2Proof.Machine.execEthernetLinkChange x0 x1 s
  | .linkReplay x0 => Sys2Proof.Machine.execLinkReplay x0 s
  | .dieLinkError x0 x1 => Sys2Proof.Machine.execDieLinkError x0 x1 s
  | .eccError x0 x1 => Sys2Proof.Machine.execEccError x0 x1 s
  | .dieWarmReset x0 => Sys2Proof.Machine.execDieWarmReset x0 s
  | .dieReadmit x0 => Sys2Proof.Machine.execDieReadmit x0 s
  | .powerGood x0 => Sys2Proof.Machine.execPowerGood x0 s
  | .dieAdmit x0 => Sys2Proof.Machine.execDieAdmit x0 s
  | .memoryTrained => Sys2Proof.Machine.execMemoryTrained s
  | .rdmaWriteIn x0 x1 x2 x3 => Sys2Proof.Machine.execRdmaWriteIn x0 x1 x2 x3 s
  | .rdmaReadIn x0 x1 x2 x3 => Sys2Proof.Machine.execRdmaReadIn x0 x1 x2 x3 s
  | .rdmaSendIn x0 x1 => Sys2Proof.Machine.execRdmaSendIn x0 x1 s
  | .remoteQpush x0 x1 x2 x3 => Sys2Proof.Machine.execRemoteQpush x0 x1 x2 x3 s
  | .remoteResponse x0 x1 x2 => Sys2Proof.Machine.execRemoteResponse x0 x1 x2 s
  | .qpAckTimeout x0 => Sys2Proof.Machine.execQpAckTimeout x0 s
  | .ptpMessage x0 => Sys2Proof.Machine.execPtpMessage x0 s
  | .homeTableWrite x0 => Sys2Proof.Machine.execHomeTableWrite x0 s
  | .shootCmdWrite x0 => Sys2Proof.Machine.execShootCmdWrite x0 s
  | .pgdoneWrite x0 => Sys2Proof.Machine.execPgdoneWrite x0 s
  | .arrbindWrite x0 => Sys2Proof.Machine.execArrbindWrite x0 s
  | .tsaveWrite x0 => Sys2Proof.Machine.execTsaveWrite x0 s
  | .qctlWrite x0 => Sys2Proof.Machine.execQctlWrite x0 s
  | .preemptRequest x0 => Sys2Proof.Machine.execPreemptRequest x0 s
  | .preemptCancel x0 => Sys2Proof.Machine.execPreemptCancel x0 s
  | .eventCounterClear x0 => Sys2Proof.Machine.execEventCounterClear x0 s
  | .chronadjWrite x0 => Sys2Proof.Machine.execChronadjWrite x0 s
  | .chronstepWrite x0 => Sys2Proof.Machine.execChronstepWrite x0 s
  | .linkevRead x0 => Sys2Proof.Machine.execLinkevRead x0 s
  | .contextMakeResident x0 => Sys2Proof.Machine.execContextMakeResident x0 s
  | .contextRelease x0 => Sys2Proof.Machine.execContextRelease x0 s
  | .alarmWrite x0 => Sys2Proof.Machine.execAlarmWrite x0 s
  | .qpcmdApply x0 => Sys2Proof.Machine.execQpcmdApply x0 s
  | .qpcmdFetch x0 => Sys2Proof.Machine.execQpcmdFetch x0 s
  | .qpcmdApplyDone => Sys2Proof.Machine.execQpcmdApplyDone s
  | .deviceRegisterWrite x0 => Sys2Proof.Machine.execDeviceRegisterWrite x0 s
  | .illegalInstruction x0 x1 => Sys2Proof.Machine.execIllegalInstruction x0 x1 s
  | .instructionFetchFault x0 => Sys2Proof.Machine.execInstructionFetchFault x0 s
  | .vaqGroupLanded x0 => Sys2Proof.Machine.execVaqGroupLanded x0 s
  | .invalidRequestNak x0 => Sys2Proof.Machine.execInvalidRequestNak x0 s

end Sys2Proof.Machine
end

