-- ==== Sys2Proof/Machine/Move.lean ====
section
/-!
DEFINITION. What one turn does: the passing of time, what unseen choices put into or take out of caches, the work that
goes on by itself around one hart, and the turn of a hart: a notice or an interrupt, that work, or the fetch, decoding and
execution of its next instruction (R26, R28, R66, R145, R312).
-/
namespace Sys2Proof.Machine

/-! ## Time (R3, R333) -/

/-- A number of cy and of ns of the reference pass: chron goes on at the rate CHRONADJ sets, in parts per 10^12. The count is kept
whole past 2^64 − 1, where the spec's 64 bits that never decrease end: what chron and time read is it mod 2^64, while interrupt 18
and the ticks of gangs compare it whole. This is the model's choice (log 74). -/
def State.elapse (s : State) (n ns : Nat) : State :=
  let unit : Int := 10 ^ 12
  let t := (ns : Int) * (unit + toInt 32 s.dev.chronAdj.toNat) + s.dev.chronFrac
  s.onDev (fun d => { d with cy := d.cy + n, chron := d.chron + (t / unit).toNat, chronFrac := t % unit })

/-- One cy passes, at 5 ns for 6 cy. -/
def State.tick (s : State) : State := s.elapse 1 (5 * (s.dev.cy + 1) / 6 - 5 * s.dev.cy / 6)

/-! ## Caches (R59, R121, R133, R137; log 7) -/

/-- Whether instructions may come from a physical address (R59). -/
def fetchable (pa : Nat) : Bool := match regionOf pa with | .dram => true | .vault _ _ => true | _ => false

/-- An unseen choice: an entry of a cache goes, or a word comes into an instruction cache of 64 KiB (R1) or a fetch buffer. -/
def State.evict (s : State) (e : Evict) : State :=
  match e with
  | .l1 c l => s.onCore c (fun k => k.noL1 (fun x => decide (x = l)))
  | .slice c a => s.dropSlice c (fun x => decide (x.addr = a))
  | .tlb c n => s.onCore c (fun k => { k with tlb := dropAt k.tlb n })
  | .walk c n => s.onCore c (fun k => { k with walks := dropAt k.walks n })
  | .span c n => s.onCore c (fun k => { k with span := dropAt k.span n })
  | .icache c pa =>
    if ((s.core c).icache.find pa).isSome then s.onCore c (fun k => { k with icache := k.icache.del pa })
    else if fetchable pa ∧ pa % 4 = 0 ∧ (s.core c).icache.length < 16384 then
      s.onCore c (fun k => { k with icache := k.icache.ins pa (BitVec.ofNat 32 (s.mem64 pa 4)) })
    else s
  | .fetch h pa =>
    if ((s.hart h).fetchBuf.find pa).isSome then s.onHart h (fun t => { t with fetchBuf := t.fetchBuf.del pa })
    else if fetchable pa ∧ pa % 4 = 0 ∧ isHart h then
      s.onHart h (fun t => { t with fetchBuf := t.fetchBuf.ins pa (s.fetchWord h pa) })
    else s

/-! ## Readiness (R66, R239) -/

/-- Whether an outcome of hart h's next instruction is that it issues: what its unit or its queue has no room for leaves it
in place (R66). -/
def State.issues (s : State) (h : Nat) (o : Out) : Bool :=
  match o with
  | .next t => decide ((t.hart h).mark ≠ (s.hart h).mark)
  | _ => true

/-- Whether strand h is ready (R66, R233): it may issue, its operands are there, and so is what it needs. -/
noncomputable def State.readyNow (s : State) (h : Nat) : Bool :=
  s.mayIssue h && (match s.fetchAt h with
    | .stop z => decide (z ≠ .busy)
    | .ok x => match decode (s.fetchWord h x.pa) with
      | none => true
      | some i => (s.hart h).ready i && s.issues h (exec i { s with cur := h }))

/-- The strands that a yield of hart k still waits for: those that are ready still (R239). -/
noncomputable def State.yieldOn (s : State) (k : Nat) : State :=
  match (s.hart k).wait with
  | .yield_ t others => s.hold k (.yield_ t (others.filter s.readyNow))
  | _ => s

/-- Hart h has taken an instruction to an outcome: the yields on its core no longer wait for it if that has issued, nor for
what is no longer ready (R239). -/
noncomputable def State.issued (s : State) (h : Nat) (did : Bool) : State :=
  if isMgmt h then s
  else (List.range 4).foldl (fun (s : State) i => s.yieldOn (coreOf h * 4 + i)) (if did then s.strike h else s)

/-! ## The work that goes on by itself around a hart -/

/-- The first of n that answers. -/
def firstOf (n : Nat) (f : Nat → Option State) : Option State := (List.range n).findSome? f

/-- What hart h's instruction waits for comes to pass. -/
noncomputable def State.waitWork (s : State) (h : Nat) : Option State :=
  match (s.hart h).wait with
  | .none => none
  | .ldfe _ _ _ _ => (s.ldfeWake h).orElse (fun _ => s.feTimeout h none)
  | .waitc _ _ _ _ => s.waitcWake h
  | .fenceVs _ => s.fenceVsWake h
  | .wev _ _ _ => (s.wevReturn h).orElse (fun _ => s.wevTimeout h)
  | .wfi => s.wfiWake h
  | .pause _ => s.pauseWake h
  | .yield_ _ _ => (s.yieldOn h).yieldWake h
  | .vcfg _ _ _ => s.vcfgWake h
  | .lycfg _ _ => s.leewayWake h
  | .lyclr _ => s.leewayWake h
  | .exitRead base cnt l => s.exitReadOn h base cnt l
  | .exit _ => s.exitPerform h
  | .unit _ _ _ _ => s.retryUnit h
  | .kill c => s.killComplete c
  | .vstupd _ _ => s.vstupdDone h
  | .wayset c => s.waysetDone c
  | .homeStore => s.homeDone
  | .fqpop _ _ _ => (s.fqpopOn h).orElse fun _ => (s.ctxs.map Prod.fst).findSome? s.residentDone
  | .ctxStore c => s.residentDone c
  | .vsave _ _ => s.vsaveWrite h
  | .remoteSave => s.vsaveWrite h
  | .vrestore _ _ => s.vrestoreLoad h
  | .cpReset _ => s.resetWake h
  | .strmclose ep => if s.epIdle h ep then some ((s.closeEp h ep).retire h) else none
  | .gang _ => s.gangStart h

/-- The hart's retired stores perform and its loads return. -/
def State.scalarWork (s : State) (h : Nat) : Option State :=
  (firstOf (s.hart h).stores.length (s.drain h)).orElse (fun _ => firstOf (s.hart h).loads.length (s.loadReturn h))

/-- The hart's vector queues go on by one access, landing or group. -/
def State.vectorWork (s : State) (h : Nat) : Option State :=
  let n := ((s.hart h).vec.queue.map (fun e => e.pend.length)).foldl (· + ·) 0
  (s.landVaq h).orElse fun _ =>
    (firstOf n (s.accessStep h)).orElse fun _ =>
      ([VQueue.vaq, .vlq, .vsq].findSome? (s.issueStep h)).orElse fun _ =>
        ([VQueue.vlq, .vsq].findSome? (fun q => s.feTimeout h (some q))).orElse fun _ =>
          (s.probeSend h).orElse fun _ => s.probeHop h

/-- The next piece of a transfer that has bytes to move. -/
def Xfer.nextPiece (x : Xfer) : Option Nat :=
  (List.range (x.runs * x.perRun)).find? (fun n => !x.moved.contains n && decide ((x.piece n).2.2 ≠ 0))

/-- The hart's copy engine goes on by one piece, or completes a transfer. -/
def State.copyWork (s : State) (h : Nat) : Option State :=
  firstOf (4 + (s.hart h).stg.detached.length) (fun ch =>
    firstOf ((((s.hart h).chanAt ch).map (fun c => c.xfers.length)).getD 0) (fun k =>
      (s.copyDone h ch k).orElse fun _ => ((s.xfer h ch k).bind Xfer.nextPiece).bind (s.copyPiece h ch k)))

/-- The hart's posted ring releases take effect. -/
def State.releaseWork (s : State) (h : Nat) : Option State :=
  firstOf (s.hart h).stg.releases.length (fun k => (s.takeRelease h k true).orElse (fun _ => s.takeRelease h k false))

/-- The array of a cluster goes on. -/
def State.arrayWork (s : State) (cl : Nat) : Option State :=
  (firstOf ((s.cluster cl).fills.length + 1) (s.arrayComplete cl)).orElse fun _ =>
    (s.arrayStart cl).orElse fun _ =>
      ((s.parkStart cl).parkDone cl).orElse fun _ =>
        (s.restoreDone cl).orElse fun _ =>
          (s.clearDone cl).orElse fun _ => (s.budgetEnd cl).orElse fun _ => s.leaseGrant cl

/-- The units of a strand's core go on: barrier wires, tile commit. -/
def State.coreWork (s : State) (c : Nat) : Option State :=
  (firstOf 3 (s.barrierComplete c)).orElse fun _ =>
    (firstOf (s.core c).tickets.length (s.applyTicket c)).orElse fun _ => s.loweringEnd c

/-- A cluster's island changes come to their end. -/
def State.islandWork (s : State) (cl : Nat) : Option State :=
  [false, true].findSome? (fun a =>
    (s.islandClockDone cl a).orElse fun _ => (s.islandOffDone cl a).orElse fun _ => s.islandOnDone cl a)

/-- The units of the device go on: the distributor, a shootdown, table changes, link turns, islands. -/
def State.deviceWork (s : State) : Option State :=
  (firstOf s.dev.queries.length s.wdqStep).orElse fun _ =>
    s.shootDone.orElse fun _ =>
      s.homeDone.orElse fun _ =>
        s.applyDone.orElse fun _ =>
          ((s.dev.links.map Prod.fst).findSome? (fun l =>
            (s.turnDrained l).orElse fun _ => (s.turnDone l).orElse fun _ => s.turnBegin l)).orElse fun _ =>
              (s.clusters.map Prod.fst).findSome? s.islandWork

/-- A walk that runs on the core of hart h goes on (R133). -/
def State.walkWork (s : State) (h : Nat) : Option State :=
  if isMgmt h then none else (s.core (coreOf h)).walking.head?.bind (fun w => s.pageWalk w.hart w.va)

/-- The first work that goes on by itself around hart h, if there is any. -/
noncomputable def State.work (s : State) (h : Nat) : Option State :=
  (s.walkWork h).orElse fun _ => (s.waitWork h).orElse fun _ =>
    (s.scalarWork h).orElse fun _ =>
      (if isMgmt h then none
        else (s.vectorWork h).orElse fun _ =>
          (s.copyWork h).orElse fun _ =>
            (s.releaseWork h).orElse fun _ => (s.arrayWork (clOf h)).orElse fun _ => s.coreWork (coreOf h)).orElse fun _ =>
              s.deviceWork

/-! ## A hart's turn -/

/-- What follows where an outcome is a next state. -/
def andThen (o : Out) (f : State → State) : Out :=
  match o with
  | .next s => .next (f s)
  | .fault r => .fault r
  | .refused r => .refused r

/-- Hart h issues a decoded instruction: it is executed, where its registers are ready (R66). -/
noncomputable def State.issueInstr (s : State) (h : Nat) (i : Instr) : Out :=
  if (s.hart h).ready i then
    let o := exec i s
    andThen o (fun t => t.issued h (s.issues h o))
  else .next s

/-- Hart h fetches, decodes and issues its next instruction; where the fetch fails, or the word is no instruction, the
exception is taken (R28, R59). -/
noncomputable def State.fetchIssue (s : State) (h : Nat) : Out :=
  match s.fetchAt h with
  | .stop z => .next (s.fetchStop h z)
  | .ok x =>
    let w := s.fetchWord h x.pa
    let s := s.setAD x
    match decode w with
    | none => .next (s.illegalWord h w)
    | some i => s.issueInstr h i

/-- One turn of hart h: a notice, an interrupt, with `around` one piece of the work around it, or its next instruction. -/
noncomputable def State.hartTurn (s : State) (h : Nat) (around : Bool) : Out :=
  if !s.runnable h then .next s
  else match s.notice h with
  | some t => .next t
  | none =>
    match s.takes h with
    | some i => .next (if i = 17 then s.takePreempt h else s.takeInterrupt h i)
    | none =>
      match (if around then s.work h else none) with
      | some t => .next t
      | none => if s.mayIssue h then s.fetchIssue h else .next s

/-- The turn of hart h as the machine's current hart. -/
noncomputable def State.turn (s : State) (h : Nat) (around : Bool) : Out :=
  andThen (State.hartTurn { s with cur := h } h around) (fun t => { t with cur := s.cur })

/-- A turn of the agenda, taken off it. -/
noncomputable def State.take (s : State) (x : Turn) : Out :=
  match x with
  | .hart h => s.turn h true
  | .issue h => s.turn h false
  | .event i => if i.isEvent then exec i s else .fault .notAnEvent
  | .elapse n ns => .next (s.elapse n ns)
  | .evict e => .next (s.evict e)

end Sys2Proof.Machine
end

