-- ==== Sys2Proof/Machine/Step.lean ====
section
/-!
DEFINITION. One step of the machine: the next turn of the agenda, or, where the agenda lists nothing, a turn of the current
hart in which one cy passes (log 1, log 6); and where the host puts an instruction to be run.
-/
namespace Sys2Proof.Machine

/-- One step. -/
noncomputable def step (s : State) : Host.Outcome State Fault Refusal :=
  match s.agenda with
  | [] => andThen (s.turn s.cur true) State.tick
  | x :: r => State.take { s with agenda := r } x

/-- The current hart made ready to fetch: it is on and waits for nothing, and device memory answers. -/
def State.readyToFetch (s : State) : State :=
  (({ s with agenda := [] }).onDev (fun d => { d with trained := true, admitted := d.admitted.ins 0 true })).onHart s.cur
    (fun t => { t with on := true, wait := .none, fetchBuf := [] })

/-- The state with an instruction of nbits bits stored where the current hart fetches next: in place of a program that is
loaded from outside (log 33). -/
def State.withFetchWord (s : State) (nbits w : Nat) : State :=
  let s := s.readyToFetch
  match s.fetchAt s.cur with
  | .ok x =>
    (s.onCore (bufCore s.cur) (fun c => { c with icache := c.icache.del x.pa })).setBytes x.pa (bytesOf 4 (w % 2 ^ nbits))
  | .stop _ => s

end Sys2Proof.Machine
end

