-- ==== Sys2Proof/Safety.lean ====
section
/-!
DEFINITION. The terms that claims use: a safe state, an instruction that answers a next state, and what a step leaves alone.
-/
namespace Sys2Proof.Machine

/-- A safe state: its memory keeps the canonical form. -/
def State.Safe (s : State) : Prop := Memory.wf s = true

/-- The machine answers a next state for the instruction, and P holds of it. -/
def Answers (i : Instr) (s : State) (P : State → Prop) : Prop := ∃ t, exec i s = .next t ∧ P t

/-- Every byte of memory reads as before. -/
def SameMem (s t : State) : Prop := ∀ a, t.byte a = s.byte a

/-- Every byte of memory outside n bytes from `a` reads as before. -/
def SameMemBut (s t : State) (a n : Nat) : Prop := ∀ b, b < a ∨ a + n ≤ b → t.byte b = s.byte b

/-- Nothing but hart h has changed: not the other harts, not a byte of memory, not another unit of the part. -/
def OnlyHart (s t : State) (h : Nat) : Prop :=
  (∀ k, k ≠ h → t.hart k = s.hart k) ∧ SameMem s t ∧ t = { s with harts := t.harts }

/-- Hart h as it stands once an instruction that changes none of its registers has retired to `pc`. -/
def Hart.retired (t : Hart) (pc : Word) : Hart :=
  { t with pc := pc, instret := t.instret + 1, pos := t.pos + 1, wait := .none }

/-- The current hart has retired an instruction to `pc` with no other effect anywhere. -/
def Retires (s : State) (pc : Word) (t : State) : Prop :=
  t.hart s.cur = (s.hart s.cur).retired pc ∧ OnlyHart s t s.cur

/-- Every x register of the current hart holds what it held, but X[rd] holds v; x0 reads 0 always (R24, R30). -/
def XHolds (s : State) (rd : BitVec 5) (v : Word) (t : State) : Prop :=
  ∀ n, t.x s.cur n = if n = rd.toNat ∧ n ≠ 0 then v else s.x s.cur n

/-- The current hart has retired to `pc` an instruction that writes v to X[rd] and nothing else anywhere. -/
def WritesX (s : State) (rd : BitVec 5) (v pc : Word) (t : State) : Prop :=
  XHolds s rd v t ∧ t.hart s.cur = { (s.hart s.cur).retired pc with x := (t.hart s.cur).x } ∧ OnlyHart s t s.cur

/-- The address of the next instruction of the current hart. -/
def State.nextPc (s : State) : Word := (s.hart s.cur).pc + 4

/-! ## Base instructions -/

/-- The quotient and remainder that R55 gives at a width: rounded towards zero on the signed values; a zero divisor yields a
quotient of all ones and a remainder equal to the dividend. The most negative value divided by -1 gives itself and 0. -/
def SignedDivision {n : Nat} (a b q r : BitVec n) : Prop :=
  (b = 0 → q = BitVec.allOnes n ∧ r = a) ∧
  (a = BitVec.intMin n ∧ b = BitVec.allOnes n → q = BitVec.intMin n ∧ r = 0) ∧
  (b ≠ 0 ∧ ¬(a = BitVec.intMin n ∧ b = BitVec.allOnes n) → q.toInt = Int.tdiv a.toInt b.toInt ∧ r.toInt = Int.tmod a.toInt b.toInt)

/-- As `SignedDivision`, on the unsigned values. -/
def UnsignedDivision {n : Nat} (a b q r : BitVec n) : Prop :=
  (b = 0 → q = BitVec.allOnes n ∧ r = a) ∧ (b ≠ 0 → q.toNat = a.toNat / b.toNat ∧ r.toNat = a.toNat % b.toNat)

/-- A target of a jump or a branch may be gone to where it is a multiple of 4 (R26). -/
def TargetOk (t : Word) : Prop := t.toNat % 4 = 0

/-! ## Traps -/

/-- mstatus after a trap into S-mode: SPP is 1 where the trap came from S-mode, SPIE takes SIE, SIE is 0, the rest stays. -/
def PushedS (old new : Word) (fromS : Bool) : Prop :=
  new.getLsbD 8 = fromS ∧ new.getLsbD 5 = old.getLsbD 1 ∧ new.getLsbD 1 = false ∧
    ∀ i, i ≠ 1 → i ≠ 5 → i ≠ 8 → new.getLsbD i = old.getLsbD i

/-- mstatus after a trap into M-mode: MPP holds the mode, MPIE takes MIE, MIE is 0, the rest stays. -/
def PushedM (old new : Word) (md : Mode) : Prop :=
  fld new 11 2 = md.code ∧ new.getLsbD 7 = old.getLsbD 3 ∧ new.getLsbD 3 = false ∧
    ∀ i, i ≠ 3 → i ≠ 7 → i ≠ 11 → i ≠ 12 → new.getLsbD i = old.getLsbD i

/-- Where a trap goes under a trap-vector register: the base, or base + 4·code for an interrupt in vectored mode. -/
def HandlerAt (tvec : Word) (intr : Bool) (code : Nat) (pc : Word) : Prop :=
  pc = (tvec &&& ~~~3#64) + (if intr = true ∧ tvec.getLsbD 0 = true ∧ tvec.getLsbD 1 = false then BitVec.ofNat 64 (4 * code) else 0)

/-- Hart h has taken a trap (R65, R308): in S-mode where the cause is delegated and the hart was not in M-mode, else in M-mode;
pc, cause and trap value are saved in that mode's registers, the status is pushed, the reservation is lost (R57), and every
other register and unit is as it was. Where a resume state is held, the return that ends the trap is kept (R101): its kind, and the
mode and pc that the trap interrupted. -/
def TrapTaken (u : State) (h : Nat) (intr : Bool) (code : Nat) (tval : Word) (t : State) : Prop :=
  let a := u.hart h
  let b := t.hart h
  let cause : Word := BitVec.ofNat 64 code ||| (if intr then 1#64 <<< 63 else 0)
  OnlyHart u t h ∧
  let toS : Bool := decide (a.mode ≠ .m) && (if intr then a.csr.mideleg else a.csr.medeleg).getLsbD code
  let kept : List Frame := if a.vec.resume = [] then [] else [{ kind := if toS then 1 else 2, mode := a.mode, pc := a.pc }]
  b = { a with pc := b.pc, mode := b.mode, csr := b.csr, vec := { a.vec with frames := kept ++ a.vec.frames },
               resv := none, wait := .none } ∧
  if toS = true then
    b.mode = .s ∧
      b.csr = { a.csr with sepc := a.pc, scause := cause, stval := tval, mstatus := b.csr.mstatus } ∧
      PushedS a.csr.mstatus b.csr.mstatus (decide (a.mode = .s)) ∧ HandlerAt a.csr.stvec intr code b.pc
  else
    b.mode = .m ∧
      b.csr = { a.csr with mepc := a.pc, mcause := cause, mtval := tval, mstatus := b.csr.mstatus } ∧
      PushedM a.csr.mstatus b.csr.mstatus a.mode ∧ HandlerAt a.csr.mtvec intr code b.pc

/-- The current hart's instruction has raised an exception: its vector side has stopped (R25, R99), and the trap is taken
from there; the instruction itself has had no effect (R65). -/
def Raises (s : State) (code : Nat) (tval : Word) (t : State) : Prop :=
  TrapTaken (s.stopVector s.cur (s.allSeq s.cur)) s.cur false code tval t

/-- The current hart's instruction was illegal: cause 2, and the trap value is its word, zero-extended (R28). -/
def RaisesIllegal (s : State) (w : BitVec 32) (t : State) : Prop := Raises s 2 (w.setWidth 64) t

/-- From state u, hart h has issued its next instruction: where it is a strand, the yields of its core wait for it no more (R239);
nothing else anywhere has changed. -/
def Struck (u : State) (h : Nat) (t : State) : Prop :=
  (∀ k, t.hart k = { u.hart k with wait :=
    match (u.hart k).wait with
    | .yield_ till others => .yield_ till (if k < 2048 ∧ h < 2048 ∧ coreOf k = coreOf h then others.filter (fun x => decide (x ≠ h)) else others)
    | w => w }) ∧ { t with harts := u.harts } = u

/-- A return of a kind (0 upret, 1 sret, 2 mret) has gone to a mode and a pc, and left vector side v as w: a held resume state is reinstated,
every instruction of it queued in order, where the return is back at the interrupted code, past every trap and upcall taken since (R101).
Which of those it has ended is the model's reading (log 66): those up to the innermost that interrupted this mode and pc, or, where none
did, that one such return ends. -/
def Returned (v : Vec) (kind : Nat) (md : Mode) (pc : Word) (w : Vec) : Prop :=
  let here : Frame → Prop := fun f => f.mode = md ∧ f.pc = pc
  let ended : Frame → Prop := fun f => if ∃ g ∈ v.frames, here g then here f else f.mode = md ∧ f.kind = kind
  ((∀ f ∈ v.frames, ¬ended f) → w = v) ∧
  ∀ inner f outer, v.frames = inner ++ f :: outer → ended f → (∀ g ∈ inner, ¬ended g) →
    (outer ≠ [] → w = { v with frames := outer }) ∧
    (outer = [] → w = { v with resume := [], frames := [], queue := w.queue, nextSeq := w.nextSeq } ∧
      w.queue.take v.queue.length = v.queue ∧
      ((∀ r ∈ v.resume, (VOp.ofWord r.word).isSome = true) →
        (w.queue.drop v.queue.length).map (fun e => (e.pos, e.word)) = v.resume.map (fun r => (r.pos, r.word))))

/-! ## Memory accesses -/

/-- The region rules count the address as memory: device memory, a vault way or a scratchpad (R56). -/
def MemoryAt (pa : Nat) : Prop :=
  (∃ c o, regionOf pa = .scratch c o) ∨ (∃ c w, regionOf pa = .vault c w) ∨ regionOf pa = .dram

/-- A byte of memory as hart h's next instruction sees it: from the youngest of its own retired stores that covers the byte
(R121), else from memory. -/
def State.seen (s : State) (h a : Nat) : Byte :=
  let own := (s.hart h).stores.filter (fun x => decide (x.pos < (s.hart h).pos) && decide (x.pa ≤ a) && decide (a < x.pa + x.width))
  match own.getLast? with
  | some x => (x.val >>> (8 * (a - x.pa))).setWidth 8
  | none => s.byte a

/-- A ring within the limits of Table 9-2, its region in one scratchpad or one vault. -/
def Ring.Legal (r : Ring) : Prop :=
  2 ≤ r.n ∧ r.n ≤ 16 ∧ 128 ≤ r.z ∧ r.z % 128 = 0 ∧
    ((∃ c off, c < 512 ∧ r.basePa = scratchBase c + off ∧ off + r.n * r.z ≤ 0xC0000) ∨
      (∃ cl off, cl < 128 ∧ r.basePa = vaultBase cl + off ∧ off + r.n * r.z ≤ 0x2000000))

/-- Two addresses lie in one window extent (Table 1-7), by the windows that hold them. -/
def SameExtent (a b : Win) : Prop :=
  match a, b with
  | .scratch _, .scratch _ => True
  | .vault _, .vault _ => True
  | .ring r _, .ring q _ => r = q
  | .span _ _, .span _ _ => True
  | _, _ => False

/-- Ring slot w of hart h is bound as rs to ring r of its cluster (R205). -/
def SlotBound (s : State) (h w : Nat) (rs : RingSlot) (r : Ring) : Prop :=
  (s.hart h).stg.rings.find w = some rs ∧ s.ring (clOf h) rs.ring = some r

/-- The VST entry of a granule for hart h, in its context (R19, R137). -/
def SpanEntryIs (s : State) (h g : Nat) (e : BitVec 32) : Prop := ∃ c, s.ctxOf h = some c ∧ e = s.vstEntry (coreOf h) c g

/-- The physical address that a window address of hart h names (Table 1-7, R15, R136, R206). -/
def WindowPlace (s : State) (h v pa : Nat) : Prop :=
  (∃ off, winOf v = .scratch off ∧ pa = scratchBase (coreOf h) + off) ∨ (∃ off, winOf v = .vault off ∧ pa = vaultBase (clOf h) + off) ∨
  (∃ w off rs r, winOf v = .ring w off ∧ SlotBound s h w rs r ∧ pa = r.basePa + (r.r + off / r.z) % r.n * r.z + off % r.z) ∨
  (∃ g off e, winOf v = .span g off ∧ SpanEntryIs s h g e ∧ pa = fld e 0 18 * 2 ^ 21 + off)

/-- The ring rules let hart h access byte v of its ring windows, at a place in program order (R206, R211): the slot is bound to a formed
ring, the byte is one of it, its stage acquired, and no consumer stores. -/
def RingAllows (s : State) (h pos : Nat) (store : Bool) (v : Nat) : Prop :=
  ∀ w off, winOf v = .ring w off → ∃ rs r, SlotBound s h w rs r ∧ r.formed = true ∧ off < r.n * r.z ∧
    r.r + off / r.z ∈ (s.hart h).stg.acquired rs pos ∧ ¬(store = true ∧ rs.consumer = true)

/-- Nothing has changed, or one entry has gone from the translation buffer that hart h uses: a translation found stale (R131). -/
def StaleDropped (s t : State) (h : Nat) : Prop :=
  t = s ∨ ((∃ e, t.core (bufCore h) = { s.core (bufCore h) with tlb := (s.core (bufCore h)).tlb.erase e }) ∧
    (∀ k, k ≠ bufCore h → t.core k = s.core k) ∧ { t with cores := s.cores } = s)

/-- v is the little-endian number of n bytes (R2), sign-extended or zero-extended to 64 bits. -/
def Extends (n : Nat) (signed : Bool) (b : Nat → Byte) (v : Word) : Prop :=
  ∀ i, i < 64 → v.getLsbD i = if i < 8 * n then (b (i / 8)).getLsbD (i % 8) else signed && (b (n - 1)).getLsbD 7

/-- Whether n bytes from pa touch the 32-byte granule of address a (R57). -/
def TouchesGranule (a pa n : Nat) : Prop := ∃ i, i < n ∧ (pa + i) / 32 = a / 32

/-- Line `b` of a slice is line `a` after a write of n bytes at pa: the sectors that it holds and the write touches are dirty, and
nothing else of it has changed (R122). -/
def SliceWritten (a b : SliceLine) (pa n : Nat) : Prop :=
  b = { a with dirty := b.dirty } ∧ ∀ i, i < 8 → (b.dirty.getLsbD i = true ↔ a.dirty.getLsbD i = true ∨
    (a.sectors.getLsbD i = true ∧ shareGranule (a.addr + 32 * i) 32 pa n = true))

/-- A store has performed at its home (R57, R121, R122): the bytes stand in memory and no others have changed; every reservation on a
granule they touch is lost, that of hart h itself only where `own`; copies of their lines are gone from every L1 but that of
core c, and a slice that holds their lines holds them dirty; nothing else has changed. An error mark that the bytes cover whole is
gone: the model's reading (log 52, DEDUCED). -/
def Performed (s : State) (own : Bool) (h : Nat) (c : Option Nat) (pa : Nat) (bs : List Byte) (t : State) : Prop :=
  (∀ i (hi : i < bs.length), t.byte (pa + i) = bs[i]) ∧ SameMemBut s t pa bs.length ∧
  (∀ k, t.hart k = { s.hart k with resv := (t.hart k).resv } ∧
    ∀ a n, (t.hart k).resv = some (a, n) ↔
      (s.hart k).resv = some (a, n) ∧ ¬((own = true ∨ k ≠ h) ∧ TouchesGranule a pa bs.length)) ∧
  (∀ k, t.core k = { s.core k with l1 := (t.core k).l1, l1used := (t.core k).l1used, slice := (t.core k).slice } ∧
    (∀ l, l % 32 = 0 → (l ∈ (t.core k).l1 ↔ l ∈ (s.core k).l1 ∧ (some k ≠ c → ¬TouchesGranule l pa bs.length))) ∧
    List.Forall₂ (fun a b => SliceWritten a b pa bs.length) (s.core k).slice (t.core k).slice) ∧
  (∀ p, p ∈ t.dev.poison ↔ p ∈ s.dev.poison ∧ ¬(pa ≤ p.1 ∧ p.1 + p.2 ≤ pa + bs.length)) ∧
  t = { s with mem := t.mem, harts := t.harts, cores := t.cores, dev := { s.dev with poison := t.dev.poison } }

/-- The fault queue of context c has taken entry e (R314, Tables 13-5 to 13-7), and its notice has gone to the named strand or counts
as undelivered; or, where the queue is full, and by log 45's reading where it is not valid, the entry is counted as lost. -/
def FqPosted (s : State) (c : Nat) (e : FqEntry) (t : State) : Prop :=
  let x := s.ctx c
  let size := 2 ^ (fld x.fqctl 0 4 + 6)
  let room := x.fqctl.getLsbD 30 = true ∧ x.fqtail - x.fqhead < size
  let at_ := x.fqbase.toNat / 4096 * 4096 % 2 ^ 48 + 64 * (x.fqtail % size)
  let bs : List Byte := [(2, e.kind), (1, c), (1, if x.pendLoss = 0 then 0 else 1), (4, x.fqtail % 2 ^ 32), (8, e.addr),
    (4, e.hart.getD 0xFFFFFFFF), (4, e.chan % 4 + e.tile % 16 * 4), (4, e.xfer), (4, e.cause), (4, x.pendLoss), (28, 0)].flatMap
      (fun f => bytesOf f.1 f.2)
  let strand := fld x.fqctl 16 12
  let told := x.fqctl.getLsbD 28 = true ∧ s.ctxOf strand = some c
  let others : State → Prop := fun u => ∀ k, k ≠ c → t.ctx k = u.ctx k
  (¬room → t.ctx c = { x with fqlost := x.fqlost + 1, pendLoss := x.pendLoss + 1 } ∧ others s ∧
    t.dev.events.get 0 4 = s.dev.events.get 0 4 + 1 ∧ { t with ctxs := s.ctxs, dev := { t.dev with events := s.dev.events } } = s) ∧
  (room → ∃ u, Performed s true 2048 none at_ bs u ∧ others u ∧
    (told → t.ctx c = { x with fqtail := x.fqtail + 1, pendLoss := 0 } ∧ (∀ k, k ≠ strand → t.hart k = u.hart k) ∧
      t.hart strand = { u.hart strand with stg := { (u.hart strand).stg with async := (u.hart strand).stg.async ++ [x.fqtail] } }) ∧
    (¬told → t.ctx c = { x with fqtail := x.fqtail + 1, pendLoss := 0, undelivered := true } ∧ t.harts = u.harts) ∧
    { t with ctxs := u.ctxs, harts := u.harts } = u)

/-- The access of the current hart at `va` passes every check and reaches memory at x, waits behind no copy (R217) and behind no
order that memory of I/O type asks for (R58, as log 51 reads it). -/
def Reaches (s : State) (va : Word) (n : Nat) (a : Acc') (write : Bool) (x : Hit) : Prop :=
  s.access s.cur va n a = .ok x ∧ MemoryAt x.pa ∧ s.held s.cur (s.hart s.cur).pos va.toNat n write = false ∧
    s.ioWaits s.cur x = false

/-- An access leaves nothing behind in its translation: no bit of a leaf is to be set (R131), no entry of a buffer is stale, newly used or newly read. -/
def Hit.Plain (x : Hit) : Prop := x.ad = none ∧ x.walked = none ∧ x.stale = none ∧ x.fill = none

/-- An access is of I/O type: the PBMT type of its page is 2, which counts for device memory only (R118). -/
def IoType (x : Hit) : Prop := x.pbmt = 2 ∧ regionOf x.pa = .dram

/-- Nothing has changed but which lines hart h's L1 has marked as used (R121; the policy is log 57). -/
def L1Marked (s t : State) (h : Nat) : Prop :=
  (∀ k, t.core k = { s.core k with l1used := (t.core k).l1used } ∧ (h < 2048 → k ≠ coreOf h → t.core k = s.core k)) ∧
    { t with cores := s.cores } = s

/-- A scalar access of the current hart to a remote window (R215, R323, R329), from the state u that its translation leaves: it leaves as a
message of a kind and waits for its answer, or, where its pair does not send, fails at once and is reported to the fault queue of its
context (log 62), and then does what `gone` says. The numbers of the messages are the model's (log 12). -/
def RemoteAccess (i : Instr) (s u : State) (va : Word) (pa : Nat) (load : Option Load) (kind : Nat) (data : List Byte)
    (gone : State → State → Prop) : Prop :=
  let h := u.hart s.cur
  let e := u.dev.windows.get [] (pa / 2 ^ 40 - 128)
  let r : Remote := { pos := h.pos, va := va.toNat, ctx := u.ctxOf s.cur, load := load, img := none, window := pa / 2 ^ 40 - 128, qp := fld (e.getD 0 0) 1 12 }
  let bs := bytesOf 8 (e.getD 1 0 + BitVec.ofNat 64 (pa % 2 ^ 40)).toNat ++ bytesOf 4 (fld (e.getD 2 0) 0 32) ++ data
  let sends := fld ((u.dev.qps.get [] r.qp).getD 0 0) 1 2 = 1
  (sends → Answers i s (fun t => t.hart s.cur = { h.retired s.nextPc with remotes := h.remotes ++ [r] } ∧
    OnlyHart { u with sent := u.sent ++ [(kind, r.qp, bs)] } t s.cur)) ∧
  (¬sends → u.ctxOf s.cur = none → Answers i s (gone u)) ∧
  (¬sends → ∀ c, u.ctxOf s.cur = some c → Answers i s (fun t => ∃ v, gone v t ∧
    FqPosted u c { kind := 1, addr := va.toNat, hart := some s.cur, chan := 0, tile := 0, xfer := 0, cause := if load = none then 7 else 5 } v))

/-- Nothing has changed but what L1s and slices hold and what hart h's stream detector has seen: the lines that an access brings
nearer, and those that leave for them (R118, R121, R122, R124; the policy is log 57). -/
def CachesOnly (s t : State) (h : Nat) : Prop :=
  (∀ k, t.core k = { s.core k with l1 := (t.core k).l1, l1used := (t.core k).l1used, slice := (t.core k).slice }) ∧
  (∀ k, t.hart k = { s.hart k with detector := (t.hart k).detector } ∧ (k ≠ h → t.hart k = s.hart k)) ∧
  { t with cores := s.cores, harts := s.harts } = s

/-- A load of n bytes at `va` behaves as Table 3-1 says: where the data are at hand (a covering own store, the own scratchpad, a
line in L1), or the memory is of I/O type (log 51, DEDUCED), the register gets them and the instruction retires; else it retires with
the load in flight, its register written when the data return (R126). A bits are set first (R131). One of a device register gets what that
gives, or raises an access fault (R351); one of a remote window leaves, and a lost one gives a free value (log 30). -/
def LoadsAs (i : Instr) (s : State) (va : Word) (n : Nat) (signed isF : Bool) (rd : BitVec 5)
    (done : State → Word → State → Prop) : Prop :=
  (∀ x, s.access s.cur va n .load = .ok x → let entry : Load := { pos := (s.hart s.cur).pos, rd := rd.toNat, isF := isF, pa := x.pa, width := n, signed := signed }
    (∀ off, regionOf x.pa = .reg off → (s.devLoad off n = none → Answers i s (Raises s 5 va)) ∧
      ∀ b u, s.devLoad off n = some (b, u) → ∃ v, Extends n signed (fun j => BitVec.ofNat 8 (b / 2 ^ (8 * j))) v ∧ Answers i s (done (u.setAD x) v)) ∧
    (isRemote x.pa = true → RemoteAccess i s (s.setAD x) va x.pa (some entry) 1 (bytesOf 1 n) (fun u t => ∃ v,
      Extends n signed (fun j => (Config.lostLoad (s.setAD x).freeCount >>> (8 * j)).setWidth 8) v ∧
      done { u with freeCount := u.freeCount + 1 } v t))) ∧
  ∀ x, Reaches s va n .load false x →
    ((s.setAD x).quick s.cur x n = true ∨ IoType x →
      ∃ v u, Extends n signed (fun j => (s.setAD x).seen s.cur (x.pa + j)) v ∧ L1Marked (s.setAD x) u s.cur ∧ Answers i s (done u v)) ∧
    ((s.setAD x).quick s.cur x n = false → ¬IoType x →
      Answers i s (fun t =>
        (t.hart s.cur).loads = (s.hart s.cur).loads ++
          [{ pos := (s.hart s.cur).pos, rd := rd.toNat, isF := isF, pa := x.pa, width := n, signed := signed }] ∧
        (t.hart s.cur).pc = s.nextPc ∧ (t.hart s.cur).x = (s.hart s.cur).x ∧ (t.hart s.cur).f = (s.hart s.cur).f ∧
        (t.hart s.cur).stores = (s.hart s.cur).stores ∧ SameMem (s.setAD x) t))

/-- A store of n bytes at `va` of a value enters the store buffer, where that has room, and leaves memory, every register and every
other hart as they are; it performs later (R66, R121). To memory of I/O type it performs at once (log 51, DEDUCED). One to a device
register has the effect that its register gives it, or raises an access fault (R351), waits for a change under way, or is held until its
own is done; one to a remote window leaves. -/
def StoresAs (i : Instr) (s : State) (va : Word) (n : Nat) (v : Nat) : Prop :=
  (∀ x, s.access s.cur va n .store = .ok x →
    (∀ off, regionOf x.pa = .reg off → let d := (s.setAD x).devStore s.cur off n (v % 2 ^ (8 * n))
      (d = .fault → Answers i s (Raises s 7 va)) ∧ (d = .wait → Answers i s (fun t => t = s)) ∧
      (∀ u, d = .ok u → Answers i s (Retires u s.nextPc)) ∧
      ∀ u, d = .held u → Answers i s (fun t => t.hart s.cur = { u.hart s.cur with wait := heldWait x.pa } ∧ OnlyHart u t s.cur)) ∧
    (isRemote x.pa = true → RemoteAccess i s (s.setAD x) va x.pa none 2 (bytesOf n (v % 2 ^ (8 * n))) (fun u t => Retires u s.nextPc t))) ∧
  ∀ x, Reaches s va n .store true x →
    (¬IoType x → (s.hart s.cur).stores.length < 8 →
      Answers i s (fun t =>
        t.hart s.cur = { ((s.setAD x).hart s.cur).retired s.nextPc with
          stores := (s.hart s.cur).stores ++ [{ pos := (s.hart s.cur).pos, va := va.toNat, pa := x.pa, width := n,
                                                val := BitVec.ofNat 64 (v % 2 ^ (8 * n)), fe := false,
                                                code := if x.pbmt = 0 ∧ regionOf x.pa = .dram then some x.code else none }] } ∧
        OnlyHart (s.setAD x) t s.cur)) ∧
    (IoType x → Answers i s (fun t => ∃ u,
      Performed (s.setAD x) false s.cur none x.pa (bytesOf n v) u ∧ Retires u s.nextPc t)) ∧
    (¬IoType x → 8 ≤ (s.hart s.cur).stores.length → Answers i s (fun t => t = s))

/-- An atomic of the current hart at `va` goes ahead: its checks pass, its own older accesses of the granule are done, with rl all
its older accesses (R57, R269), and no copy holds the bytes. -/
def AtomicGoes (s : State) (va : Word) (n : Nat) (a : Acc') (write rel sys : Bool) (x : Hit) : Prop :=
  s.access s.cur va n a = .ok x ∧ s.held s.cur (s.hart s.cur).pos va.toNat n write = false ∧
    s.atomicReady s.cur x.pa n rel sys = true

/-- An AMO: the old n bytes, sign-extended, go to X[rd] and the new value to memory, in one operation at the home. -/
def AmoDoes (i : Instr) (s : State) (rd : BitVec 5) (va : Word) (n : Nat) (rel sys : Bool) (f : Nat → Nat) : Prop :=
  ∀ x, AtomicGoes s va n .atomic true rel sys x →
    Answers i s (fun t => ∃ u0 u v, CachesOnly (s.setAD x) u0 s.cur ∧
      Performed u0 false s.cur (ownCore s.cur) x.pa (bytesOf n (f ((s.setAD x).mem64 x.pa n))) u ∧
      Extends n true (fun j => (s.setAD x).byte (x.pa + j)) v ∧ WritesX u rd v s.nextPc t)

/-! ## Floating point -/

/-- mstatus with FS Dirty and SD set, every other bit as it was (R61). -/
def FsDirty (old new : Word) : Prop :=
  new.getLsbD 13 = true ∧ new.getLsbD 14 = true ∧ new.getLsbD 63 = true ∧
    ∀ i, i ≠ 13 → i ≠ 14 → i ≠ 63 → new.getLsbD i = old.getLsbD i

/-- The current hart has retired to `pc` an instruction that writes v to F[rd] and accrues flags, and nothing else anywhere; FS is
Dirty after it. -/
def WritesF (s : State) (rd : BitVec 5) (v : Half) (fl : FFlags) (pc : Word) (t : State) : Prop :=
  (∀ n, t.f s.cur n = if n = rd.toNat then v else s.f s.cur n) ∧
  FsDirty (s.hart s.cur).csr.mstatus (t.hart s.cur).csr.mstatus ∧
  t.hart s.cur = { (s.hart s.cur).retired pc with
    f := (t.hart s.cur).f, fflags := (s.hart s.cur).fflags ||| fl,
    csr := { (s.hart s.cur).csr with mstatus := (t.hart s.cur).csr.mstatus } } ∧
  OnlyHart s t s.cur

/-- As `WritesX`, with flags accrued; FS becomes Dirty only where a flag is accrued (R61). -/
def WritesXF (s : State) (rd : BitVec 5) (v : Word) (fl : FFlags) (pc : Word) (t : State) : Prop :=
  XHolds s rd v t ∧
  (if fl = 0 then (t.hart s.cur).csr.mstatus = (s.hart s.cur).csr.mstatus
    else FsDirty (s.hart s.cur).csr.mstatus (t.hart s.cur).csr.mstatus) ∧
  t.hart s.cur = { (s.hart s.cur).retired pc with
    x := (t.hart s.cur).x, fflags := (s.hart s.cur).fflags ||| fl,
    csr := { (s.hart s.cur).csr with mstatus := (t.hart s.cur).csr.mstatus } } ∧
  OnlyHart s t s.cur

/-- The rounding mode m that an rm field selects: its own, or frm where it is dynamic (R61). -/
def RoundsBy (s : State) (rm : BitVec 3) (m : Nat) : Prop :=
  (rm.toNat < 5 ∧ m = rm.toNat) ∨ (rm.toNat = 7 ∧ (s.hart s.cur).frm.toNat < 5 ∧ m = (s.hart s.cur).frm.toNat)

/-- mstatus.FS is not Off. -/
def FsOn (s : State) : Prop := fld (s.hart s.cur).csr.mstatus 13 2 ≠ 0

/-- The rational number that a finite value stands for. -/
def FVal.rat : FVal → ℚ
  | .fin n m e => (if n then -1 else 1) * (m : ℚ) * (2 : ℚ) ^ e
  | _ => 0

/-- A code of a format that stands for a finite number. -/
def FiniteCode (f : Fmt) (c : Nat) : Prop := c < 2 ^ (f.eb + f.mb + 1) ∧ c / 2 ^ f.mb % 2 ^ f.eb ≠ 2 ^ f.eb - 1

/-- r is the number of a set that a rounding mode selects for v (R61): 0 the nearest, ties to an even one, 1 towards zero, 2 down, 3 up,
4 the nearest, ties away from zero. -/
def Picks (member even : ℝ → Prop) (m : Nat) (v r : ℝ) : Prop :=
  member r ∧ ∀ y, member y →
    match m with
    | 0 => |r - v| < |y - v| ∨ r = y ∨ (|r - v| = |y - v| ∧ even r)
    | 1 => 0 ≤ r * v ∧ |r| ≤ |v| ∧ (|y| ≤ |v| → |y| ≤ |r|)
    | 2 => r ≤ v ∧ (y ≤ v → y ≤ r)
    | 3 => v ≤ r ∧ (v ≤ y → r ≤ y)
    | _ => |r - v| < |y - v| ∨ r = y ∨ (|r - v| = |y - v| ∧ |y| ≤ |r|)

/-- A number with the precision of a format, whatever its exponent. -/
def OfPrecision (f : Fmt) (y : ℝ) : Prop := ∃ n e : Int, n.natAbs < 2 ^ (f.mb + 1) ∧ y = n * (2 : ℝ) ^ e

/-- Such a number with an even last place. -/
def EvenPlace (f : Fmt) (y : ℝ) : Prop :=
  ∃ n e : Int, 2 ^ f.mb ≤ n.natAbs ∧ n.natAbs < 2 ^ (f.mb + 1) ∧ n % 2 = 0 ∧ y = n * (2 : ℝ) ^ e

/-- The exponent above every finite number of a format. -/
def Fmt.emax (f : Fmt) : Int := 2 ^ (f.eb - 1)

/-- r is the code and the flags of a nonzero number v rounded once into a format (R60, R61; IEEE 754-2019). Where v, rounded with no
bound on the exponent, is beyond the finite numbers: overflow and inexact, and infinity or the greatest finite number as the mode
selects, with the sign of v. Else the number of the format that the mode selects, with the sign of v; inexact where it differs from v,
and underflow beside that where v, rounded with no bound on the exponent, is below the least normal number (tininess after rounding). -/
def RoundsTo (f : Fmt) (m : Nat) (v : ℝ) (r : Nat × FFlags) : Prop :=
  let sign : Nat := if v < 0 then 2 ^ (f.eb + f.mb) else 0
  let inf := (2 ^ f.eb - 1) * 2 ^ f.mb
  let value : Nat → ℝ := fun c => ((f.val c).rat : ℝ)
  ∃ w, Picks (OfPrecision f) (EvenPlace f) m v w ∧
    ((2 : ℝ) ^ f.emax ≤ |w| → r.2 = 5 ∧
      r.1 = sign + (if m = 1 ∨ (m = 2 ∧ 0 < v) ∨ (m = 3 ∧ v < 0) then inf - 1 else inf)) ∧
    (|w| < (2 : ℝ) ^ f.emax → FiniteCode f r.1 ∧ r.1 / 2 ^ (f.eb + f.mb) * 2 ^ (f.eb + f.mb) = sign ∧
      Picks (fun y => ∃ c, FiniteCode f c ∧ y = value c) (fun y => ∃ c, FiniteCode f c ∧ c % 2 = 0 ∧ y = value c) m v (value r.1) ∧
      r.2 = if value r.1 = v then 0 else if |w| < (2 : ℝ) ^ (2 - f.emax) then 3 else 1)

/-- The code of a zero or an infinity of a sign. -/
def zeroCode (f : Fmt) (neg : Bool) : Nat := if neg then 2 ^ (f.eb + f.mb) else 0
def infCode (f : Fmt) (neg : Bool) : Nat := zeroCode f neg + (2 ^ f.eb - 1) * 2 ^ f.mb

/-- The canonical NaN (R60, R85), with the invalid flag where a signaling NaN was an operand or no number is the result. -/
def NanResult (f : Fmt) (invalid : Bool) (r : Nat × FFlags) : Prop :=
  r = ((2 ^ f.eb - 1) * 2 ^ f.mb + 2 ^ (f.mb - 1), if invalid then 16 else 0)

/-- r is the sum of two values, rounded once; an exact sum of zero is -0 where both are zeros with that sign, or where they differ
in sign, or neither is a zero, and the mode is down. -/
def SumTo (f : Fmt) (m : Nat) (a b : FVal) (r : Nat × FFlags) : Prop :=
  match a, b with
  | .nan s, y => NanResult f (s || y.snan) r
  | x, .nan s => NanResult f (s || x.snan) r
  | .inf n, .inf k => if n = k then r = (infCode f n, 0) else NanResult f true r
  | .inf n, .fin _ _ _ => r = (infCode f n, 0)
  | .fin _ _ _, .inf n => r = (infCode f n, 0)
  | .fin n k e, .fin n' k' e' =>
    let v : ℝ := ((FVal.fin n k e).rat + (FVal.fin n' k' e').rat : ℚ)
    (v ≠ 0 → RoundsTo f m v r) ∧
      (v = 0 → r = (zeroCode f (if k = 0 ∧ k' = 0 ∧ n = n' then n else decide (m = 2)), 0))

/-- p is the exact product of two values that are no NaN, and not a zero and an infinity. -/
def ProductIs (a b p : FVal) : Prop :=
  match a, b with
  | .fin n _ _, .fin n' _ _ => (∃ k e, p = .fin (n != n') k e) ∧ p.rat = a.rat * b.rat
  | .inf n, .fin n' k _ => k ≠ 0 ∧ p = .inf (n != n')
  | .fin n k _, .inf n' => k ≠ 0 ∧ p = .inf (n != n')
  | .inf n, .inf n' => p = .inf (n != n')
  | _, _ => False

/-- One value is a zero and the other an infinity. -/
def ZeroTimesInf (a b : FVal) : Prop :=
  (∃ n n' e, a = .inf n ∧ b = .fin n' 0 e) ∨ (∃ n n' e, a = .fin n' 0 e ∧ b = .inf n)

/-- Whether the value of a code that is no NaN is below that of another. -/
def Below (a b : FVal) : Prop :=
  match a, b with
  | .inf n, .inf k => n = true ∧ k = false
  | .inf n, .fin _ _ _ => n = true
  | .fin _ _ _, .inf k => k = false
  | .fin _ _ _, .fin _ _ _ => a.rat < b.rat
  | _, _ => False

/-! ## CSRs -/

/-- The current hart may access CSR n, for writing where `w` (R62, R63): the CSR exists on it, the mode is high enough for csr[9:8],
a read-only CSR is not written, a counter is enabled for the mode, fcsr and its parts want FS on, and satp is not trapped by TVM. -/
def CsrReachable (s : State) (n : Nat) (w : Bool) : Prop :=
  let t := s.hart s.cur
  (s.csrValue s.cur n).isSome = true ∧ n / 256 % 4 ≤ t.mode.code ∧ (w = true → n / 1024 ≠ 3) ∧
    (0xC00 ≤ n → n ≤ 0xC02 →
      (t.mode = .m ∨ (t.csr.mcounteren.getLsbD (n - 0xC00) = true ∧
        (t.mode = .s ∨ t.csr.scounteren.getLsbD (n - 0xC00) = true)))) ∧
    (1 ≤ n → n ≤ 3 → FsOn s) ∧ ¬(n = 0x180 ∧ t.mode = .s ∧ t.csr.mstatus.getLsbD 20 = true)

/-- A write of CSR n may show in CSR k: they are one, or views of the same state (fcsr and its parts, which also make FS Dirty, R61;
mstatus and sstatus; mie and sie, mip and sip, and mideleg, which masks the S-mode views). -/
def CsrShares (n k : Nat) : Prop :=
  k = n ∨ (1 ≤ n ∧ n ≤ 3 ∧ k ∈ [1, 2, 3, 0x100, 0x300]) ∨ (n ∈ [0x100, 0x300] ∧ k ∈ [0x100, 0x300]) ∨
    (n ∈ [0x104, 0x304, 0x303] ∧ k ∈ [0x104, 0x304]) ∨ (n ∈ [0x144, 0x344, 0x303] ∧ k ∈ [0x144, 0x344])

/-- A CSR instruction that writes CSR n has retired: the old value is in X[rd], nothing but the CSRs of the hart (its fflags and frm
among them) and X[rd] has changed, and every CSR that shares nothing with n reads as before; instret counts the instruction. -/
def CsrDone (s : State) (rd : BitVec 5) (n : Nat) (old : Word) (t : State) : Prop :=
  XHolds s rd old t ∧ OnlyHart s t s.cur ∧
    t.hart s.cur = { (s.hart s.cur).retired s.nextPc with
      x := (t.hart s.cur).x, csr := (t.hart s.cur).csr, fflags := (t.hart s.cur).fflags, frm := (t.hart s.cur).frm } ∧
    (∀ k, ¬CsrShares n k → k ≠ 0xC02 → t.csrValue s.cur k = s.csrValue s.cur k) ∧
    (1 ≤ n → n ≤ 3 → FsDirty (s.hart s.cur).csr.mstatus (t.hart s.cur).csr.mstatus)

/-- The CSRs that hold every bit written to them: mscratch and sscratch, upvec, upepc and upstat (R142), and (log 3, PRESUMED) mcause,
mtval, scause and stval. -/
def plainCsrs : List Nat := [0x340, 0x140, 0x800, 0x801, 0x803, 0x342, 0x343, 0x142, 0x143]

/-- The bits of a CSR that a write replaces, its other bits reading 0 after it: fflags 5, frm 3, fcsr 8; upcause as R142 lays it out;
shomecfg bit 0 (R132); and (log 3, PRESUMED) mepc and sepc without their low two bits, mtvec and stvec without bit 1, the three
counter enables, FIOM of the environment configurations, medeleg and mideleg. -/
def csrMasks : List (Nat × Word) :=
  [(1, 31), (2, 7), (3, 255), (0x802, 0xF7F), (0x5C0, 1), (0x341, ~~~3#64), (0x141, ~~~3#64), (0x305, ~~~2#64), (0x105, ~~~2#64),
   (0x306, 7), (0x106, 7), (0x30A, 1), (0x10A, 1), (0x302, 0xFF00B3FF), (0x303, 0xF0222)]

/-- The interrupt-enable bits that a hart has: the standard ones, and those of Table 13-4 that it can have pending. -/
def enableBits (h : Nat) : Word := 0xAAA ||| (if 2048 ≤ h then 0xD0000 else 0x60000)

/-- Bits taken from a new value under a mask, the others kept. -/
def MaskedWrite (old new mask : Word) : Word := (old &&& ~~~mask) ||| (new &&& mask)

/-- mstatus after a write under a mask: the writable bits of the mask take the new value, MPP only where it is a mode; SD follows FS;
every other bit stays (log 3, PRESUMED). -/
def StatusWritten (mask old v new : Word) : Prop :=
  (∀ i, i < 63 → new.getLsbD i =
    if (mask &&& 0x7E79AA).getLsbD i = true ∧ ¬((i = 11 ∨ i = 12) ∧ fld v 11 2 = 2) then v.getLsbD i else old.getLsbD i) ∧
  new.getLsbD 63 = decide (fld new 13 2 = 3)

/-- What CSR n reads after a write of v: a plain one v; the masked ones v under their mask; mie v under the bits that the hart has, sie
those of them that are delegated; mip the software bits, sip its delegated one; satp v where its MODE is Bare or Sv57, else it stays;
mstatus, and sstatus its S-mode view, as `StatusWritten` says. Beside the rules of Table 13-2 and R61 these are log 3 (PRESUMED). -/
def CsrHolds (s : State) (n : Nat) (v : Word) (t : State) : Prop :=
  let h := s.cur
  let c := (s.hart h).csr
  let reads := t.csrValue h
  (n ∈ plainCsrs → reads n = some v) ∧ (∀ m, (n, m) ∈ csrMasks → reads n = some (v &&& m)) ∧
    (n = 0x304 → reads n = some (v &&& enableBits h)) ∧
    (n = 0x104 → ∀ o, s.csrValue h 0x304 = some o → reads 0x304 = some (MaskedWrite o v (c.mideleg &&& enableBits h))) ∧
    (n = 0x344 → ∀ o, s.csrValue h n = some o → reads n = some (MaskedWrite o v 0x222)) ∧
    (n = 0x144 → ∀ o, s.csrValue h 0x344 = some o → reads 0x344 = some (MaskedWrite o v (c.mideleg &&& 2))) ∧
    (n = 0x180 → reads n = if fld v 60 4 = 0 ∨ fld v 60 4 = 10 then some v else some c.satp) ∧
    (n = 0x300 → StatusWritten (BitVec.allOnes 64) c.mstatus v (t.hart h).csr.mstatus) ∧
    (n = 0x100 → StatusWritten 0x80000003000DE122 c.mstatus v (t.hart h).csr.mstatus)

/-- The CSRs of Tables 13-1 and 13-2 that exist on a hart: on a management hart of the device CSRs only chron and shomecfg. -/
def csrNumbers (h : Nat) : List Nat :=
  [1, 2, 3, 0xC00, 0xC01, 0xC02, 0x100, 0x104, 0x105, 0x106, 0x10A, 0x140, 0x141, 0x142, 0x143, 0x144, 0x180, 0x300, 0x301, 0x302, 0x303,
   0x304, 0x305, 0x306, 0x30A, 0x340, 0x341, 0x342, 0x343, 0x344, 0xF11, 0xF12, 0xF13, 0xF14, 0xF15, 0xCC4, 0x5C0] ++
    (List.range 8).map (fun i => 0x3A0 + 2 * i) ++ (List.range 64).map (fun i => 0x3B0 + i) ++
    (if 2048 ≤ h then [] else [0x800, 0x801, 0x802, 0x803, 0xCC0, 0xCC1, 0xCC2, 0xCC3, 0xCC5])

/-! ## Translations -/

/-- A walk may read 8 bytes there: backed device memory without an error (R128, R336). -/
def State.TableAt (s : State) (p : Nat) : Prop := regionOf p = .dram ∧ s.backing p = .ok ∧ s.poisoned p 8 = false

/-- An entry that leads to the next table: valid, without permissions, its reserved bits and PPN high 0 (Table 6-3). -/
def Pointer (e : Word) : Prop :=
  e.getLsbD 0 = true ∧ fld e 1 3 = 0 ∧ e.getLsbD 4 = false ∧ fld e 6 2 = 0 ∧ fld e 46 18 = 0

/-- A walk of an address from the table at a base, of a level, reads entry e at level l, at p (R130): each entry before it leads to the
next table. -/
def State.WalkReads (s : State) (va l p : Nat) (e : Word) : Nat → Nat → Prop
  | 0, base => l = 0 ∧ p = base + va / 2 ^ 12 % 512 * 8 ∧ e = BitVec.ofNat 64 (s.mem64 p 8)
  | k + 1, base =>
    let q := base + va / 2 ^ (12 + 9 * (k + 1)) % 512 * 8
    let f : Word := BitVec.ofNat 64 (s.mem64 q 8)
    (l = k + 1 ∧ p = q ∧ e = f) ∨ (s.TableAt q ∧ Pointer f ∧ State.WalkReads s va l p e k (fld f 10 36 * 4096))

/-- An entry has R or X set. -/
def LeafEntry (e : Word) : Prop := e.getLsbD 1 = true ∨ e.getLsbD 3 = true

/-- Tests 3 to 9 of Table 6-3: a valid entry read at a level that makes a page fault whatever the access. -/
def BadEntry (c : Csrs) (level : Nat) (e : Word) : Prop :=
  (e.getLsbD 2 = true ∧ e.getLsbD 1 = false) ∨ (¬LeafEntry e ∧ (fld e 54 10 ≠ 0 ∨ fld e 6 2 ≠ 0 ∨ e.getLsbD 4 = true)) ∨
    (LeafEntry e ∧ (2 ≤ level ∨ fld e 61 2 = 3 ∨ (fld e 54 7 ≠ 0 ∧ c.he = false) ∨
      (level = 1 ∧ (fld e 10 9 ≠ 0 ∨ e.getLsbD 63 = true)) ∨ (level = 0 ∧ e.getLsbD 63 = true ∧ fld e 10 4 ≠ 8)))

/-- Test 11 of Table 6-3: the leaf permits the access: R, or X under MXR, for a load, W for a store, X for a fetch; U for U-mode, no U or
SUM for S-mode, and no U at all for an S-mode fetch. -/
def LeafPermits (c : Csrs) (md : Mode) (a : Acc') (e : Word) : Prop :=
  (match a with
    | .fetch => e.getLsbD 3 = true
    | .store => e.getLsbD 2 = true
    | .atomic => e.getLsbD 2 = true
    | _ => e.getLsbD 1 = true ∨ (c.mstatus.getLsbD 19 = true ∧ e.getLsbD 3 = true)) ∧
  (match md with
    | .u => e.getLsbD 4 = true
    | .s => e.getLsbD 4 = false ∨ (a ≠ .fetch ∧ c.mstatus.getLsbD 18 = true)
    | .m => True)

/-- What a leaf read at a level, at p, gives for an access (R129 to R131): the physical address, of 2 MiB, 64 KiB (Svnapot) or 4 KiB
pages, the PBMT type, the home code, and the A and D bits that are still to be set. -/
def LeafGives (va level p : Nat) (a : Acc') (e : Word) (x : Hit) : Prop :=
  x.pbmt = fld e 61 2 ∧ x.code = fld e 54 7 ∧ x.stage = none ∧ x.mapped = true ∧ x.walked = none ∧ x.stale = none ∧
    x.pa = (if level = 1 then fld e 10 36 * 4096 + va % 2 ^ 21
      else if e.getLsbD 63 then fld e 14 32 * 2 ^ 16 + va % 2 ^ 16 else fld e 10 36 * 4096 + va % 2 ^ 12) ∧
    (let d := a = .store ∨ a = .atomic
     (e.getLsbD 6 = true ∧ (d → e.getLsbD 7 = true) → x.ad = none) ∧
     (e.getLsbD 6 = false ∨ (d ∧ e.getLsbD 7 = false) →
       ∃ new, x.ad = some (p, e, new) ∧ ∀ i, new.getLsbD i = (e.getLsbD i || decide (i = 6) || (decide (i = 7) && decide d))))

/-- What the walk of an address by hart h that ends at leaf e, read at a level at p, has for its core to install (R133): the translation,
and the entries read at levels 4, 3 and 2. A management hart installs nothing. -/
def State.WalkFills (s : State) (h va level p : Nat) (e : Word) (x : Hit) : Prop :=
  let satp := (s.hart h).csr.satp
  let bits := if level = 1 then 21 else if e.getLsbD 63 then 16 else 12
  (2048 ≤ h → x.fill = none) ∧
  (h < 2048 → ∃ path : List WalkEntry, path.map WalkEntry.level = [4, 3, 2] ∧
    x.fill = some (coreOf h, { vpn := va / 2 ^ bits, bits := bits, asid := fld satp 44 16, global := e.getLsbD 5, pte := e, ptePa := p }, path) ∧
    ∀ w ∈ path, w.asid = fld satp 44 16 ∧ w.prefix_ = va / 2 ^ (12 + 9 * w.level) % 2 ^ (45 - 9 * w.level) ∧
      ∃ q, s.WalkReads va w.level q w.pte 4 (fld satp 0 44 * 4096))

/-- A translation buffer entry that sfence.vma or a shootdown selects (R63, R135): its page holds the address, by the 57 bits that
Sv57 translates, or every address is meant; and it is of the address space and not global, or every address space is meant. -/
def FencedEntry (allVa allAsid : Bool) (va asid : Nat) (e : TlbEntry) : Prop :=
  (allVa = true ∨ e.vpn % 2 ^ (57 - e.bits) = va % 2 ^ 57 / 2 ^ e.bits) ∧ (allAsid = true ∨ (e.global = false ∧ e.asid = asid))

/-- The same for a walk-cache entry, which holds the VPNs from the root down to its level: it lies on the path to the address. -/
def FencedWalk (allVa allAsid : Bool) (va asid : Nat) (w : WalkEntry) : Prop :=
  (allVa = true ∨ w.prefix_ = va % 2 ^ 57 / 2 ^ (12 + 9 * w.level)) ∧ (allAsid = true ∨ w.asid = asid)

/-- Every wdq query of hart h from before a place in its program order has been taken by the distributor: a query is a scalar store to
its home (R261). -/
def QueriesTaken (s : State) (h pos : Nat) : Prop := ∀ q ∈ s.dev.queries, q.hart = h → q.pos < pos → q.answer ≠ none

/-- The scalar stores of hart h from before a place in its program order that have left its buffer have performed: those to remote windows
are acknowledged (R323), and the distributor has taken the queries. -/
def StoresOut (s : State) (h pos : Nat) : Prop :=
  (∀ r ∈ (s.hart h).remotes, r.load = none → pos ≤ r.pos) ∧ QueriesTaken s h pos

/-! ## Vector instructions -/

/-- A field names a vector register of the configuration in force: below 8, 16 or 32 (R30, Table 4-1). -/
def VregOk (s : State) (r : BitVec 5) : Prop := r.toNat < 8 * 2 ^ (s.hart s.cur).vec.ncode

/-- The type in force is i8 to i64. -/
def IntType (s : State) : Prop := (s.hart s.cur).vec.vetype.toNat < 4

/-- The type in force is f16, bf16 or f32. -/
def FloatType (s : State) : Prop := 4 ≤ (s.hart s.cur).vec.vetype.toNat ∧ (s.hart s.cur).vec.vetype.toNat ≤ 6

/-- The type in force is defined (R37, Table 2-8). -/
def TypeDefined (s : State) : Prop := (s.hart s.cur).vec.vetype.toNat ≤ 11 ∧ (s.hart s.cur).vec.vetype.toNat ≠ 7

/-- frm holds a rounding mode (R61). -/
def FrmOk (s : State) : Prop := (s.hart s.cur).frm.toNat < 5

/-- A queue of the current strand has fewer than 16 instructions (R77); a fence.vv takes a place in the VLQ and in the VSQ (R265). -/
def HasRoom (s : State) (q : VQueue) : Prop := ((s.hart s.cur).vec.queue.filter (fun e => e.inQueue q)).length < 16

/-- What an instruction captures at its scalar retirement beside VL, the type, frm and n: X[xs1], X[xs2], F[fs1], scale registers. -/
structure Operands where
  x1 : Word := 0
  x2 : Word := 0
  fv : Half := 0
  scales : List Half := []

/-- The instruction of the current hart has entered a vector queue and retired (R72, R77): one entry, last in sequence, with the
operands captured and nothing of it done, or none where its VL is 0 and it has no group; no register of the hart, no other hart, no
byte of memory and no other unit has changed. -/
def Entered (s : State) (q : VQueue) (op : VOp) (w : BitVec 32) (o : Operands) (t : State) : Prop :=
  let h := s.hart s.cur
  ∃ e : VEntry,
    e = { seq := h.vec.nextSeq, pos := h.pos, entered := h.pos, q := q, op := op, word := w, x1 := o.x1, x2 := o.x2, fv := o.fv, scales := o.scales,
          vl := h.vec.vl, ty := h.vec.vetype, frm := h.frm, ncode := h.vec.ncode, slip := h.vec.slip, next := 0, pend := [],
          got := [], seen := [], res := none, since := none, probed := none } ∧
    t.hart s.cur = { h.retired s.nextPc with
      vec := { h.vec with queue := h.vec.queue ++ (if e.groups = 0 then [] else [e]), nextSeq := h.vec.nextSeq + 1 } } ∧
    OnlyHart s t s.cur

/-- What an own instruction that goes to a vector queue does: it enters where it is legal and the queue has room, waits in an
unchanged state while the queue is full, and is illegal where `ok` fails and on every management hart (R28, R35). -/
def GoesTo (i : Instr) (s : State) (ok : Prop) (q : VQueue) (op : VOp) (o : Operands) : Prop :=
  (s.cur < 2048 → ok → HasRoom s q → Answers i s (Entered s q op (encode i) o)) ∧
    (s.cur < 2048 → ok → ¬HasRoom s q → Answers i s (fun t => t = s)) ∧
    (¬(s.cur < 2048 ∧ ok) → Answers i s (RaisesIllegal s (encode i)))

/-- Element i of group g is active: below VL, in the group, and its bit of mask k is set; k0 counts as all ones (R24, R82, R107). -/
def ActiveIn (e : VEntry) (v : Vec) (k g i : Nat) : Prop :=
  g * e.gsize ≤ i ∧ i < (g + 1) * e.gsize ∧ i < e.vl ∧ (k = 0 ∨ v.mbit k i = true)

/-- Register vd has been written in some elements of eb bits, those of `act`, with what `val` gives them; every other element, every
other register and every other part of the vector side is as it was. The validity of a block with an element written (R84): all
its sources must be valid, and where the block was written in part only, it must have been valid before. -/
def WroteElems (v w : Vec) (vd eb : Nat) (act : Nat → Prop) (val : Nat → Nat) (good : Nat → Prop) : Prop :=
  w = { v with v := w.v } ∧ (∀ r, r ≠ vd → w.reg r = v.reg r) ∧
  (∀ i, (i + 1) * eb ≤ 65536 → (act i → (w.reg vd).elem eb i = val i % 2 ^ eb) ∧
    (¬act i → (w.reg vd).elem eb i = (v.reg vd).elem eb i)) ∧
  (∀ b, b < 256 → ((w.reg vd).ok b = true ↔
    (∀ i, act i → i / 32 = b → good i) ∧ ((∃ i, i / 32 = b ∧ ¬act i) → (v.reg vd).ok b = true))) ∧
  ((∃ i, act i) → (w.reg vd).dirty = true)

/-- The result of an integer operation on elements of n bits (Table 4-4); a shift takes its amount modulo n. -/
def IntResult (f : IntOp) (n : Nat) (a b d : BitVec n) : BitVec n :=
  match f with
  | .add => a + b
  | .sub => a - b
  | .mul => a * b
  | .mulh => BitVec.ofInt n (a.toInt * b.toInt / ((2 ^ n : Nat) : Int))
  | .mulhu => BitVec.ofNat n (a.toNat * b.toNat / 2 ^ n)
  | .macc => d + a * b
  | .and => a &&& b
  | .or => a ||| b
  | .xor => a ^^^ b
  | .sll => a <<< (b.toNat % n)
  | .srl => a >>> (b.toNat % n)
  | .sra => a.sshiftRight (b.toNat % n)
  | .min => if b.slt a then b else a
  | .minu => if b.ult a then b else a
  | .max => if a.slt b then b else a
  | .maxu => if a.ult b then b else a

/-- The result of a floating-point operation on codes of a format, rounded once by a mode where it rounds (Table 4-6): `d` is vd's
element, the addend of vfmacc, vfnmacc and vfmsac. -/
def FloatResult (f : FpOp) (m : Fmt) (rm a b d : Nat) : Nat :=
  match f with
  | .add => (m.add rm a b).1
  | .sub => (m.sub rm a b).1
  | .mul => (m.mul rm a b).1
  | .div => (m.div rm a b).1
  | .sqrt => (m.sqrt rm a).1
  | .macc => (m.fma rm false false a b d).1
  | .nmacc => (m.fma rm true true a b d).1
  | .msac => (m.fma rm false true a b d).1
  | .min => (m.minmax false a b).1
  | .max => (m.minmax true a b).1
  | .sgnj => a % 2 ^ (m.eb + m.mb) + b / 2 ^ (m.eb + m.mb) % 2 * 2 ^ (m.eb + m.mb)
  | .class => m.fclass a

/-- The scalar operand of an entry as an element of its type (Table 4-3). -/
def VEntry.scalarElem (e : VEntry) : Nat :=
  if e.ty.toNat = 6 then e.fv.toNat
  else match fmtOf e.ty with
    | some m => (m.ofVal 0 (Fmt.f32.val e.fv.toNat)).1
    | none => e.x1.toNat % 2 ^ ebits e.ty

/-- A code of a narrow type is invalidating: the NaN of e4m3, an infinity or a NaN of e5m2 (Table 7-1). -/
def Invalidating (ty : BitVec 4) (c : Nat) : Prop := (ty = 8 ∧ c % 128 = 127) ∨ (ty = 9 ∧ 124 ≤ c % 128)

/-- The magnitude of a code, its sign bit left out, of e4m3, e5m2 or e2m1 (Table 7-1). -/
def narrowMag (f : Fmt) (c : Nat) : ℚ :=
  ((c % 2 ^ f.mb + (if c / 2 ^ f.mb = 0 then 0 else 2 ^ f.mb) : Nat) : ℚ) *
    2 ^ (((max 1 (c / 2 ^ f.mb) : Nat) : Int) + 1 - 2 ^ (f.eb - 1) - (f.mb : Int))

/-- The number that an element stands for; none for a NaN, an infinity or an invalidating code. Not for l8q. -/
def ElemIs (ty : BitVec 4) (c : Nat) (v : Option ℚ) : Prop :=
  let n := ebits ty
  let neg := decide (c / 2 ^ (n - 1) % 2 = 1)
  match fmtOf ty, narrowOf ty with
  | some f, _ => (FiniteCode f c → v = some (f.val c).rat) ∧ (¬FiniteCode f c → v = none)
  | none, some f => (¬Invalidating ty c → v = some ((if neg then -1 else 1) * narrowMag f (c % 2 ^ (n - 1)))) ∧
      (Invalidating ty c → v = none)
  | none, none => v = some ((BitVec.ofNat n c).toInt : ℚ)

/-- d is a number v rounded into e4m3, e5m2 or e2m1 by a mode, with a sign: beyond the greatest magnitude the greatest (R172). -/
def NarrowCode (f : Fmt) (m : Nat) (neg : Bool) (v : ℚ) (d : Nat) : Prop :=
  let top := if f.eb = 4 then 0x7E else if f.eb = 5 then 0x7B else 7
  let s : ℝ := if neg then -1 else 1
  let value : Nat → ℝ := fun c => s * (narrowMag f c : ℝ)
  ∃ k, k ≤ top ∧ d = (if neg then 2 ^ (f.eb + f.mb) else 0) + k ∧ (narrowMag f top ≤ |v| → k = top) ∧
    (|v| < narrowMag f top → Picks (fun y => ∃ c, c ≤ top ∧ y = value c) (fun y => ∃ c, c ≤ top ∧ c % 2 = 0 ∧ y = value c) m (v : ℝ)
      (value k))

/-- A number rounded to an integer by a mode and saturated to the signed range of n bits is code d. -/
def IntCode (n m : Nat) (v : ℚ) (d : Nat) : Prop :=
  ∃ z : Int, Picks (fun y => ∃ i : Int, y = i) (fun y => ∃ i : Int, y = 2 * i) m (v : ℝ) (z : ℝ) ∧
    d = (max (-(2 ^ (n - 1))) (min (2 ^ (n - 1) - 1) z) % 2 ^ n).toNat

/-- vcvt of an element code c of one type into code d of another by a rounding mode (Tables 4-9 and 7-9); `bad` where it clears the
validity of its block (R172). -/
def Converts (src dst : BitVec 4) (m c d : Nat) (bad : Prop) : Prop :=
  let n := ebits dst
  let neg := decide (c / 2 ^ (ebits src - 1) % 2 = 1)
  (src = dst → d = c ∧ (bad ↔ Invalidating src c)) ∧
  (src ≠ dst → src ≠ 11 → dst ≠ 11 → m < 5 ∨ (src.toNat < 4 ∧ dst.toNat < 4) → ∀ v, ElemIs src c v →
    match fmtOf dst, narrowOf dst, v with
    | some f, _, some q => ¬bad ∧ (q ≠ 0 → ∃ fl, RoundsTo f m (q : ℝ) (d, fl)) ∧ (q = 0 → d = zeroCode f neg)
    | some f, _, none => (bad ↔ Invalidating src c) ∧
        (match fmtOf src with
          | some g => (c % 2 ^ g.mb = 0 → d = infCode f neg) ∧ (c % 2 ^ g.mb ≠ 0 → ∃ i, NanResult f i (d, if i then 16 else 0))
          | none => ∃ i, NanResult f i (d, if i then 16 else 0))
    | none, some f, some q => ¬bad ∧ NarrowCode f m neg q d
    | none, some _, none => bad ∧ d = if dst = 10 then 0 else if neg then 0xFF else 0x7F
    | none, none, some q => ¬bad ∧ IntCode n m q d
    | none, none, none => (bad ↔ Invalidating src c) ∧ (Invalidating src c → d = 0) ∧
        ∀ g, fmtOf src = some g → d = if neg = true ∧ c % 2 ^ g.mb = 0 then 2 ^ (n - 1) else 2 ^ (n - 1) - 1)

/-- "Value j" in a type (R93): the integer, or the number rounded to nearest even, in a narrow type saturated. -/
def ValueCode (ty : BitVec 4) (j c : Nat) : Prop :=
  match fmtOf ty, narrowOf ty with
  | some f, _ => (j = 0 → c = 0) ∧ (j ≠ 0 → ∃ fl, RoundsTo f 0 (j : ℝ) (c, fl))
  | none, some f => NarrowCode f 0 false (j : ℚ) c
  | none, none => c = j % 2 ^ ebits ty

/-- The values that meet at place j of a tree after k levels of pairs; an empty place passes the other on (R95). -/
def pairedUp (c : Nat → Nat → Nat) (leaf : Nat → Option Nat) : Nat → Nat → Option Nat
  | 0, j => leaf j
  | k + 1, j =>
    match pairedUp c leaf k (2 * j), pairedUp c leaf k (2 * j + 1) with
    | some x, some y => some (c x y)
    | some x, none => some x
    | none, y => y

/-- What a reduction of leaves i < vl, empty where inactive, with an initial value gives (R94, R95, Table 4-7). -/
def Reduces (f : RedOp) (ty : BitVec 4) (rm vl init : Nat) (leaf : Nat → Option Nat) (r : Nat) : Prop :=
  let n := ebits ty
  let wrap : Nat → Nat → Nat := fun a b => (a + b) % 2 ^ n
  let tree : (Nat → Nat → Nat) → Prop := fun c =>
    r = match pairedUp c leaf 13 0 with | some y => c init y | none => init
  let ordered : (Nat → Nat → Nat) → Prop := fun c => r = ((List.range vl).filterMap leaf).foldl c init
  let among : Nat → Prop := fun y => y = init ∨ ∃ i, i < vl ∧ leaf i = some y
  let least : Bool → Prop := fun most =>
    among r ∧ ∀ y, among y → if most then (BitVec.ofNat n y).toInt ≤ (BitVec.ofNat n r).toInt
      else (BitVec.ofNat n r).toInt ≤ (BitVec.ofNat n y).toInt
  let number : Fmt → Bool → Prop := fun m most =>
    let nan : Nat → Prop := fun y => (m.val y).isNan = true
    let neg : Nat → Prop := fun y => y / 2 ^ (m.eb + m.mb) % 2 = 1
    ((∀ y, among y → nan y) → (∃ i, i < vl ∧ leaf i ≠ none) → r = (2 ^ m.eb - 1) * 2 ^ m.mb + 2 ^ (m.mb - 1)) ∧
    ((∀ i, i < vl → leaf i = none) → r = init) ∧
    ((∃ y, among y ∧ ¬nan y) → among r ∧ ¬nan r ∧ ∀ y, among y → ¬nan y →
      if most then ¬Below (m.val r) (m.val y) ∧ (¬Below (m.val y) (m.val r) → neg r → neg y)
      else ¬Below (m.val y) (m.val r) ∧ (¬Below (m.val r) (m.val y) → neg y → neg r))
  match f with
  | .sum => tree wrap
  | .osum => ordered wrap
  | .min => least false
  | .max => least true
  | .fsum => ∀ m, fmtOf ty = some m → tree (fun a b => (m.add rm a b).1)
  | .fosum => ∀ m, fmtOf ty = some m → ordered (fun a b => (m.add rm a b).1)
  | .fmin => ∀ m, fmtOf ty = some m → number m false
  | .fmax => ∀ m, fmtOf ty = some m → number m true

/-- Mask register kd has been written in some bits; k0 is not written, and nothing else of the vector side has changed (R87, R96). -/
def WroteMask (v w : Vec) (kd : Nat) (act : Nat → Prop) (val : Nat → Prop) : Prop :=
  w = { v with k := w.k } ∧ (∀ j i, j ≠ kd ∨ kd = 0 ∨ ¬act i → i < 8192 → w.mbit j i = v.mbit j i) ∧
    (kd ≠ 0 → ∀ i, i < 8192 → act i → (w.mbit kd i = true ↔ val i))

/-! ## Quantised accesses -/

/-- The value of a block scale code, e8m0 or e8m4; none for the NaN code (Table 7-3). -/
def scaleRat (m4 : Bool) (c : Nat) : Option ℚ :=
  if m4 then
    (if c = 0xFFF then none
      else if c / 16 = 0 then some (2 ^ (-126 : Int) * ((c % 16 : Nat) : ℚ) / 16)
      else some (2 ^ (((c / 16 : Nat) : Int) - 127) * (1 + ((c % 16 : Nat) : ℚ) / 16)))
  else if c = 0xFF then none else some (2 ^ ((c : Int) - 127))

/-- By block format (Tables 2-9, 7-1, 7-4): the element type, the bytes of codes, the greatest finite element, the clamp bound, whether its
scales are e8m4, and the first bit and the width of block k's scale in the tail (R155). -/
def formatTy (fmt : Nat) : BitVec 4 := [8, 9, 10, 8, 10, 11].getD fmt 11
def codeBytes (fmt : Nat) : Nat := [32, 32, 16, 32, 16, 8].getD fmt 0
def greatest (fmt : Nat) : ℚ := [448, 57344, 6, 448, 6, 5 / 2].getD fmt 0
def clampBound (fmt : Nat) : ℚ := [16, 4096, 1, 16, 1, 1].getD fmt 0
def wideScale (fmt : Nat) : Bool := decide (3 ≤ fmt)
def scaleField (fmt k : Nat) : Nat × Nat := if wideScale fmt then (12 * k, 12) else (8 * k, 8)

/-- Block j of a quantised access at block address A (R156): its place k in its superblock, the address of its codes and of the tail. -/
def blockPlace (a fmt j : Nat) : Nat × Nat × Nat :=
  let n := a % 4 + j
  let sb := a / 8 * 8 + n / 4 * (4 * codeBytes fmt + 8)
  (n % 4, sb + n % 4 * codeBytes fmt, sb + 4 * codeBytes fmt)

/-- y is the list of the eight coordinates of an l8q index (R152). -/
def LatCoords (idx : Nat) (y : Nat → ℚ) : Prop :=
  let on : Nat → Prop := fun j => idx / 2 ^ j % 2 = 1
  let m : Nat → ℚ := fun j => if on j then (if on 15 then 5 / 2 else 3 / 2) else 1 / 2
  (∀ j, j < 7 → y j = if on (8 + j) then -m j else m j) ∧ (y 7 = m 7 ∨ y 7 = -m 7) ∧ ∃ z : Int, ((List.range 8).map y).sum = 2 * z

/-- Element i of a block with the given code bytes: its sign, and its number, none where the code is invalidating (R151, R152, R155). -/
def BlockElem (fmt : Nat) (byte : Nat → Nat) (i : Nat) (neg : Bool) (v : Option ℚ) : Prop :=
  let code := if fmt = 2 ∨ fmt = 4 then byte (i / 2) / 16 ^ (i % 2) % 16 else byte i
  if fmt = 5 then
    ∃ y, LatCoords (byte (2 * (i / 8)) + 256 * byte (2 * (i / 8) + 1)) y ∧ v = some (y (i % 8)) ∧ neg = decide (y (i % 8) < 0)
  else ElemIs (formatTy fmt) code v ∧ neg = decide (2 ^ (ebits (formatTy fmt) - 1) ≤ code)

/-- What vqld makes of a block (R158): its 32 elements as codes of a format, and whether it is valid. -/
def BlockLoads (f : Fmt) (rm fmt : Nat) (byte : Nat → Nat) (scale : Nat) (c : Nat → Nat) (ok : Prop) : Prop :=
  let s := scaleRat (wideScale fmt) scale
  let bad := s = none ∨ ∃ i n, i < 32 ∧ BlockElem fmt byte i n none
  (ok ↔ ¬bad) ∧ (bad → ∀ i, i < 32 → NanResult f false (c i, 0)) ∧
    (¬bad → ∀ i n v x, i < 32 → BlockElem fmt byte i n (some v) → s = some x →
      (v * x ≠ 0 → ∃ fl, RoundsTo f rm ((v * x : ℚ) : ℝ) (c i, fl)) ∧ (v * x = 0 → c i = zeroCode f n))

/-- A number rounded to nearest even into binary32; zero gives +0. -/
def RneCode (v : ℚ) (r : Half) : Prop := (v = 0 → r = 0) ∧ (v ≠ 0 → ∃ fl, RoundsTo Fmt.f32 0 (v : ℝ) (r.toNat, fl))

/-- t of R161 and R162: the element itself where the residue is a zero of either sign, else their sum rounded to nearest even. -/
def ShapedIn (x : FVal) (e : Half) (t : FVal) : Prop :=
  let none_ := e.toNat % 2 ^ 31 = 0
  (none_ → t = x) ∧ (¬none_ → ∃ c fl, SumTo Fmt.f32 0 x (Fmt.f32.val e.toNat) (c, fl) ∧ t = Fmt.f32.val c)

/-- The code of t under scale s, and the residue r that it leaves (R161): the nearest finite element, saturated, with the sign of t; the
rest t - q·s clamped to ±b·s and rounded, 0 without shaping. -/
def ElemShaped (fmt : Nat) (s : ℚ) (ns : Bool) (t : FVal) (code : Nat) (r : Half) : Prop :=
  let b := clampBound fmt * s
  let leaves : ℚ → Prop := fun v => if ns then r = 0 else RneCode (max (-b) (min b v)) r
  ∀ f, narrowOf (formatTy fmt) = some f →
    match t with
    | .fin n _ _ => NarrowCode f 0 n (t.rat / s) code ∧ ∃ q, ElemIs (formatTy fmt) code (some q) ∧ leaves (t.rat - q * s)
    | .inf n => NarrowCode f 0 n (if n then -greatest fmt else greatest fmt) code ∧ leaves (if n then -b else b)
    | .nan _ => True

/-- The coordinates y that one M of R162 gives for eight numbers w: the nearer of M and 1/2 by magnitude, with the sign of w; where their
sum is no even integer, the one change that least increases the squared distance, the lowest coordinate first, then the sign flip. -/
def LatTried (m : ℚ) (w y : Nat → ℚ) : Prop :=
  let near : Nat → ℚ := fun u => (if w u < 0 then -1 else 1) * (if |(|w u| - m)| < |(|w u| - 1 / 2)| then m else 1 / 2)
  let even := ∃ z : Int, ((List.range 8).map near).sum = 2 * z
  let cost : (Nat → ℚ) → ℚ := fun y => ((List.range 8).map (fun u => (w u - y u) ^ 2)).sum
  let change : Nat → Bool → Nat → ℚ := fun u swap j =>
    if j ≠ u then near j else if swap then near j * (if |near j| = 1 / 2 then 3 else 1 / 3) else -near j
  let may : Nat → Bool → Prop := fun u swap => u < 8 ∧ (swap = true → m = 3 / 2)
  (even → ∀ j, j < 8 → y j = near j) ∧
    (¬even → ∃ u swap, may u swap ∧ (∀ j, j < 8 → y j = change u swap j) ∧ ∀ u' swap', may u' swap' →
      cost (change u swap) < cost (change u' swap') ∨
        (cost (change u swap) = cost (change u' swap') ∧ (u < u' ∨ (u = u' ∧ (swap = false ∨ swap' = true)))))

/-- The index that R162 writes for eight numbers, and its coordinates: those of M = 5/2 only where they are nearer than those of 3/2. -/
def LatChosen (w : Nat → ℚ) (idx : Nat) (y : Nat → ℚ) : Prop :=
  let cost : (Nat → ℚ) → ℚ := fun y => ((List.range 8).map (fun u => (w u - y u) ^ 2)).sum
  ∃ y3 y5, LatTried (3 / 2) w y3 ∧ LatTried (5 / 2) w y5 ∧
    let m : ℚ := if cost y5 < cost y3 then 5 / 2 else 3 / 2
    (∀ j, j < 8 → y j = if cost y5 < cost y3 then y5 j else y3 j) ∧ idx < 2 ^ 16 ∧
      (∀ j, j < 8 → (idx / 2 ^ j % 2 = 1 ↔ |y j| = m)) ∧ (∀ j, j < 7 → (idx / 2 ^ (8 + j) % 2 = 1 ↔ y j < 0)) ∧
      (idx / 2 ^ 15 % 2 = 1 ↔ m = 5 / 2 ∧ ∃ j, j < 8 ∧ |y j| = 5 / 2)

/-- One index of a block under scale s (R162), whose first coordinate stands at chain position c0: only the first coordinate of a chain
takes its residue, and each chain is left the rest of its coordinates, clamped to ±s. Of coordinates that are not finite, log 35. -/
def IndexShaped (s : ℚ) (l : Leeway) (c0 : Nat) (x : Nat → FVal) (r : Tab Half) (idx : Nat) (r' : Tab Half) : Prop :=
  let chain : Nat → Nat := fun u => (c0 + u) % l.c
  let first : Nat → Prop := fun u => ∀ v, v < u → chain v ≠ chain u
  ∃ t : Nat → FVal, (∀ u, u < 8 → (l.ns = false ∧ first u → ShapedIn (x u) (r.get 0 (chain u)) (t u)) ∧ (¬(l.ns = false ∧ first u) → t u = x u)) ∧
    (∀ k, (∀ u, u < 8 → chain u ≠ k) → r'.get 0 k = r.get 0 k) ∧
    ((∀ u, u < 8 → (t u).finite = true) → ∃ y, LatChosen (fun u => (t u).rat / s) idx y ∧
      ∀ u, u < 8 → (l.ns = true → r'.get 0 (chain u) = 0) ∧ (l.ns = false → RneCode (max (-s) (min s
        (((List.range 8).filter (fun v => decide (chain v = chain u))).map (fun v => (t v).rat - y v * s)).sum)) (r'.get 0 (chain u))))

/-- What vqst makes of a block of 32 elements through a leeway register, its first element at chain position c0 (R159 to R163): its code
bytes, its scale code, and the residues it leaves. The scale is the least that keeps every element within the greatest. -/
def BlockShaped (fmt : Nat) (l : Leeway) (c0 : Nat) (valid : Bool) (x : Nat → FVal) (r : Tab Half) (bytes : List Byte) (scale : Nat)
    (r' : Tab Half) : Prop :=
  let good := valid = true ∧ ∀ i, i < 32 → (x i).finite = true
  let byte : Nat → Nat := fun i => (bytes.getD i 0).toNat
  let holds : ℚ → Prop := fun s => 0 < s ∧ ∀ i, i < 32 → |(x i).rat| ≤ greatest fmt * s
  let chain : Nat → Nat := fun i => (c0 + i) % l.c
  bytes.length = codeBytes fmt ∧ scale < (if wideScale fmt then 2 ^ 12 else 2 ^ 8) ∧
  (¬good → (∀ b ∈ bytes, b = 0) ∧ scaleRat (wideScale fmt) scale = none ∧ ∀ k,
    ((∃ i, i < 32 ∧ chain i = k) → r'.get 0 k = 0) ∧ ((∀ i, i < 32 → chain i ≠ k) → r'.get 0 k = r.get 0 k)) ∧
  (good → ∃ s, scaleRat (wideScale fmt) scale = some s ∧ holds s ∧ (∀ c s', scaleRat (wideScale fmt) c = some s' → holds s' → s ≤ s') ∧
    (fmt < 5 → ∃ (t : Nat → FVal) (code : Nat → Nat) (rs : Nat → Tab Half), rs 0 = r ∧ rs 32 = r' ∧
      (∀ i, i < 32 → ShapedIn (x i) (if l.ns then 0 else (rs i).get 0 (chain i)) (t i) ∧
        ElemShaped fmt s l.ns (t i) (code i) ((rs (i + 1)).get 0 (chain i)) ∧ ∀ k, k ≠ chain i → (rs (i + 1)).get 0 k = (rs i).get 0 k) ∧
      (codeBytes fmt = 32 → ∀ i, i < 32 → byte i = code i) ∧ (codeBytes fmt = 16 → ∀ i, i < 16 → byte i = code (2 * i) + 16 * code (2 * i + 1))) ∧
    (fmt = 5 → ∃ (idx : Nat → Nat) (rs : Nat → Tab Half), rs 0 = r ∧ rs 4 = r' ∧
      ∀ k, k < 4 → IndexShaped s l (c0 + 8 * k) (fun u => x (8 * k + u)) (rs k) (idx k) (rs (k + 1)) ∧
        byte (2 * k) + 256 * byte (2 * k + 1) = idx k))

/-- A stream of n blocks through a leeway register, from its position on (R160): block j is shaped with what block j - 1 left. -/
def StreamShaped (fmt : Nat) (l : Leeway) (n : Nat) (valid : Nat → Bool) (x : Nat → FVal) (bytes : Nat → List Byte) (scale : Nat → Nat)
    (r : Tab Half) : Prop :=
  ∃ rs : Nat → Tab Half, rs 0 = l.res ∧ rs n = r ∧ ∀ j, j < n →
    BlockShaped fmt l (l.p + 32 * j) (valid j) (fun i => x (32 * j + i)) (rs j) (bytes j) (scale j) (rs (j + 1))

/-- Every byte of a run passes the checks of Table 5-3 but alignment, in one extent with the first, and lies at P (R158). -/
def RunOk (s : State) (h pos va n : Nat) (store : Bool) (P : Nat → Nat) : Prop :=
  ∀ i, i < n → SameExtent (winOf va) (winOf (va + i)) ∧ s.vchk h pos (va + i) 1 1 store = .ok (P i)

/-- A run stops at byte a: the first outside the extent; or, all inside, the first that fails a check, where no other fails another. -/
def RunStops (s : State) (h pos va n : Nat) (store : Bool) (x : Stop) (a : Nat) : Prop :=
  let inside : Nat → Prop := fun i => SameExtent (winOf va) (winOf (va + i))
  let passes : Nat → Prop := fun i => ∃ p, s.vchk h pos (va + i) 1 1 store = .ok p
  ∃ i, i < n ∧ a = va + i ∧
    ((¬inside i ∧ x = .exc 30 ∧ ∀ j, j < i → inside j) ∨
      ((∀ j, j < n → inside j ∧ (passes j ∨ s.vchk h pos (va + j) 1 1 store = .stop x)) ∧ ¬passes i ∧ ∀ j, j < i → passes j))

/-! ## Tile products, rays, queries -/

/-- S is the exact sum of 32 products (R177): an infinity where the infinite ones have one sign; a sum of zero is -0 only where every
product is -0. -/
def DotIs (p : Nat → FVal) (S : FVal) : Prop :=
  ((∀ k, k < 32 → (p k).finite = true) → ∃ n m e, S = .fin n m e ∧ S.rat = ((List.range 32).map (fun k => (p k).rat)).sum ∧
    (S.rat = 0 → (n = true ↔ ∀ k, k < 32 → ∃ x, p k = .fin true 0 x))) ∧
  ((∃ k, k < 32 ∧ (p k).finite = false) → ∃ n, S = .inf n ∧ ∀ k, k < 32 → (p k).finite = false → p k = .inf n)

/-- An element of a tile product (R177): acc + sa · sb · S, exact, rounded once to nearest even; the canonical NaN where an operand is NaN
or the expression holds 0·∞ or ∞ - ∞. -/
def TileElem (a b : Nat → FVal) (acc sa sb : FVal) (r : Nat) : Prop :=
  let term : FVal → Prop := fun t => ∃ p S x, (∀ k, k < 32 → ProductIs (a k) (b k) (p k)) ∧ DotIs p S ∧ ProductIs sa sb x ∧ ProductIs x S t
  (∀ t, term t → ∃ fl, SumTo Fmt.f32 0 acc t (r, fl)) ∧ ((∀ t, ¬term t) → r = 0x7FC00000)

/-- Block kb of line r of an operand of an mmac (R187): of A, with 256 lines, or of B, with 128, in a block format of Table 2-9, or in bf16 where
`fmt` is none. `byte` gives the operand's bytes by offset; v the 32 values, sc the scale, and bad whether the block has a NaN scale or an
invalidating code (R193). -/
def PanelBlock (fmt : Option Nat) (lines r kb : Nat) (byte : Nat → Nat) (v : Nat → FVal) (sc : FVal) (bad : Prop) : Prop :=
  match fmt with
  | some f =>
    let size := 4 * codeBytes f + 8
    let sb := kb / 4 * (lines * size) + r * size
    let code : Nat → Nat := fun i => byte (sb + kb % 4 * codeBytes f + i)
    let tail := ((List.range 8).map (fun i => byte (sb + 4 * codeBytes f + i) * 256 ^ i)).sum
    let w := scaleField f (kb % 4)
    let s := scaleRat (wideScale f) (tail / 2 ^ w.1 % 2 ^ w.2)
    (bad ↔ s = none ∨ ∃ i n, i < 32 ∧ BlockElem f code i n none) ∧
      (¬bad → (∀ i, i < 32 → ∃ n m e x, v i = .fin n m e ∧ (v i).rat = x ∧ BlockElem f code i n (some x)) ∧
        ∃ m e, sc = .fin false m e ∧ s = some sc.rat)
  | none =>
    let o := kb / 4 * (lines * 256) + 256 * r + kb % 4 * 64
    ¬bad ∧ (∀ i, i < 32 → v i = Fmt.bf16.val (byte (o + 2 * i) + 256 * byte (o + 2 * i + 1))) ∧ ∃ m e, sc = .fin false m e ∧ sc.rat = 1

/-- What an mmac over n blocks of K makes of an element (R193): block after block, the element plus the scaled exact sum of the products,
rounded once to nearest even; the canonical NaN where a block is bad or the expression is undefined. -/
def MmacElement (fa fb : Option Nat) (n r c : Nat) (byteA byteB : Nat → Nat) (old new : Nat) : Prop :=
  ∃ z : Nat → Nat, z 0 = old ∧ z n = new ∧ ∀ kb, kb < n → ∃ va sa badA vb sb badB,
    PanelBlock fa 256 r kb byteA va sa badA ∧ PanelBlock fb 128 c kb byteB vb sb badB ∧
    (badA ∨ badB → z (kb + 1) = 0x7FC00000) ∧ (¬badA → ¬badB → TileElem va vb (Fmt.f32.val (z kb)) sa sb (z (kb + 1)))

/-- v is the value of an element code of a type other than l8q that is not invalidating. -/
def CodeVal (ty : BitVec 4) (c : Nat) (v : FVal) : Prop :=
  match fmtOf ty with
  | some f => v = f.val c
  | none => ∃ m e, v = .fin (decide (2 ^ (ebits ty - 1) ≤ c)) m e ∧ ElemIs ty c (some v.rat)

/-- The element types of A and B of a tile product (Table 8-1). -/
def tileTypes (f : MmaOp) : BitVec 4 × BitVec 4 :=
  match f with
  | .e4e4 => (8, 8)
  | .e5e4 => (9, 8)
  | .bf16 => (5, 5)
  | .e4q => (8, 11)

/-- x is the value of a number or an infinity in the extended reals. -/
def ExtIs (v : FVal) (x : EReal) : Prop :=
  match v with
  | .nan _ => False
  | .inf n => x = if n then ⊥ else ⊤
  | .fin _ _ _ => x = ((v.rat : ℝ) : EReal)

/-- Word i of a record lies between words p and q as binary32 numbers; a NaN does not. -/
def Between (w u : Nat → Nat) (p i q : Nat) : Prop :=
  ∃ x y z, ExtIs (Fmt.f32.val (w p)) x ∧ ExtIs (Fmt.f32.val (u i)) y ∧ ExtIs (Fmt.f32.val (w q)) z ∧ x ≤ y ∧ y ≤ z

/-- near and far of an axis of a box test (R290): the exact distances to the two bounds, the lesser rounded down and the greater up into
binary32, infinities among its numbers. -/
def AxisSpan (lo hi o d : FVal) (near far : EReal) : Prop :=
  let at_ : FVal → EReal → Prop := fun b t =>
    match b with
    | .inf n => t = if n = decide (d.rat < 0) then ⊤ else ⊥
    | _ => t = ((((b.rat - o.rat) / d.rat : ℚ) : ℝ) : EReal)
  let number : EReal → Prop := fun x => ∃ c, c < 2 ^ 32 ∧ ExtIs (Fmt.f32.val c) x
  (d.rat = 0 → near = ⊥ ∧ far = ⊤) ∧
    (d.rat ≠ 0 → ∃ t0 t1, at_ lo t0 ∧ at_ hi t1 ∧ IsGreatest (fun y => number y ∧ y ≤ min t0 t1) near ∧
      IsLeast (fun y => number y ∧ max t0 t1 ≤ y) far)

/-- Bounds of box k of a node record, on an axis (R288). -/
def boxLo (a : Nat → Nat) (k x : Nat) : FVal := Fmt.f32.val (a (6 * k + x))
def boxHi (a : Nat → Nat) (k x : Nat) : FVal := Fmt.f32.val (a (6 * k + 3 + x))

/-- Box k can hit: present, no NaN, on no axis its min above its max (R288). -/
def BoxCan (a : Nat → Nat) (k : Nat) : Prop :=
  (a 28).testBit k = true ∧ ∀ x, x < 3 → (boxLo a k x).isNan = false ∧ (boxHi a k x).isNan = false ∧ ¬Below (boxHi a k x) (boxLo a k x)

/-- The ray of record d hits box k of node a at a distance (R290). -/
def BoxHit (d a : Nat → Nat) (k : Nat) (entry : EReal) : Prop :=
  let o : Nat → FVal := fun x => Fmt.f32.val (d x)
  let dir : Nat → FVal := fun x => Fmt.f32.val (d (4 + x))
  BoxCan a k ∧ (∀ x, x < 3 → (dir x).rat = 0 → ¬Below (o x) (boxLo a k x) ∧ ¬Below (boxHi a k x) (o x)) ∧
    ∃ (near far : Nat → EReal) (tmin tmax : EReal), (∀ x, x < 3 → AxisSpan (boxLo a k x) (boxHi a k x) (o x) (dir x) (near x) (far x)) ∧
      ExtIs (Fmt.f32.val (d 3)) tmin ∧ ExtIs (Fmt.f32.val (d 7)) tmax ∧ entry = max (max (max (near 0) (near 1)) (near 2)) tmin ∧
      entry ≤ min (min (min (far 0) (far 1)) (far 2)) tmax

/-- The ray of a record is invalid (R289). -/
def RayInvalid (d : Nat → Nat) : Prop :=
  let v : Nat → FVal := fun i => Fmt.f32.val (d i)
  (∃ x, x < 3 ∧ ((v x).finite = false ∨ (v (4 + x)).finite = false)) ∨ (∀ x, x < 3 → (v (4 + x)).rat = 0 ∧ (v (4 + x)).finite = true) ∨
    (v 3).isNan = true ∨ (v 7).isNan = true

/-- A list of the boxes that hit, by a key in rising order with ties to the lower index, or by index where U is set (R290, R295). -/
def OrderedBy (before : Nat → Nat → Prop) (u : Bool) (hit : Nat → Prop) (order : List Nat) : Prop :=
  (∀ k, k ∈ order ↔ k < 4 ∧ hit k) ∧ order.Pairwise (fun i j => if u then i < j else before i j ∨ (¬before j i ∧ i < j))

/-- What a box test leaves in the slot of record d (Tables 12-3, 12-4): mask, order, count and invalid bit, distances by box, child words in
order; reserved status bits 0, and all else as it was but the words of `also`. -/
def BoxWritten (d a w : Nat → Nat) (invalid : Bool) (order : List Nat) (dist : Nat → Nat) (also : List Nat) : Prop :=
  (∀ k, k < 4 → ((w 16).testBit k = true ↔ k ∈ order)) ∧ (∀ m, m < 4 → w 16 / 2 ^ (4 + 2 * m) % 4 = order.getD m 0) ∧
    w 16 / 2 ^ 12 % 16 = order.length ∧ w 16 / 2 ^ 16 % 2 ^ 15 = d 16 / 2 ^ 16 % 2 ^ 8 ∧ (w 16).testBit 31 = invalid ∧
    (∀ k, k < 4 → w (24 + k) = if k ∈ order then dist k else 0x7F800000) ∧
    (∀ m, m < 4 → w (28 + m) = if m < order.length then a (24 + order.getD m 0) else 0) ∧
    ∀ i, i < 24 → i ≠ 16 → i ∉ also → w i = d i

/-- The box test of a ray (R289, R290). -/
def BoxTested (d a w : Nat → Nat) (u : Bool) : Prop :=
  (RayInvalid d → BoxWritten d a w true [] (fun _ => 0) []) ∧
  (¬RayInvalid d → ∃ (order : List Nat) (entry : Nat → EReal) (dist : Nat → Nat), (∀ k ∈ order, BoxHit d a k (entry k)) ∧
    OrderedBy (fun i j => entry i < entry j) u (fun k => ∃ x, BoxHit d a k x) order ∧
    (∀ k ∈ order, ExtIs (Fmt.f32.val (dist k)) (entry k)) ∧ BoxWritten d a w false order dist [])

/-- A vertex of a triangle, sheared (R291): x, y and z as binary32 codes. -/
def sheared (d a : Nat → Nat) (base kx ky kz : Nat) : Nat × Nat × Nat :=
  let p : Nat → Nat := fun x => (Fmt.f32.sub 0 (a (base + x)) (d x)).1
  let slope : Nat → Nat := fun k => (Fmt.f32.div 0 ((d (4 + k) + 2 ^ 31) % 2 ^ 32) (d (4 + kz))).1
  ((Fmt.f32.fma 0 false false (slope kx) (p kz) (p kx)).1, (Fmt.f32.fma 0 false false (slope ky) (p kz) (p ky)).1,
    (Fmt.f32.mul 0 (Fmt.f32.div 0 0x3F800000 (d (4 + kz))).1 (p kz)).1)

/-- The triangle test of a ray (R291): what it leaves in the slot of record d. Sheared vertices that are not finite are log 18's reading,
and the sign of an exact zero log 55's. -/
def TriTested (d a w : Nat → Nat) (cb cf : Bool) : Prop :=
  let kept := w 16 % 2 ^ 15 = d 16 % 2 ^ 15 ∧ (w 16).testBit 15 = false ∧ w 16 / 2 ^ 19 % 2 ^ 12 = d 16 / 2 ^ 19 % 2 ^ 5
  let dir : Nat → ℚ := fun x => |(Fmt.f32.val (d (4 + x))).rat|
  kept ∧ (∀ i, i < 32 → i ≠ 16 → ¬(18 ≤ i ∧ i ≤ 21) → w i = d i) ∧
  (RayInvalid d → (w 16).testBit 31 = true ∧ (w 16).testBit 16 = false ∧ (w 16).testBit 18 = false ∧ ∀ i, 18 ≤ i → i ≤ 21 → w i = d i) ∧
  (¬RayInvalid d → ∀ kz, kz < 3 → (∀ x, x < 3 → dir x ≤ dir kz ∧ (kz < x → dir x < dir kz)) →
    let down := decide ((Fmt.f32.val (d (4 + kz))).rat < 0)
    let k1 := (kz + 1) % 3
    let k2 := (kz + 2) % 3
    let vert : Nat → Nat × Nat × Nat := fun base => if down then sheared d a base k2 k1 kz else sheared d a base k1 k2 kz
    let n : Nat → ℚ := fun c => (Fmt.f32.val c).rat
    let X : Nat → ℚ := fun i => n (vert (3 * i)).1
    let Y : Nat → ℚ := fun i => n (vert (3 * i)).2.1
    let Z : Nat → ℚ := fun i => n (vert (3 * i)).2.2
    let edge : Nat → Nat → ℚ := fun i j => X i * Y j - Y i * X j
    let eU := edge 2 1
    let eV := edge 0 2
    let eW := edge 1 0
    let det := eU + eV + eW
    let inside : ℚ → Nat → Nat → Prop := fun e i j =>
      0 < det * e ∨ (e = 0 ∧ (0 < det * (Y i - Y j) ∨ (Y i = Y j ∧ 0 < det * (X i - X j))))
    (∀ i, i < 3 → FiniteCode Fmt.f32 (vert (3 * i)).1 ∧ FiniteCode Fmt.f32 (vert (3 * i)).2.1 ∧ FiniteCode Fmt.f32 (vert (3 * i)).2.2) →
    ∃ t : Half, (det ≠ 0 → RneCode ((eU * Z 0 + eV * Z 1 + eW * Z 2) / det) t) ∧
      let hit := det ≠ 0 ∧ inside eU 2 1 ∧ inside eV 0 2 ∧ inside eW 1 0 ∧ Between d (fun _ => t.toNat) 3 0 7 ∧
        ¬(if det < 0 then cb = true else cf = true)
      (w 16).testBit 31 = false ∧ ((w 16).testBit 16 = true ↔ hit) ∧ ((w 16).testBit 17 = true ↔ det < 0) ∧
        ((w 16).testBit 18 = true ↔ hit ∧ (a 10).testBit 0 = true) ∧
        (hit → w 18 = t.toNat ∧ RneCode (eV / det) (BitVec.ofNat 32 (w 19)) ∧ RneCode (eW / det) (BitVec.ofNat 32 (w 20)) ∧ w 21 = a 9) ∧
        (¬hit → ∀ i, 18 ≤ i → i ≤ 21 → w i = d i))

/-- The candidates of a record and the status bits that they decide (Tables 12-3, 12-4): n pending ones, refused, accepted; reserved
status bits 0; of the other status bits, and of the entries beyond both counts, those of record r, and an entry freed is 0. -/
def CandsWritten (r w : Nat → Nat) (cs : List (Nat × Nat)) (refused accepted : Bool) : Prop :=
  let n := r 16 / 2 ^ 19 % 8
  (∀ i, i < 4 → (w (8 + 2 * i), w (9 + 2 * i)) =
    if i < cs.length then cs.getD i (0, 0) else if i < n then (0, 0) else (r (8 + 2 * i), r (9 + 2 * i))) ∧
  (w 16).testBit 15 = false ∧ w 16 / 2 ^ 16 % 8 = r 16 / 2 ^ 16 % 8 ∧ w 16 / 2 ^ 19 % 8 = cs.length ∧ (w 16).testBit 22 = refused ∧
    (w 16).testBit 23 = accepted ∧ w 16 / 2 ^ 24 % 2 ^ 7 = 0 ∧ (w 16).testBit 31 = (r 16).testBit 31

/-- The pending candidates of a record. -/
def pendingCands (r : Nat → Nat) : List (Nat × Nat) := (List.range (r 16 / 2 ^ 19 % 8)).map (fun i => (r (8 + 2 * i), r (9 + 2 * i)))

/-- rcand, of record a with the offer of record b (R292): the record of a with the offer inserted, or refused; all else as in a. -/
def CandOffered (a b w : Nat → Nat) : Prop :=
  let cs := pendingCands a
  let t := Fmt.f32.val (b 18)
  let old := (a 16).testBit 23
  let offered := (b 16).testBit 16 = true
  let taken := (a 16).testBit 31 = false ∧ Between a (fun _ => b 18) 3 0 7 ∧ cs.length < 4
  (∀ i, i < 32 → ¬(8 ≤ i ∧ i ≤ 16) → w i = a i) ∧ w 16 % 2 ^ 15 = a 16 % 2 ^ 15 ∧
  (¬offered → CandsWritten a w cs false old) ∧ (offered → ¬taken → CandsWritten a w cs true old) ∧
  (offered → taken → ∃ front back, cs = front ++ back ∧ (∀ c ∈ front, ¬Below t (Fmt.f32.val c.1)) ∧
    (∀ c l, back = c :: l → Below t (Fmt.f32.val c.1)) ∧ CandsWritten a w (front ++ (b 18, b 21) :: back) false old)

/-- racc of record a (R293): candidate 0 is accepted; it and every later one go, and every box beyond its distance. -/
def CandAccepted (a w : Nat → Nat) : Prop :=
  let kept : Nat → Bool := fun k => (List.range 4).contains k && !((Fmt.f32.val (a 8)).lt (Fmt.f32.val (a (24 + k))))
  let boxes := ((List.range (a 16 / 2 ^ 12 % 8)).map (fun m => (a 16 / 2 ^ (4 + 2 * m) % 4, a (28 + m)))).filter (fun p => kept p.1)
  (pendingCands a = [] → ∀ i, i < 32 → w i = a i) ∧
  (∀ c rest, pendingCands a = c :: rest →
    CandsWritten a w (rest.filter (fun p => !((Fmt.f32.val c.1).lt (Fmt.f32.val p.1)))) false true ∧ w 7 = c.1 ∧ w 17 = c.2 ∧
    (∀ k, k < 4 → ((w 16).testBit k = true ↔ (a 16).testBit k = true ∧ kept k = true)) ∧
    (∀ m, m < 4 → w 16 / 2 ^ (4 + 2 * m) % 4 = (boxes.getD m (0, 0)).1 ∧ w (28 + m) = (boxes.getD m (0, 0)).2) ∧
    w 16 / 2 ^ 12 % 8 = boxes.length ∧ ∀ i, i < 28 → ¬(7 ≤ i ∧ i ≤ 17) → w i = a i)

/-- rrej of record a (R294): candidate 0 goes. -/
def CandRejected (a w : Nat → Nat) : Prop :=
  (pendingCands a = [] → ∀ i, i < 32 → w i = a i) ∧
  (∀ c rest, pendingCands a = c :: rest → CandsWritten a w rest false ((a 16).testBit 23) ∧ w 16 % 2 ^ 15 = a 16 % 2 ^ 15 ∧
    ∀ i, i < 32 → ¬(8 ≤ i ∧ i ≤ 16) → w i = a i)

/-- The squared distance from a query's centre to box k, or to its point (R295, Table 12-5). -/
def DistanceIs (d a : Nat → Nat) (k : Nat) (point : Bool) (x : EReal) : Prop :=
  ∃ lo hi gap : Nat → EReal, (∀ i, i < 3 → ExtIs (boxLo a k i) (lo i) ∧ ExtIs (boxHi a k i) (hi i) ∧
    let c : EReal := (((Fmt.f32.val (d i)).rat : ℝ) : EReal)
    gap i = if point then lo i - c else max (max (lo i - c) 0) (c - hi i)) ∧
    x = gap 0 * gap 0 + gap 1 * gap 1 + gap 2 * gap 2

/-- A distance stored in binary32, to nearest even. -/
def DistCode (x : EReal) (c : Nat) : Prop :=
  (x = ⊤ → c = 0x7F800000) ∧ ∀ v : ℚ, x = ((v : ℝ) : EReal) → RneCode v (BitVec.ofNat 32 c) ∧ c < 2 ^ 32

/-- A query is invalid: its centre is not finite, or its radius or bound a NaN or negative (Table 12-5). -/
def QueryInvalid (d : Nat → Nat) : Prop :=
  (∃ i, i < 3 ∧ (Fmt.f32.val (d i)).finite = false) ∨ ¬∃ r : EReal, ExtIs (Fmt.f32.val (d 3)) r ∧ 0 ≤ r

/-- qsph or qknn of query d on node a (R295, R296): which boxes hit and in which order; a leaf's first hit becomes the new bound. -/
def QueryDone (knn : Bool) (d a w : Nat → Nat) (u : Bool) : Prop :=
  let leaf := knn && (a 28).testBit 4
  (QueryInvalid d → BoxWritten d a w true [] (fun _ => 0) []) ∧
  (¬QueryInvalid d → ∃ (order : List Nat) (x : Nat → EReal) (dist : Nat → Nat) (r : EReal), ExtIs (Fmt.f32.val (d 3)) r ∧
    (∀ k, k < 4 → BoxCan a k → DistanceIs d a k leaf (x k)) ∧
    OrderedBy (fun i j => x i < x j) u (fun k => BoxCan a k ∧ (if knn then x k < r else x k ≤ r * r)) order ∧ (∀ k ∈ order, DistCode (x k) (dist k)) ∧
    let found := leaf = true ∧ order ≠ []
    BoxWritten d a w false order dist [3, 17] ∧ (found → w 3 = dist (order.getD 0 0) ∧ w 17 = a (24 + order.getD 0 0)) ∧
      (¬found → w 3 = d 3 ∧ w 17 = d 17))

/-- qkey of query d on node a (R295): boxes are ranges of keys, unsigned or signed. -/
def KeyDone (d a w : Nat → Nat) (u sk : Bool) : Prop :=
  let key : Nat → Int := fun n => if sk then (BitVec.ofNat 32 n).toInt else n
  let lo : Nat → Nat := fun k => a (6 * k)
  let hi : Nat → Nat := fun k => a (6 * k + 1)
  ∃ order, OrderedBy (fun i j => key (lo i) < key (lo j)) u (fun k => (a 28).testBit k = true ∧ key (lo k) ≤ key (hi k) ∧
    key (lo k) ≤ key (d 1) ∧ key (d 0) ≤ key (hi k)) order ∧ BoxWritten d a w false order lo []

/-- A record's counts are what the instructions leave: at most four candidates and four hits (Table 12-4). Of others, log 34. -/
def CountsOk (r : Nat → Nat) : Prop := r 16 / 2 ^ 19 % 8 ≤ 4 ∧ r 16 / 2 ^ 12 % 8 ≤ 4

/-- What a slot instruction makes of a slot of vd with words d, from a slot of vs1 with words a and of vs2 with words b: words w. -/
def SlotDone (f : RayOp) (x2 : Nat) (d a b w : Nat → Nat) : Prop :=
  match f with
  | .rbox => BoxTested d a w (x2.testBit 0)
  | .rtri => TriTested d a w (x2.testBit 0) (x2.testBit 1)
  | .rcand => CountsOk a → CandOffered a b w
  | .racc => CountsOk a → CandAccepted a w
  | .rrej => CountsOk a → CandRejected a w
  | .qsph => QueryDone false d a w (x2.testBit 0)
  | .qknn => QueryDone true d a w (x2.testBit 0)
  | .qkey => KeyDone d a w (x2.testBit 0) (x2.testBit 1)
  | _ => True

/-! ## Textures -/

/-- A channel of a BC4 block of 8 bytes, at texel i (Table 12-11). -/
def Bc4Is (b i x : Nat) : Prop :=
  let r0 := b % 256
  let r1 := b / 256 % 256
  let k := b / 2 ^ (16 + 3 * i) % 8
  (k = 0 → x = r0) ∧ (k = 1 → x = r1) ∧ (2 ≤ k → r1 < r0 → x = ((8 - k) * r0 + (k - 1) * r1 + 3) / 7) ∧
    (2 ≤ k → k < 6 → r0 ≤ r1 → x = ((6 - k) * r0 + (k - 1) * r1 + 2) / 5) ∧ (k = 6 → r0 ≤ r1 → x = 0) ∧ (k = 7 → r0 ≤ r1 → x = 255)

/-- Texel i of a BC1 block, its channels R, G, B and A (Table 12-11). -/
def Bc1Is (b i : Nat) (x : Nat → Nat) : Prop :=
  let c0 := b % 2 ^ 16
  let c1 := b / 2 ^ 16 % 2 ^ 16
  let k := b / 2 ^ (32 + 2 * i) % 4
  let five : Nat → Nat := fun v => v <<< 3 ||| v >>> 2
  let e : Nat → Nat → Nat := fun c ch => if ch = 1 then (c / 32 % 64) <<< 2 ||| (c / 32 % 64) >>> 4 else five (if ch = 0 then c / 2048 else c % 32)
  let rgb : (Nat → Nat → Nat) → Prop := fun f => (∀ ch, ch < 3 → x ch = f (e c0 ch) (e c1 ch)) ∧ x 3 = 255
  (k = 0 → rgb (fun a _ => a)) ∧ (k = 1 → rgb (fun _ b => b)) ∧ (k = 2 → c1 < c0 → rgb (fun a b => (2 * a + b + 1) / 3)) ∧
    (k = 3 → c1 < c0 → rgb (fun a b => (a + 2 * b + 1) / 3)) ∧ (k = 2 → c0 ≤ c1 → rgb (fun a b => (a + b + 1) / 2)) ∧
    (k = 3 → c0 ≤ c1 → ∀ ch, ch < 4 → x ch = 0)

/-- Texel i of a texel or block with bytes b has the channels x (Tables 12-10, 12-11). Of BC7 blocks but for the one that R305 names,
log 10. -/
def TexelIs (fmt b i : Nat) (x : Nat → Nat) : Prop :=
  let byte : Nat → Nat := fun j => b / 2 ^ (8 * j) % 256
  match fmt with
  | 0 => ∀ ch, ch < 4 → x ch = byte ch
  | 1 => x 0 = byte 0 ∧ x 1 = 0 ∧ x 2 = 0 ∧ x 3 = 255
  | 2 => x 0 = byte 0 ∧ x 1 = byte 1 ∧ x 2 = 0 ∧ x 3 = 255
  | 3 => Bc1Is b i x
  | 4 => Bc4Is b i (x 0) ∧ x 1 = 0 ∧ x 2 = 0 ∧ x 3 = 255
  | 5 => Bc4Is b i (x 0) ∧ Bc4Is (b / 2 ^ 64) i (x 1) ∧ x 2 = 0 ∧ x 3 = 255
  | _ => b % 256 = 0 → ∀ ch, ch < 4 → x ch = 0

/-- Bytes of a texel, or of a block, of a format (Table 12-10). -/
def texelBytes (fmt : Nat) : Nat := [4, 1, 2, 8, 8, 16, 16].getD fmt 16

/-- Fields of a texture descriptor, a number of 32 bytes (Table 12-7). -/
def texField (d lo n : Nat) : Nat := d / 2 ^ lo % 2 ^ n
def texW (d : Nat) : Nat := texField d 64 14 + 1
def texH (d : Nat) : Nat := texField d 80 14 + 1
def texFmt (d : Nat) : Nat := texField d 96 8
def texLevels (d : Nat) : Nat := texField d 104 4

/-- A descriptor is supported (R299). -/
def TexSupported (d : Nat) : Prop :=
  texField d 78 2 = 0 ∧ texField d 94 2 = 0 ∧ texField d 108 4 = 0 ∧ texField d 118 2 = 0 ∧ texField d 120 136 = 0 ∧ texFmt d < 7 ∧
    1 ≤ texLevels d ∧ 2 ^ (texLevels d - 1) ≤ max (texW d) (texH d) ∧ texField d 112 2 < 3 ∧ texField d 114 2 < 3 ∧ texField d 116 2 < 3 ∧
    texField d 0 64 % 256 = 0

/-- The size of level l of a dimension (R300), and the address of the texel or block that holds texel (x, y) of it, with its place there. -/
def levelSize (n l : Nat) : Nat := max 1 (n / 2 ^ l)
def texelPlace (d l x y : Nat) : Nat × Nat :=
  let b := texelBytes (texFmt d)
  let blocked := decide (3 ≤ texFmt d)
  let across : Nat → Nat → Nat := fun n l => if blocked then (levelSize n l + 3) / 4 else levelSize n l
  let size : Nat → Nat := fun l => (across (texW d) l * across (texH d) l * b + 255) / 256 * 256
  let start := texField d 0 64 + ((List.range l).map size).sum
  if blocked then (start + (y / 4 * across (texW d) l + x / 4) * b, y % 4 * 4 + x % 4) else (start + (y * across (texW d) l + x) * b, 0)

/-- Index i of a dimension of size n comes to j by an addressing mode (R300). -/
def Addressed (mode n : Nat) (i : Int) (j : Nat) : Prop :=
  if mode = 0 then (j : Int) = i % n
  else if mode = 1 then (j : Int) = max 0 (min i (n - 1))
  else let k := i % (2 * n : Nat); (j : Int) = if k < n then k else 2 * n - 1 - k

/-- A number rounded to an integer, to nearest even. -/
def RneInt (v : ℚ) (z : Int) : Prop := Picks (fun y => ∃ i : Int, y = i) (fun y => ∃ i : Int, y = 2 * i) 0 (v : ℝ) (z : ℝ)

/-- A coordinate of a sample record as it is read: 0 for a NaN, else clamped (R302). -/
def CoordIs (c : Nat) (lo hi x : ℚ) : Prop :=
  match Fmt.f32.val c with
  | .nan _ => x = 0
  | .inf n => x = if n then lo else hi
  | .fin n m e => x = max lo (min hi (FVal.fin n m e).rat)

/-- One texel of a sample: its level, its index before addressing, and its weight. -/
structure Sampled where
  level : Nat
  i : Int
  j : Int
  weight : Nat

/-- The texels that bilinear filtering takes at level l, their weights times f (R302). -/
def Bilinear (d l : Nat) (u v : ℚ) (f : Nat) (ts : List Sampled) : Prop :=
  ∃ x y : Int, RneInt (256 * (u * levelSize (texW d) l - 1 / 2)) x ∧ RneInt (256 * (v * levelSize (texH d) l - 1 / 2)) y ∧
    let a := (x % 256).toNat
    let b := (y % 256).toNat
    let at_ : Nat → Nat → Nat → Sampled := fun p q w => { level := l, i := x / 256 + p, j := y / 256 + q, weight := w * f }
    ts = [at_ 0 0 ((256 - a) * (256 - b)), at_ 1 0 (a * (256 - b)), at_ 0 1 ((256 - a) * b), at_ 1 1 (a * b)]

/-- What tsamp takes for a sample record of words r (R302): texels, and the shift of their weighted sum. -/
def Samples (d : Nat) (r : Nat → Nat) (ts : List Sampled) (sh : Nat) : Prop :=
  let last : ℚ := texLevels d - 1
  ∃ u v lod : ℚ, CoordIs (r 0) (-65536) 65536 u ∧ CoordIs (r 1) (-65536) 65536 v ∧ CoordIs (r 2) 0 last lod ∧
    (texField d 116 2 = 0 → sh = 0 ∧ ∃ l : Nat, RneInt lod l ∧
      ts = [{ level := l, i := ⌊u * levelSize (texW d) l⌋, j := ⌊v * levelSize (texH d) l⌋, weight := 1 }]) ∧
    (texField d 116 2 = 1 → sh = 16 ∧ ∃ l : Nat, RneInt lod l ∧ Bilinear d l u v 1 ts) ∧
    (texField d 116 2 = 2 → sh = 24 ∧ ∃ (l0 f : Nat) (t0 t1 : List Sampled), (l0 : Int) = ⌊lod⌋ ∧
      (if (l0 : ℚ) = last then f = 0 else RneInt (256 * (lod - l0)) f) ∧ Bilinear d l0 u v (256 - f) t0 ∧
      Bilinear d (min (l0 + 1) (texLevels d - 1)) u v f t1 ∧ ts = t0 ++ t1)

/-- What tfetch takes for a record of words r (R303): one texel, or none outside the levels. -/
def Fetches (d : Nat) (r : Nat → Nat) (ts : List Sampled) (sh : Nat) : Prop :=
  let n : Nat → Int := fun i => (BitVec.ofNat 32 (r i)).toInt
  let l := (n 2).toNat
  let within := 0 ≤ n 2 ∧ n 2 < texLevels d ∧ 0 ≤ n 0 ∧ n 0 < levelSize (texW d) l ∧ 0 ≤ n 1 ∧ n 1 < levelSize (texH d) l
  sh = 0 ∧ (within → ts = [{ level := l, i := n 0, j := n 1, weight := 1 }]) ∧ (¬within → ts = [])

/-- The address and the place of a sampled texel, its indices addressed by the descriptor's modes (R300). -/
def SampledAt (d : Nat) (t : Sampled) (p : Nat × Nat) : Prop :=
  ∃ x y, Addressed (texField d 112 2) (levelSize (texW d) t.level) t.i x ∧ Addressed (texField d 114 2) (levelSize (texH d) t.level) t.j y ∧
    p = texelPlace d t.level x y

/-! ## Staging units, tasks, the array -/

/-- The current hart has retired an instruction that writes v to X[rd] and leaves its staging units as `f` says; nothing else has
changed anywhere. -/
def WritesXStg (s : State) (rd : BitVec 5) (v : Word) (f : Staging → Prop) (t : State) : Prop :=
  XHolds s rd v t ∧ f (t.hart s.cur).stg ∧
    t.hart s.cur = { (s.hart s.cur).retired s.nextPc with x := (t.hart s.cur).x, stg := (t.hart s.cur).stg } ∧ OnlyHart s t s.cur

/-- The current hart has retired an instruction that leaves its staging units as `f` says, with no other effect anywhere. -/
def RetiresStg (s : State) (f : Staging → Prop) (t : State) : Prop :=
  f (t.hart s.cur).stg ∧ t.hart s.cur = { (s.hart s.cur).retired s.nextPc with stg := (t.hart s.cur).stg } ∧ OnlyHart s t s.cur

/-- The current hart is held by its instruction; nothing else has changed anywhere. -/
def Waits (s : State) (w : Wait) (t : State) : Prop := t.hart s.cur = { s.hart s.cur with wait := w } ∧ OnlyHart s t s.cur

/-- Only what hart h holds and the parts of the state that `f` puts back may have changed; in particular no other hart and no byte of
memory has. -/
def OnlyHartAnd (s t : State) (h : Nat) (f : State → State) : Prop :=
  (∀ k, k ≠ h → t.hart k = s.hart k) ∧ SameMem s t ∧ { f t with harts := s.harts } = s

/-- A read of n bytes at `va` that an instruction makes at its retirement reaches memory at x, behind no older access, copy or I/O order
that it waits for. -/
def ReadsNow (s : State) (va : Word) (n : Nat) (x : Hit) : Prop :=
  Reaches s va n .load false x ∧ (s.hart s.cur).loading x.pa n = false

/-- The number of n bytes from pa, as the current hart's next instruction sees them. -/
def State.seenNat (s : State) (pa n : Nat) : Nat := ((List.range n).map (fun i => (s.seen s.cur (pa + i)).toNat * 2 ^ (8 * i))).sum

/-- A queue that differs only in what is kept of its eligibility (R243, R245). -/
def Tracked (a b : Queue) : Prop := b = { a with eligible := b.eligible, aged := b.aged, passed := b.passed }

/-- The current hart has retired a queue instruction that writes v to X[rd] and leaves queue q as given; no other queue, no other hart,
no byte of memory and no other unit has changed. -/
def QueueDone (s : State) (rd : BitVec 5) (v : Word) (q : Nat) (x : Queue) (t : State) : Prop :=
  XHolds s rd v t ∧ t.hart s.cur = { (s.hart s.cur).retired s.nextPc with x := (t.hart s.cur).x } ∧
    Tracked x (t.queue q) ∧ (∀ k, k ≠ q → t.queue k = s.queue k) ∧
    OnlyHartAnd s t s.cur (fun t => { t with queues := s.queues })

/-- The state after the A and D bits that accesses 0 to n - 1 call for have been set (R131). -/
def State.setADs (s : State) (xs : Nat → Hit) (n : Nat) : State := (List.range n).foldl (fun (s : State) i => s.setAD (xs i)) s

/-! ## What happens of itself -/

/-- Hart h has retired the instruction that it waited at, with no other effect anywhere. -/
def RetiresAt (s : State) (h : Nat) (t : State) : Prop :=
  t.hart h = (s.hart h).retired ((s.hart h).pc + 4) ∧ OnlyHart s t h

/-- As `XHolds`, for hart h. -/
def XHoldsAt (s : State) (h rd : Nat) (v : Word) (t : State) : Prop :=
  ∀ n, t.x h n = if n = rd ∧ n ≠ 0 then v else s.x h n

/-- A byte of memory as an access of hart h at a place in its program order sees it: from the youngest of its own retired older stores
that covers it, else from memory (R121). -/
def State.seenBy (s : State) (h pos a : Nat) : Byte :=
  let own := (s.hart h).stores.filter (fun x => decide (x.pos < pos) && decide (x.pa ≤ a) && decide (a < x.pa + x.width))
  match own.getLast? with
  | some x => (x.val >>> (8 * (a - x.pa))).setWidth 8
  | none => s.byte a

/-- Hart h has entered its upcall handler (R143): pc, cause and status are saved, UE moves to PUE and clears, the reservation is lost;
where a resume state is held, the upret that ends the upcall is kept (R101). -/
def Upcalled (s : State) (h : Nat) (cause stat : Word) (stg : Staging) (t : State) : Prop :=
  let a := s.hart h
  let b := t.hart h
  b = { a with stg := stg, pc := a.csr.upvec &&& ~~~7#64, resv := none, wait := .none,
               vec := { a.vec with
                 frames := (if a.vec.resume = [] then [] else [{ kind := 0, mode := a.mode, pc := a.pc }]) ++ a.vec.frames },
               csr := { a.csr with upepc := a.pc, upcause := cause, upstat := stat, upvec := b.csr.upvec } } ∧
    (∀ i, b.csr.upvec.getLsbD i = if i = 0 then false else a.csr.upvec.getLsbD (if i = 1 then 0 else i)) ∧ OnlyHart s t h

/-- The loop slot that a pager record of an access by base register carries (R147): the lowest with a used entry that names it. -/
def SlotFor (t : Hart) (base : Option Nat) (sl : Option Nat) : Prop :=
  let named : Nat → Prop := fun i => ∃ r j, base = some r ∧ r ≠ 0 ∧ j < 4 ∧ fld (t.vec.loop i).cfg (16 * j) 5 = r
  match sl with
  | some i => i < 4 ∧ named i ∧ ∀ k, k < i → ¬named k
  | none => ∀ i, i < 4 → ¬named i

/-- An absent access of hart h becomes a request of context c under a tag (R140, R141): it runs in U-mode with a handler and UE = 1, the tag is
the lowest free one, and the context's pager queue is valid and its own. -/
def MayRequest (s : State) (h tag c : Nat) : Prop :=
  let t := s.hart h
  let p := (s.ctx c).pager
  t.task.map Task.ctx = some c ∧ t.mode = .u ∧ t.csr.upvec.toNat / 8 ≠ 0 ∧ t.csr.upvec.getLsbD 0 = true ∧ tag < 16 ∧ tag ∉ t.stg.tags ∧
    (∀ i, i < tag → i ∈ t.stg.tags) ∧ p.getLsbD 10 = true ∧ (s.queue (fld p 0 10)).valid = true ∧ (s.queue (fld p 0 10)).ctx = c

/-- A request waits: its pager queue's home is on a die in warm reset (R146), or its slot names a register that a load in flight has still to
write (R147). -/
def RequestWaits (s : State) (h c : Nat) (sl : Option Nat) : Prop :=
  let t := s.hart h
  s.dieUp (fld (s.ctx c).pager 0 10 / 256) = false ∨ ∃ i, sl = some i ∧ ∃ l ∈ t.loads ++ t.remotes.filterMap Remote.load, l.isF = false ∧
    ((t.vec.loop i).creg = some l.rd ∨ ∃ j, j < 4 ∧ fld (t.vec.loop i).cfg (16 * j) 5 = l.rd)

/-- The fields of a pager record (Table 6-7) of an access at va: a store or not, of the span window or not; VL and vetype of a vector access;
the loop slot, its configuration, its count and the address registers of its entries, as they stand. -/
def PagerFields (s : State) (h tag c va : Nat) (store span : Bool) (vec : Option (Nat × Nat)) (sl : Option Nat) (d : BitVec 512) : Prop :=
  let t := s.hart h
  let l := (sl.map t.vec.loop).getD LoopSlot.empty
  fld d 0 64 = va % 2 ^ 64 ∧ fld d 64 64 = l.cfg.toNat ∧ fld d 128 12 = h % 4096 ∧ fld d 140 4 = c % 16 ∧ fld d 144 4 = tag % 16 ∧
    d.getLsbD 148 = vec.isSome ∧ d.getLsbD 149 = store ∧ d.getLsbD 150 = span ∧ d.getLsbD 151 = t.csr.upvec.getLsbD 2 ∧
    fld d 152 2 = sl.getD 0 ∧ d.getLsbD 154 = sl.isSome ∧ d.getLsbD 155 = (sl.isSome && l.creg.isSome) ∧ fld d 156 4 = 0 ∧
    fld d 160 16 = (vec.map Prod.fst).getD 0 ∧ fld d 176 16 = (vec.map Prod.snd).getD 0 ∧
    fld d 192 64 = (if sl.isSome then (l.creg.map (fun r => (s.x h r).toNat)).getD 0 else 0) ∧
    ∀ j, j < 4 → fld d (256 + 64 * j) 64 = if sl.isSome ∧ fld l.cfg (16 * j) 5 ≠ 0 then (s.x h (fld l.cfg (16 * j) 5)).toNat else 0

/-- From state u, an absent access has become a request (R141, R143, R146): the tag is taken, the record stands in the context's pager queue,
which has room for it, and the strand has entered its upcall with the cause and the address (Table 6-6). -/
def Requested (u : State) (h tag c va : Nat) (store span : Bool) (vec : Option (Nat × Nat)) (sl : Option Nat) (t : State) : Prop :=
  let q := fld (u.ctx c).pager 0 10
  let x := u.queue q
  let cause := (if span then 2 else 1) + store.toNat * 16 + vec.isSome.toNat * 32 + ((u.hart h).csr.upvec.getLsbD 2).toNat * 64 + tag * 256
  let before := x.recs.takeWhile (fun r => decide (r.at_ < u.dev.cy) || decide (r.rank ≤ h + 1))
  ∃ d v, PagerFields u h tag c va store span vec sl d ∧
    Tracked { x with
      recs := x.recs.insertIdx before.length { data := d, at_ := u.dev.cy, rank := h + 1, overflow := false, serial := x.serial },
      serial := x.serial + 1 } (v.queue q) ∧ (∀ j, j ≠ q → v.queue j = u.queue j) ∧ { v with queues := u.queues } = u ∧
    Upcalled v h (BitVec.ofNat 64 cause) (BitVec.ofNat 64 va) { (u.hart h).stg with tags := (u.hart h).stg.tags ++ [tag] } t

/-- What an instruction does whose scalar access at va does not go on (R56, R65, R140, R146, R314, R339): it raises the exception, has the
answer of an offline die reported and raises it, or becomes a request, the vector side stopping first (log 60 for the upcall); where no
request may be made, an absent page raises the page fault of its type. Where its core runs two walks, it waits (R133). -/
def AccessStops (i : Instr) (s : State) (va : Word) (n : Nat) (a : Acc') (store : Bool) (base : Nat) : Prop :=
  let h := s.cur
  (s.access h va n a = .stop .busy → Answers i s (fun t => t = s)) ∧
  (∀ c, c < 64 → s.access h va n a = .stop (.exc c) → Answers i s (fun t => ∃ u, StaleDropped s u h ∧ Raises u c va t)) ∧
  (∀ c, c < 64 → s.access h va n a = .stop (.offline c) → Answers i s (fun t => ∃ u v, StaleDropped s u h ∧ (s.ctxOf h = none → v = u) ∧
    (∀ x, s.ctxOf h = some x →
      FqPosted u x { kind := 10, addr := va.toNat, hart := some h, chan := 0, tile := 0, xfer := 0, cause := c } v) ∧ Raises v c va t)) ∧
  (∀ span, s.access h va n a = .stop (.absent span) →
    ((∀ tag c, ¬MayRequest s h tag c) → Answers i s (fun t => ∃ u, StaleDropped s u h ∧ Raises u (if store then 15 else 13) va t)) ∧
    ∀ tag c sl, MayRequest s h tag c → SlotFor (s.hart h) (some base) sl →
      (RequestWaits s h c sl → Answers i s (fun t => StaleDropped s t h)) ∧
      (¬RequestWaits s h c sl → (s.queue (fld (s.ctx c).pager 0 10)).recs.length < (s.queue (fld (s.ctx c).pager 0 10)).hard →
        Answers i s (fun t => ∃ u, StaleDropped s u h ∧ Requested (u.stopVector h (u.allSeq h)) h tag c va.toNat store span none sl t)))

/-- What the next group of entry e does where it stops at a check, at an address (R99, R107, R140, R143, R314, R339): the vector side stops,
and the exception is taken; an offline die's answer is reported first; an absent granule becomes a request with VL and vetype (Table 6-7),
or raises a page fault. A texture read has no base register (log 61). -/
def VectorStops (i : Instr) (s : State) (h : Nat) (e : VEntry) (x : Stop) (va : Nat) : Prop :=
  let stopped := s.stopVector h e.seq
  let store := decide (e.q = .vsq)
  let base := match e.op with
    | .ray _ _ _ _ => none
    | _ => some (fld e.word 15 5)
  (∀ c, x = .exc c → c < 64 → Answers i s (TrapTaken stopped h false c (BitVec.ofNat 64 va))) ∧
  (∀ c, x = .offline c → c < 64 → Answers i s (fun t => ∃ u, (s.ctxOf h = none → u = s) ∧ (∀ x, s.ctxOf h = some x →
    FqPosted s x { kind := 10, addr := va, hart := some h, chan := 0, tile := 0, xfer := 0, cause := c } u) ∧
    TrapTaken (u.stopVector h e.seq) h false c (BitVec.ofNat 64 va) t)) ∧
  (x = .absent true → ((∀ tag c, ¬MayRequest s h tag c) → Answers i s (TrapTaken stopped h false (if store then 15 else 13) (BitVec.ofNat 64 va))) ∧
    ∀ tag c sl, MayRequest s h tag c → SlotFor (s.hart h) base sl →
      (RequestWaits s h c sl → Answers i s (fun t => t = s)) ∧
      (¬RequestWaits s h c sl → e.vl < 2 ^ 16 → (s.queue (fld (s.ctx c).pager 0 10)).recs.length < (s.queue (fld (s.ctx c).pager 0 10)).hard →
        Answers i s (Requested stopped h tag c va store true (some (e.vl, e.ty.toNat)) sl)))

/-- The bytes b, by offset, are the image of Table 13-8 that a vsave of hart h with task flag T writes from state s (R317): each field at its
offset. How a resume record, the parts of a loop slot and a ring slot lie inside their areas is the model's choice (log 8), not said here. -/
def ImageWritten (s : State) (h : Nat) (flag : Bool) (b : Nat → Byte) : Prop :=
  let t := s.hart h
  let v := t.vec
  let g := t.stg
  let num : Nat → Nat → Nat := fun o n => ofBytes ((List.range n).map (fun i => b (o + i)))
  let word : Nat → Word := fun o => BitVec.ofNat 64 (num o 8)
  let n := nregs v.ncode
  let e : Nat → Nat := fun j => if j < n ∧ (v.reg j).dirty = true then (v.reg j).ext else 0
  num 0 8 = v.ncode + 16 * v.slip ∧ num 8 4 = v.vl + 2 ^ 16 * v.vetype.toNat ∧
  (∃ m, num 12 4 = 256 * m ∧ (∀ j, e j ≤ m) ∧ ∃ j, e j = m) ∧
  (∀ j, j < 32 → (num 16 4 / 2 ^ j % 2 = 1 ↔ j < n ∧ (v.reg j).dirty = true) ∧ num (144 + j) 1 = e j) ∧
  num 20 4 = v.resume.length + (if flag = true then 256 * t.arr.resume.length + 4096 else 0) ∧
  fld (word 24) 12 12 = h ∧ fld (word 24) 10 2 = 0 ∧ fld (word 24) 28 36 = 0 ∧
  (flag = false → fld (word 24) 0 10 = 0 ∧ fld (word 24) 24 4 = 0 ∧ num 64 32 = 0 ∧ num 1792 256 = 0 ∧ num 6208 256 = 0) ∧
  (flag = true → (word 24).getLsbD 5 = t.arr.area.isSome ∧ (∀ k, t.arr.area = some k → fld (word 24) 0 5 = k % 32) ∧
    fld (word 24) 6 4 = t.arr.mask % 16 ∧
    (∀ i, i < 4 → ((word 24).getLsbD (24 + i) = true ↔ ∃ x, (i, x) ∈ g.eps ∧ x.parked = none)) ∧
    fld (word 64) 48 16 = min 65535 g.async.length ∧ num 72 8 = 0 ∧
    ∀ k, k < 16 → ((word 64).getLsbD k = true ↔ k ∈ g.tags) ∧ ((word 64).getLsbD (16 + k) = true ↔ ∃ x ∈ g.notices, x.tag = k) ∧
      ((word 64).getLsbD (32 + k) = true ↔ ∃ x ∈ g.notices, x.tag = k ∧ x.starved = true) ∧
      ∀ front x back, g.notices = front ++ x :: back → x.tag = k → (∀ y ∈ front, y.tag ≠ k) → num (80 + k) 1 = x.granules % 256) ∧
  (∀ i, i < 4 → let l := v.leeway i
    let c := g.chans.get Chan.start i
    num (32 + 8 * i) 8 = l.c % 2 ^ 9 + l.p % 2 ^ 8 * 2 ^ 16 + l.ns.toNat * 2 ^ 31 ∧
    (∀ j, j < 256 → num (2048 + 1024 * i + 4 * j) 4 = (l.res.get 0 j).toNat) ∧ word (6144 + 16 * i) = (v.loop i).cfg ∧
    (∀ j, j < 7 → word (6464 + 128 * i + 8 * j) = c.sh.get 0 j) ∧ num (6464 + 128 * i + 56) 4 = c.nextId.toNat ∧
    num (6464 + 128 * i + 64) 8 = c.wm.toNat + c.err.toNat * 2 ^ 32 + c.xfers.length % 16 * 2 ^ 33) ∧
  num 96 48 = 0 ∧ num 176 72 = 0 ∧ num 248 8 = 1 ∧ num 6976 192 = 0 ∧
  (∀ i, i < 7 → num (7168 + 1024 * i) 1024 = (v.mask (i + 1)).toNat) ∧
  (∀ j, j < n → num (14336 + 32 * j) 32 = (v.reg j).valid.toNat ∧
    ∀ i, i < 256 * e j → b (16384 + j * (65536 / n) + i) = (v.reg j).bits.extractLsb' (8 * i) 8) ∧
  (∀ front x back, v.resume = front ++ x :: back → x.scales ≠ [] →
    ∀ i, i < 16 → num (15360 + 64 * (front.filter (fun y => !y.scales.isEmpty)).length + 4 * i) 4 = (x.scales.getD i 0).toNat) ∧
  (∀ r, (v.resume.filter (fun y => !y.scales.isEmpty)).length ≤ r → r < 16 → num (15360 + 64 * r) 64 = 0)

/-- The field of an image at offset o is bad for a vrestore of hart h with task flag T (R319): the format is not 1, a 0 field is not 0, ncode
is 3, the flags differ, an extent is too large, or endpoints are open of another strand. `img` gives the number of n bytes at an offset. That
the fields of T = 1 must be 0 in an image of T = 0 is Table 13-8's; where the words of the vmma records lie, log 8's choice. -/
def ImageBadField (img : Nat → Nat → Nat) (h : Nat) (flag : Bool) (o : Nat) : Prop :=
  let n := img 0 8 % 4
  let hold := img 24 8
  let vmma : Nat → Bool := fun r => match VOp.ofWord (BitVec.ofNat 32 (img (256 + 32 * r) 4)) with
    | some (_, .mma _ _ _ _) => true
    | _ => false
  (o = 0 ∧ (n = 3 ∨ img 0 8 / 2 ^ 2 % 2 ^ 2 ≠ 0 ∨ img 0 8 / 2 ^ 8 ≠ 0)) ∨
  (o = 8 ∧ (img 8 4 / 2 ^ 14 % 2 ^ 2 ≠ 0 ∨ img 8 4 / 2 ^ 20 ≠ 0)) ∨
  (o = 20 ∧ (img 20 4 / 2 ^ 6 % 2 ^ 2 ≠ 0 ∨ img 20 4 / 2 ^ 13 ≠ 0 ∨ (img 20 4 / 2 ^ 12 % 2 = 1 ↔ flag = false) ∨
    (flag = false ∧ img 20 4 / 2 ^ 8 % 2 ^ 4 ≠ 0))) ∨
  (o = 24 ∧ (hold / 2 ^ 10 % 2 ^ 2 ≠ 0 ∨ hold / 2 ^ 28 ≠ 0 ∨
    (flag = true ∧ hold / 2 ^ 24 % 2 ^ 4 ≠ 0 ∧ hold / 2 ^ 12 % 2 ^ 12 ≠ h) ∨
    (flag = false ∧ (hold % 2 ^ 10 ≠ 0 ∨ hold / 2 ^ 24 % 2 ^ 4 ≠ 0)))) ∨
  (∃ i, i < 4 ∧ o = 32 + 8 * i ∧ (img o 8 / 2 ^ 9 % 2 ^ 7 ≠ 0 ∨ img o 8 / 2 ^ 24 % 2 ^ 7 ≠ 0 ∨ img o 8 / 2 ^ 32 ≠ 0)) ∨
  (o = 64 ∧ flag = false ∧ img 64 8 ≠ 0) ∨ (o = 72 ∧ img 72 8 ≠ 0) ∨ (o = 80 ∧ flag = false ∧ img 80 16 ≠ 0) ∨
  (o = 96 ∧ img 96 48 ≠ 0) ∨
  (∃ j, j < 32 ∧ o = 144 + j ∧ (if j < nregs n ∧ img 16 4 / 2 ^ j % 2 = 1 then regBits n / 2048 else 0) < img o 1) ∨
  (o = 176 ∧ img 176 72 ≠ 0) ∨ (o = 248 ∧ img 248 8 ≠ 1) ∨ (o = 6976 ∧ img 6976 192 ≠ 0) ∨
  (∃ k, ((List.range (min 48 (img 20 4 % 2 ^ 6))).filter vmma).length ≤ k ∧ k < 16 ∧ o = 15360 + 64 * k ∧ img o 64 ≠ 0)

/-- The vector side stands as an image gives it (R319): the configuration, the masks, the leeway registers, the loop slots, and each register:
a dirty one its bytes up to its extent, a clean one 0. -/
def VecLoaded (v : Vec) (img : Nat → Nat → Nat) : Prop :=
  v.ncode = img 0 8 % 4 ∧ v.slip = img 0 8 / 16 % 16 ∧ v.vl = img 8 4 % 2 ^ 14 ∧ v.vetype.toNat = img 8 4 / 2 ^ 16 % 16 ∧
  (∀ i, 0 < i → i < 8 → (v.mask i).toNat = img (7168 + 1024 * (i - 1)) 1024) ∧
  (∀ i, i < 4 → let l := v.leeway i
    l.c = img (32 + 8 * i) 8 % 2 ^ 9 ∧ l.p = img (32 + 8 * i) 8 / 2 ^ 16 % 2 ^ 8 ∧ (l.ns = true ↔ img (32 + 8 * i) 8 / 2 ^ 31 % 2 = 1) ∧
    (∀ j, j < 256 → (l.res.get 0 j).toNat = img (2048 + 1024 * i + 4 * j) 4) ∧ (v.loop i).cfg.toNat = img (6144 + 16 * i) 8) ∧
  (∀ j, j < nregs v.ncode → let x := v.reg j
    x.valid.toNat = img (14336 + 32 * j) 32 ∧ (x.dirty = true ↔ img 16 4 / 2 ^ j % 2 = 1) ∧ (x.dirty = false → x.bits = 0 ∧ x.ext = 0) ∧
    (x.dirty = true → x.ext = img (144 + j) 1 ∧ x.bits = BitVec.ofNat 65536 (img (16384 + j * (65536 / nregs v.ncode)) (256 * x.ext)))) ∧
  (img 20 4 % 2 ^ 6 = 0 → v.queue = [])

/-- The task state of hart h stands as an image with T = 1 gives it (R319): tags, notices, channels, the bindings of its rings, the parked
tiles. How a ring slot says that it is set is log 8's choice. -/
def TaskLoaded (b : Hart) (img : Nat → Nat → Nat) : Prop :=
  (∀ k, k ∈ b.stg.tags ↔ k < 16 ∧ img 64 2 / 2 ^ k % 2 = 1) ∧
  (∀ x, x ∈ b.stg.notices ↔ x.tag < 16 ∧ img 66 2 / 2 ^ x.tag % 2 = 1 ∧ x.starved = decide (img 68 2 / 2 ^ x.tag % 2 = 1) ∧
    x.granules = img (80 + x.tag) 1) ∧
  (∀ i, i < 4 → let c := b.stg.chans.get Chan.start i
    (∀ j, j < 7 → (c.sh.get 0 j).toNat = img (6464 + 128 * i + 8 * j) 8) ∧ c.nextId.toNat = img (6464 + 128 * i + 56) 4 ∧
    c.wm.toNat = img (6464 + 128 * i + 64) 8 % 2 ^ 32 ∧ (c.err = true ↔ img (6464 + 128 * i + 64) 8 / 2 ^ 32 % 2 = 1) ∧ c.xfers = []) ∧
  (∀ i, i < 8 → ((b.stg.rings.find i).isSome = true ↔ img (6208 + 32 * i) 8 % 2 = 1)) ∧
  b.arr.area = (if img 24 8 / 2 ^ 5 % 2 = 1 then some (img 24 8 % 2 ^ 5) else none) ∧ b.arr.mask = img 24 8 / 2 ^ 6 % 2 ^ 4

/-- Nothing but the clusters has changed. -/
def OnlyClusters (s t : State) : Prop := { t with clusters := s.clusters } = s

/-- Cluster cl has become c, and nothing else has changed. -/
def OnlyCluster (s t : State) (cl : Nat) (c : Cluster) : Prop :=
  t.cluster cl = c ∧ (∀ k, k ≠ cl → t.cluster k = s.cluster k) ∧ OnlyClusters s t

/-- Nothing keeps the lease of a cluster from being granted (R182): no holder, no parking, no accepted command left. -/
def LeaseFree (c : Cluster) : Prop :=
  c.lease.holder = none ∧ c.lease.ending = none ∧ c.lease.parking = none ∧ c.cmdq = [] ∧ c.executing = none ∧ c.fills = []

/-- The lease of cluster cl is to go to hart h in cy d, the first in which it is free and requested: of the strands whose requests had been
posted by then, the first after the last holder's place (R182). -/
def LeaseDue (s : State) (cl h d : Nat) : Prop :=
  let l := (s.cluster cl).lease
  let arr : Nat → ArraySide := fun j => (s.hart (strandAt cl ((l.last + 1 + j) % 16))).arr
  let asks : Nat → Prop := fun j => (arr j).req = true ∧ (arr j).reqAt ≤ d
  LeaseFree (s.cluster cl) ∧ l.freed ≤ d ∧ (l.freed = d ∨ ∀ j, j < 16 → (arr j).req = true → d ≤ (arr j).reqAt) ∧
    ∃ i, i < 16 ∧ h = strandAt cl ((l.last + 1 + i) % 16) ∧ asks i ∧ ∀ j, j < i → ¬asks j

/-- Hart h has been granted the lease of cluster cl in cy d (R182, R197): full budgets, tiles +0.0, and its recorded commands entered and
charged; a strand with parked tiles gets those back first. -/
def LeaseGranted (s : State) (cl h d : Nat) (t : State) : Prop :=
  let c := s.cluster cl
  let b := s.hart h
  (∀ j, j ≠ cl → t.cluster j = s.cluster j) ∧ OnlyHartAnd s t h (fun t => { t with clusters := s.clusters }) ∧
  (b.arr.area = none → t.hart h = { b with arr := { b.arr with req := false, resume := [], back := false } } ∧
    t.cluster cl = { c with tiles := [], live := 0, cmdq := b.arr.resume, lease := { c.lease with
      holder := some h, last := placeOf h, cmds := 256 - b.arr.resume.length, start := some d, restoring := false } }) ∧
  (b.arr.area ≠ none → t.hart h = { b with arr := { b.arr with req := false } } ∧
    t.cluster cl = { c with tiles := [], live := 0, lease := { c.lease with
      holder := some h, last := placeOf h, cmds := 256, start := none, restoring := true } })

/-- A strand's array side after its request is posted in a cy; one posted already stands. -/
def ArraySide.asked (a : ArraySide) (now : Nat) : ArraySide := if a.req = true then a else { a with req := true, reqAt := now }

/-- Only the device units have changed, to d. -/
def OnlyDevice (s t : State) (d : Device) : Prop := t = { s with dev := d }

/-- The operation is carried out on the registers of its strand alone, without memory, streams or a fence. -/
def VOp.InRegisters (o : VOp) : Prop :=
  match o with
  | .ld _ _ _ _ _ => False
  | .st _ _ _ _ _ => False
  | .amo _ _ _ _ => False
  | .qld _ _ => False
  | .qst _ _ _ => False
  | .ldfe _ _ => False
  | .stfe _ _ => False
  | .pref _ => False
  | .send _ => False
  | .recv _ => False
  | .fence _ => False
  | .ray f _ _ _ => f ≠ .tsamp ∧ f ≠ .tfetch
  | _ => True

/-- Entry e holds the next group of queue q of hart h, and nothing keeps it from beginning: the slip bound and the older entries
(R78, R79), the fences before it and older mst commands on its leeway register (R165, R263, R265). -/
def MayBegin (s : State) (h : Nat) (q : VQueue) (e : VEntry) : Prop :=
  (s.hart h).vec.head q = some e ∧ e.seq < (s.hart h).vec.nextSeq ∧ (s.hart h).vec.ordered e = true ∧ s.fenced h e = false

/-- An array command of hart h that is not complete and that vector entry e comes after (R195, R197, R261): an accepted one from before it
in program order; one that a pre-emption recorded, once the strand's array side goes on, or where the entry is itself reinstated. -/
def CommandBefore (s : State) (h : Nat) (e : VEntry) (a : ACmd) : Prop :=
  let arr := (s.hart h).arr
  a.pos < e.pos ∧ (a ∈ s.acmds h ∨ (a ∈ arr.resume ∧ (arr.susp = 0 ∨ e.pos ≠ e.entered)))

/-- Only the vector side of hart h has changed. -/
def OnlyVec (s t : State) (h : Nat) : Prop := t.hart h = { s.hart h with vec := (t.hart h).vec } ∧ OnlyHart s t h

/-- Only the staging units of hart h have changed, to g. -/
def OnlyStg (s t : State) (h : Nat) (g : Staging) : Prop := t.hart h = { s.hart h with stg := g } ∧ OnlyHart s t h

/-- Link l has become k, and nothing else anywhere has changed. -/
def OnlyLink (s t : State) (l : Nat) (k : Link) : Prop :=
  t.link l = k ∧ (∀ j, j ≠ l → t.link j = s.link j) ∧ { t with dev := { t.dev with links := s.dev.links } } = s

/-- Queue q has become x, and nothing else anywhere has changed. -/
def OnlyQueue (s t : State) (q : Nat) (x : Queue) : Prop :=
  t.queue q = x ∧ (∀ j, j ≠ q → t.queue j = s.queue j) ∧ { t with queues := s.queues } = s

/-- Core c has become k, and nothing else anywhere has changed. -/
def OnlyCore (s t : State) (c : Nat) (k : Core) : Prop :=
  t.core c = k ∧ (∀ j, j ≠ c → t.core j = s.core j) ∧ { t with cores := s.cores } = s

/-- One channel of a blended pixel (Table 10-9): source, destination, source alpha, and whether it is the A channel. -/
def Blended (mode s d a : Nat) (alpha : Bool) : Nat :=
  if mode = 0 then s
  else if mode = 1 then (if alpha then 255 * s + d * (255 - s) + 127 else s * a + d * (255 - a) + 127) / 255
  else if mode = 2 then min 255 (s + d)
  else (s * d + 127) / 255

/-- From state s, an instruction of hart h has issued, or waits on: it has had effect P, and where it has moved the hart on, in its place in
program order, its pc, its wait or its CSRs, the yields of its core wait for the hart no more (R239). -/
def Issues (s : State) (h : Nat) (P : State → Prop) (t : State) : Prop :=
  ∃ u, P u ∧ ((u.hart h).mark = (s.hart h).mark → t = u) ∧ ((u.hart h).mark ≠ (s.hart h).mark → Struck u h t)

/-- An apply of the image w to the entry that QPIDX selects is refused (R330, Tables 13-13 to 13-15): it sets a reserved bit, names a context
that is not resident, or, for a window, a queue pair that is not valid, or, for a region, a range that is not backed, of a push region one of
more than 65,536 bytes. -/
def ApplyRefused (s : State) (idx : Word) (w : Nat → Word) : Prop :=
  let t := fld idx 12 2
  let absent := (s.ctx (fld (w 0) 4 4)).ctl.getLsbD 0 = false
  (t = 0 ∧ (fld (w 0) 8 24 ≠ 0 ∨ fld (w 0) 56 8 ≠ 0 ∨ fld (w 0) 1 2 = 3 ∨ fld (w 1) 62 2 ≠ 0 ∨ fld (w 1) 48 3 = 0 ∨ 3 < fld (w 1) 48 3 ∨
    (w 4).getLsbD 55 = true ∨ fld (w 5) 32 32 ≠ 0 ∨ fld (w 6) 0 6 ≠ 0 ∨ fld (w 6) 52 12 ≠ 0 ∨ w 7 ≠ 0 ∨
    ((w 0).getLsbD 3 = false ∧ (w 6 ≠ 0 ∨ absent)))) ∨
  (t = 1 ∧ (fld (w 0) 13 51 ≠ 0 ∨ fld (w 2) 32 32 ≠ 0 ∨ (∃ i, 3 ≤ i ∧ i < 8 ∧ w i ≠ 0) ∨
    ((s.dev.qps.get [] (fld (w 0) 1 12)).getD 0 0).getLsbD 0 = false)) ∨
  (2 ≤ t ∧ (fld (w 0) 8 24 ≠ 0 ∨ fld (w 2) 48 16 ≠ 0 ∨ fld (w 3) 40 24 ≠ 0 ∨ (∃ i, 4 ≤ i ∧ i < 8 ∧ w i ≠ 0) ∨ absent ∨
    ((w 0).getLsbD 3 = true ∧ 65536 < (w 3).toNat) ∨
    ((w 0).getLsbD 3 = false ∧ (fld (w 2) 0 8 ≠ 0 ∨ 0x7735940000 < (w 2).toNat + (w 3).toNat))))

/-- A store of the 8 bytes v to device register r, at the address va, stands next at hart h (R351). -/
def StoresReg (s : State) (h : Nat) (r : DevReg) (va v : Word) : Prop :=
  ∃ op off x, s.nextReg h = some (op, off, r) ∧ op.store = true ∧ op.bytes = 8 ∧ op.va = va ∧ s.x h op.reg = v ∧
    s.access h va 8 .store = .ok x ∧ x.Plain

/-- Queue pair qp has taken one request: its next expected PSN is one higher, and the rest of its entry is as it was. -/
def PsnTaken (s t : State) (qp : Nat) : Prop :=
  let a := s.dev.qps.get [] qp
  let b := t.dev.qps.get [] qp
  (∀ j, j ≠ qp → t.dev.qps.get [] j = s.dev.qps.get [] j) ∧ b.length = a.length ∧ (∀ i, i ≠ 1 → b.getD i 0 = a.getD i 0) ∧
    (2 ≤ a.length → fld (b.getD 1 0) 24 24 = (fld (a.getD 1 0) 24 24 + 1) % 2 ^ 24 ∧ fld (b.getD 1 0) 0 24 = fld (a.getD 1 0) 0 24 ∧
      fld (b.getD 1 0) 48 16 = fld (a.getD 1 0) 48 16)

end Sys2Proof.Machine
end

