-- ==== Sys2Proof/Certificates/Slice0/Obligations.lean ====
section
/-!
DEFINITION. The statements for the provers, from the spec's numbered rules, family by family.
-/
open Sys2Proof Sys2Proof.Machine

/-! ## Base integer instructions -/

/-- Tables 3-1 (OP-IMM, OP-IMM-32, lui, auipc): each writes its result to X[rd] and nothing else, at every register number and
immediate; with rd = x0 it only advances the pc (R55).

Table 3-1 (OP and OP-32): each writes its result to X[rd] and nothing else.

Table 3-2, the products: mulh, mulhsu and mulhu give bits 127 to 64 of the exact product.

R55: division by zero and signed overflow give results without a trap, in the 64-bit forms and, on 32-bit values with the
result sign-extended, in the W forms; every division answers a next state. -/
def Obligations.IntegerResults : Prop :=
  (∀ (s : State) (rd rs1 : BitVec 5) (imm : BitVec 12) (u : BitVec 20) (sh : BitVec 6) (sw : BitVec 5),
    let a := s.rx rs1
    let i : Word := imm.signExtend 64
    let w : BitVec 32 := a.setWidth 32
    Answers (.lui rd u) s (WritesX s rd ((u ++ 0#12).signExtend 64) s.nextPc) ∧
    Answers (.auipc rd u) s (WritesX s rd ((s.hart s.cur).pc + (u ++ 0#12).signExtend 64) s.nextPc) ∧
    Answers (.addi rd rs1 imm) s (WritesX s rd (a + i) s.nextPc) ∧
    Answers (.slti rd rs1 imm) s (WritesX s rd (if a.toInt < i.toInt then 1 else 0) s.nextPc) ∧
    Answers (.sltiu rd rs1 imm) s (WritesX s rd (if a.toNat < i.toNat then 1 else 0) s.nextPc) ∧
    Answers (.xori rd rs1 imm) s (WritesX s rd (a ^^^ i) s.nextPc) ∧
    Answers (.ori rd rs1 imm) s (WritesX s rd (a ||| i) s.nextPc) ∧
    Answers (.andi rd rs1 imm) s (WritesX s rd (a &&& i) s.nextPc) ∧
    Answers (.slli rd rs1 sh) s (WritesX s rd (a <<< sh.toNat) s.nextPc) ∧
    Answers (.srli rd rs1 sh) s (WritesX s rd (a >>> sh.toNat) s.nextPc) ∧
    Answers (.srai rd rs1 sh) s (WritesX s rd (a.sshiftRight sh.toNat) s.nextPc) ∧
    Answers (.addiw rd rs1 imm) s (WritesX s rd (((a + i).setWidth 32).signExtend 64) s.nextPc) ∧
    Answers (.slliw rd rs1 sw) s (WritesX s rd ((w <<< sw.toNat).signExtend 64) s.nextPc) ∧
    Answers (.srliw rd rs1 sw) s (WritesX s rd ((w >>> sw.toNat).signExtend 64) s.nextPc) ∧
    Answers (.sraiw rd rs1 sw) s (WritesX s rd ((w.sshiftRight sw.toNat).signExtend 64) s.nextPc)) ∧
  (∀ (s : State) (rd rs1 rs2 : BitVec 5),
    let a := s.rx rs1
    let b := s.rx rs2
    let v : BitVec 32 := a.setWidth 32
    let w : BitVec 32 := b.setWidth 32
    let n := (b.setWidth 6).toNat
    let m := (b.setWidth 5).toNat
    Answers (.add rd rs1 rs2) s (WritesX s rd (a + b) s.nextPc) ∧
    Answers (.sub rd rs1 rs2) s (WritesX s rd (a - b) s.nextPc) ∧
    Answers (.sll rd rs1 rs2) s (WritesX s rd (a <<< n) s.nextPc) ∧
    Answers (.slt rd rs1 rs2) s (WritesX s rd (if a.toInt < b.toInt then 1 else 0) s.nextPc) ∧
    Answers (.sltu rd rs1 rs2) s (WritesX s rd (if a.toNat < b.toNat then 1 else 0) s.nextPc) ∧
    Answers (.xor rd rs1 rs2) s (WritesX s rd (a ^^^ b) s.nextPc) ∧
    Answers (.srl rd rs1 rs2) s (WritesX s rd (a >>> n) s.nextPc) ∧
    Answers (.sra rd rs1 rs2) s (WritesX s rd (a.sshiftRight n) s.nextPc) ∧
    Answers (.or rd rs1 rs2) s (WritesX s rd (a ||| b) s.nextPc) ∧
    Answers (.and rd rs1 rs2) s (WritesX s rd (a &&& b) s.nextPc) ∧
    Answers (.addw rd rs1 rs2) s (WritesX s rd ((v + w).signExtend 64) s.nextPc) ∧
    Answers (.subw rd rs1 rs2) s (WritesX s rd ((v - w).signExtend 64) s.nextPc) ∧
    Answers (.sllw rd rs1 rs2) s (WritesX s rd ((v <<< m).signExtend 64) s.nextPc) ∧
    Answers (.srlw rd rs1 rs2) s (WritesX s rd ((v >>> m).signExtend 64) s.nextPc) ∧
    Answers (.sraw rd rs1 rs2) s (WritesX s rd ((v.sshiftRight m).signExtend 64) s.nextPc)) ∧
  (∀ (s : State) (rd rs1 rs2 : BitVec 5),
    let a := s.rx rs1
    let b := s.rx rs2
    Answers (.mul rd rs1 rs2) s (WritesX s rd (a * b) s.nextPc) ∧
    Answers (.mulh rd rs1 rs2) s
      (WritesX s rd (((a.signExtend 128 * b.signExtend 128) >>> 64).setWidth 64) s.nextPc) ∧
    Answers (.mulhsu rd rs1 rs2) s
      (WritesX s rd (((a.signExtend 128 * b.setWidth 128) >>> 64).setWidth 64) s.nextPc) ∧
    Answers (.mulhu rd rs1 rs2) s
      (WritesX s rd (((a.setWidth 128 * b.setWidth 128) >>> 64).setWidth 64) s.nextPc) ∧
    Answers (.mulw rd rs1 rs2) s
      (WritesX s rd ((a.setWidth 32 * b.setWidth 32 : BitVec 32).signExtend 64) s.nextPc)) ∧
  (∀ (s : State) (rd rs1 rs2 : BitVec 5),
    let a := s.rx rs1
    let b := s.rx rs2
    let v : BitVec 32 := a.setWidth 32
    let w : BitVec 32 := b.setWidth 32
    (∃ q r, SignedDivision a b q r ∧ Answers (.div rd rs1 rs2) s (WritesX s rd q s.nextPc) ∧
      Answers (.rem rd rs1 rs2) s (WritesX s rd r s.nextPc)) ∧
    (∃ q r, UnsignedDivision a b q r ∧ Answers (.divu rd rs1 rs2) s (WritesX s rd q s.nextPc) ∧
      Answers (.remu rd rs1 rs2) s (WritesX s rd r s.nextPc)) ∧
    (∃ q r, SignedDivision v w q r ∧ Answers (.divw rd rs1 rs2) s (WritesX s rd (q.signExtend 64) s.nextPc) ∧
      Answers (.remw rd rs1 rs2) s (WritesX s rd (r.signExtend 64) s.nextPc)) ∧
    (∃ q r, UnsignedDivision v w q r ∧ Answers (.divuw rd rs1 rs2) s (WritesX s rd (q.signExtend 64) s.nextPc) ∧
      Answers (.remuw rd rs1 rs2) s (WritesX s rd (r.signExtend 64) s.nextPc)))

/-! ## Control flow -/

/-- R26, Table 3-1: jal and jalr write pc + 4 to X[rd] and go to their target, where that is a multiple of 4; the target of jalr
is formed from the old value of rs1, with bit 0 cleared, also where rd = rs1.

Table 3-1: a branch whose condition holds goes to its target, where that is a multiple of 4; one whose condition does not
hold goes on, whatever its offset; no branch writes a register or memory.

R26: a jump or taken branch whose target is not a multiple of 4 raises instruction-address-misaligned at the jump, with the
target as trap value, and writes no register.

R63, R65: ecall raises the environment call of its mode, ebreak a breakpoint, both with trap value 0.

Table 3-4 and the privileged architecture of Table 0-3: sret and mret go to the saved pc in the saved mode, restore the interrupt
enable, set its saved copy, and clear SPP or MPP; MPRV is cleared where the new mode is below M; a held resume state is reinstated where the
return is back at the interrupted code (R101; log 66's reading of which traps a return has ended). No x or f register, no other hart
and no byte of memory changes. In a mode too low for it, sret (in U-mode, and in S-mode while TSR is set) or mret (below M-mode) is
illegal. -/
def Obligations.ControlFlowResults : Prop :=
  (∀ (s : State) (rd rs1 : BitVec 5) (off : BitVec 20) (imm : BitVec 12),
    let t : Word := (s.hart s.cur).pc + (off ++ 0#1).signExtend 64
    let u : Word := (s.rx rs1 + imm.signExtend 64) &&& ~~~1#64
    (TargetOk t → Answers (.jal rd off) s (WritesX s rd s.nextPc t)) ∧
    (TargetOk u → Answers (.jalr rd rs1 imm) s (WritesX s rd s.nextPc u))) ∧
  (∀ (s : State) (rs1 rs2 : BitVec 5) (off : BitVec 12),
    let a := s.rx rs1
    let b := s.rx rs2
    let t : Word := (s.hart s.cur).pc + (off ++ 0#1).signExtend 64
    let goes : Instr → Prop → Prop := fun i c =>
      (c → TargetOk t → Answers i s (Retires s t)) ∧ (¬c → Answers i s (Retires s s.nextPc))
    goes (.beq rs1 rs2 off) (a = b) ∧ goes (.bne rs1 rs2 off) (a ≠ b) ∧
    goes (.blt rs1 rs2 off) (a.toInt < b.toInt) ∧ goes (.bge rs1 rs2 off) (b.toInt ≤ a.toInt) ∧
    goes (.bltu rs1 rs2 off) (a.toNat < b.toNat) ∧ goes (.bgeu rs1 rs2 off) (b.toNat ≤ a.toNat)) ∧
  (∀ (s : State) (rd rs1 rs2 : BitVec 5) (j : BitVec 20) (off imm : BitVec 12),
    let a := s.rx rs1
    let b := s.rx rs2
    let t : Word := (s.hart s.cur).pc + (j ++ 0#1).signExtend 64
    let u : Word := (a + imm.signExtend 64) &&& ~~~1#64
    let v : Word := (s.hart s.cur).pc + (off ++ 0#1).signExtend 64
    (¬TargetOk t → Answers (.jal rd j) s (Raises s 0 t)) ∧
    (¬TargetOk u → Answers (.jalr rd rs1 imm) s (Raises s 0 u)) ∧
    (¬TargetOk v → a = b → Answers (.beq rs1 rs2 off) s (Raises s 0 v)) ∧
    (¬TargetOk v → a ≠ b → Answers (.bne rs1 rs2 off) s (Raises s 0 v)) ∧
    (¬TargetOk v → a.toInt < b.toInt → Answers (.blt rs1 rs2 off) s (Raises s 0 v)) ∧
    (¬TargetOk v → b.toInt ≤ a.toInt → Answers (.bge rs1 rs2 off) s (Raises s 0 v)) ∧
    (¬TargetOk v → a.toNat < b.toNat → Answers (.bltu rs1 rs2 off) s (Raises s 0 v)) ∧
    (¬TargetOk v → b.toNat ≤ a.toNat → Answers (.bgeu rs1 rs2 off) s (Raises s 0 v))) ∧
  (∀ (s : State),
    ((s.hart s.cur).mode = .u → Answers .ecall s (Raises s 8 0)) ∧
    ((s.hart s.cur).mode = .s → Answers .ecall s (Raises s 9 0)) ∧
    ((s.hart s.cur).mode = .m → Answers .ecall s (Raises s 11 0)) ∧ Answers .ebreak s (Raises s 3 0)) ∧
  (∀ (s : State), let c := (s.hart s.cur).csr
    let st := c.mstatus
    (((s.hart s.cur).mode = .m ∨ ((s.hart s.cur).mode = .s ∧ st.getLsbD 22 = false)) →
      Answers .sret s (fun t =>
        let u := t.hart s.cur
        u.mode = (if st.getLsbD 8 then .s else .u) ∧ u.pc = c.sepc ∧ u.csr = { c with mstatus := u.csr.mstatus } ∧
        u.csr.mstatus.getLsbD 1 = st.getLsbD 5 ∧ u.csr.mstatus.getLsbD 5 = true ∧ u.csr.mstatus.getLsbD 8 = false ∧
        u.csr.mstatus.getLsbD 17 = false ∧
        (∀ i, i ≠ 1 → i ≠ 5 → i ≠ 8 → i ≠ 17 → u.csr.mstatus.getLsbD i = st.getLsbD i) ∧
        Returned (s.hart s.cur).vec 1 u.mode c.sepc u.vec ∧
        u.x = (s.hart s.cur).x ∧ u.f = (s.hart s.cur).f ∧ u.fflags = (s.hart s.cur).fflags ∧
        u.instret = (s.hart s.cur).instret + 1 ∧ (∀ k, k ≠ s.cur → t.hart k = s.hart k) ∧ SameMem s t)) ∧
    ((s.hart s.cur).mode = .u ∨ ((s.hart s.cur).mode = .s ∧ st.getLsbD 22 = true) → Answers .sret s (RaisesIllegal s (encode .sret))) ∧
    ((s.hart s.cur).mode ≠ .m → Answers .mret s (RaisesIllegal s (encode .mret))) ∧
    ((s.hart s.cur).mode = .m →
      Answers .mret s (fun t =>
        let u := t.hart s.cur
        u.mode = (if fld st 11 2 = 3 then .m else if fld st 11 2 = 1 then .s else .u) ∧ u.pc = c.mepc ∧
        u.csr = { c with mstatus := u.csr.mstatus } ∧
        u.csr.mstatus.getLsbD 3 = st.getLsbD 7 ∧ u.csr.mstatus.getLsbD 7 = true ∧ fld u.csr.mstatus 11 2 = 0 ∧
        (fld st 11 2 ≠ 3 → u.csr.mstatus.getLsbD 17 = false) ∧
        (fld st 11 2 = 3 → u.csr.mstatus.getLsbD 17 = st.getLsbD 17) ∧
        (∀ i, i ≠ 3 → i ≠ 7 → i ≠ 11 → i ≠ 12 → i ≠ 17 → u.csr.mstatus.getLsbD i = st.getLsbD i) ∧
        Returned (s.hart s.cur).vec 2 u.mode c.mepc u.vec ∧
        u.x = (s.hart s.cur).x ∧ u.f = (s.hart s.cur).f ∧ u.fflags = (s.hart s.cur).fflags ∧
        u.instret = (s.hart s.cur).instret + 1 ∧ (∀ k, k ≠ s.cur → t.hart k = s.hart k) ∧ SameMem s t)))

/-! ## Scalar loads, stores and atomics -/

/-- R56: a load or store that crosses a 32-byte boundary raises address-misaligned (load 4, store 6) with its address; every lr,
sc and AMO must be naturally aligned, an lr that is not raises 4, an sc or AMO that is not raises 6. No byte is accessed by it.

R56, R65, R127 to R131, R140 to R147, R314, R339: a scalar access that a check stops (AddressResolution says which) raises its exception with
its address; one that an offline die answers is reported to the fault queue too; an absent page raises a page fault, or becomes a request: the
record of Table 6-7 goes to the pager's queue and the strand enters its upcall. -/
def Obligations.AccessFaultsAndRequests : Prop :=
  (∀ (s : State) (rd rs1 rs2 : BitVec 5) (imm : BitVec 12) (rl aq : BitVec 1) (scope : BitVec 3),
    let a := s.rx rs1 + imm.signExtend 64
    let b := s.rx rs1
    let crosses := fun n => 32 < a.toNat % 32 + n
    let traps := fun (i : Instr) (c : Nat) (va : Word) => Answers i s (Raises s c va)
    (crosses 2 → traps (.lh rd rs1 imm) 4 a ∧ traps (.lhu rd rs1 imm) 4 a ∧ traps (.sh rs1 rs2 imm) 6 a) ∧
    (crosses 4 → traps (.lw rd rs1 imm) 4 a ∧ traps (.lwu rd rs1 imm) 4 a ∧ traps (.sw rs1 rs2 imm) 6 a ∧
      (fld (s.hart s.cur).csr.mstatus 13 2 ≠ 0 → traps (.flw rd rs1 imm) 4 a ∧ traps (.fsw rs1 rs2 imm) 6 a)) ∧
    (crosses 8 → traps (.ld rd rs1 imm) 4 a ∧ traps (.sd rs1 rs2 imm) 6 a) ∧
    (b.toNat % 4 ≠ 0 → traps (.lrW rd rs1 rl aq) 4 b ∧
      ∀ i ∈ ([.scW rd rs1 rs2 rl aq, .amoswapW rd rs1 rs2 rl aq, .amoaddW rd rs1 rs2 rl aq, .amoxorW rd rs1 rs2 rl aq,
        .amoandW rd rs1 rs2 rl aq, .amoorW rd rs1 rs2 rl aq, .amominW rd rs1 rs2 rl aq, .amomaxW rd rs1 rs2 rl aq,
        .amominuW rd rs1 rs2 rl aq, .amomaxuW rd rs1 rs2 rl aq] : List Instr), traps i 6 b) ∧
    (b.toNat % 4 ≠ 0 → scope.toNat ≤ 5 → traps (.amoaddf rd rs1 rs2 scope) 6 b ∧ traps (.amomaxf rd rs1 rs2 scope) 6 b) ∧
    (b.toNat % 8 ≠ 0 → traps (.lrD rd rs1 rl aq) 4 b ∧
      ∀ i ∈ ([.scD rd rs1 rs2 rl aq, .amoswapD rd rs1 rs2 rl aq, .amoaddD rd rs1 rs2 rl aq, .amoxorD rd rs1 rs2 rl aq,
        .amoandD rd rs1 rs2 rl aq, .amoorD rd rs1 rs2 rl aq, .amominD rd rs1 rs2 rl aq, .amomaxD rd rs1 rs2 rl aq,
        .amominuD rd rs1 rs2 rl aq, .amomaxuD rd rs1 rs2 rl aq] : List Instr), traps i 6 b)) ∧
  (∀ (s : State) (rd rs1 rs2 : BitVec 5) (imm : BitVec 12) (rl aq : BitVec 1) (scope : BitVec 3),
    let a := s.rx rs1 + imm.signExtend 64
    let b := s.rx rs1
    let on := fld (s.hart s.cur).csr.mstatus 13 2 ≠ 0
    let loads : Instr → Nat → Prop := fun i n => AccessStops i s a n .load false rs1.toNat
    let stores : Instr → Nat → Prop := fun i n => AccessStops i s a n .store true rs1.toNat
    loads (.lb rd rs1 imm) 1 ∧ loads (.lbu rd rs1 imm) 1 ∧ loads (.lh rd rs1 imm) 2 ∧ loads (.lhu rd rs1 imm) 2 ∧
    loads (.lw rd rs1 imm) 4 ∧ loads (.lwu rd rs1 imm) 4 ∧ loads (.ld rd rs1 imm) 8 ∧ (on → loads (.flw rd rs1 imm) 4) ∧
    stores (.sb rs1 rs2 imm) 1 ∧ stores (.sh rs1 rs2 imm) 2 ∧ stores (.sw rs1 rs2 imm) 4 ∧ stores (.sd rs1 rs2 imm) 8 ∧
    (on → stores (.fsw rs1 rs2 imm) 4) ∧
    AccessStops (.lrW rd rs1 rl aq) s b 4 .reserve false rs1.toNat ∧ AccessStops (.lrD rd rs1 rl aq) s b 8 .reserve false rs1.toNat ∧
    (∀ i ∈ ([.scW rd rs1 rs2 rl aq, .amoswapW rd rs1 rs2 rl aq, .amoaddW rd rs1 rs2 rl aq, .amoxorW rd rs1 rs2 rl aq,
      .amoandW rd rs1 rs2 rl aq, .amoorW rd rs1 rs2 rl aq, .amominW rd rs1 rs2 rl aq, .amomaxW rd rs1 rs2 rl aq,
      .amominuW rd rs1 rs2 rl aq, .amomaxuW rd rs1 rs2 rl aq] : List Instr), AccessStops i s b 4 .atomic true rs1.toNat) ∧
    (∀ i ∈ ([.scD rd rs1 rs2 rl aq, .amoswapD rd rs1 rs2 rl aq, .amoaddD rd rs1 rs2 rl aq, .amoxorD rd rs1 rs2 rl aq,
      .amoandD rd rs1 rs2 rl aq, .amoorD rd rs1 rs2 rl aq, .amominD rd rs1 rs2 rl aq, .amomaxD rd rs1 rs2 rl aq,
      .amominuD rd rs1 rs2 rl aq, .amomaxuD rd rs1 rs2 rl aq] : List Instr), AccessStops i s b 8 .atomic true rs1.toNat) ∧
    (scope.toNat ≤ 5 → AccessStops (.amoaddf rd rs1 rs2 scope) s b 4 .atomic true rs1.toNat ∧
      AccessStops (.amomaxf rd rs1 rs2 scope) s b 4 .atomic true rs1.toNat) ∧
    (b.toNat % 8 = 0 → AccessStops (.ldfe rd rs1) s b 8 .load false rs1.toNat ∧ AccessStops (.stfe rs1 rs2) s b 8 .store true rs1.toNat))

/-- Table 3-1, R56: the loads write the bytes they find, sign- or zero-extended, to X[rd]; flw writes them to F[rd] where FS is not
Off, and makes FS Dirty (R61).

Table 3-1, R56, R66: the stores put the low bytes of X[rs2], or F[rs2], into the store buffer. How accesses to memory of I/O type go is the
model's reading (log 51, DEDUCED; R58 and Table 5-6 give an order only), and error marks go as log 52 reads R336; device registers (R351)
and remote windows (logs 12, 30, 62) are reached as theirs say. -/
def Obligations.LoadAndStoreResults : Prop :=
  (∀ (s : State) (rd rs1 : BitVec 5) (imm : BitVec 12),
    let va := s.rx rs1 + imm.signExtend 64
    let x : State → Word → State → Prop := fun u v => WritesX u rd v u.nextPc
    LoadsAs (.lb rd rs1 imm) s va 1 true false rd x ∧ LoadsAs (.lh rd rs1 imm) s va 2 true false rd x ∧
    LoadsAs (.lw rd rs1 imm) s va 4 true false rd x ∧ LoadsAs (.ld rd rs1 imm) s va 8 true false rd x ∧
    LoadsAs (.lbu rd rs1 imm) s va 1 false false rd x ∧ LoadsAs (.lhu rd rs1 imm) s va 2 false false rd x ∧
    LoadsAs (.lwu rd rs1 imm) s va 4 false false rd x ∧
    (fld (s.hart s.cur).csr.mstatus 13 2 ≠ 0 →
      LoadsAs (.flw rd rs1 imm) s va 4 false true rd (fun u v => WritesF u rd (v.setWidth 32) 0 u.nextPc))) ∧
  (∀ (s : State) (rs1 rs2 : BitVec 5) (imm : BitVec 12),
    let va := s.rx rs1 + imm.signExtend 64
    let v := (s.rx rs2).toNat
    StoresAs (.sb rs1 rs2 imm) s va 1 v ∧ StoresAs (.sh rs1 rs2 imm) s va 2 v ∧
    StoresAs (.sw rs1 rs2 imm) s va 4 v ∧ StoresAs (.sd rs1 rs2 imm) s va 8 v ∧
    (fld (s.hart s.cur).csr.mstatus 13 2 ≠ 0 → StoresAs (.fsw rs1 rs2 imm) s va 4 (s.f s.cur rs2.toNat).toNat))

/-- Table 3-2, R57, R131: lr loads and reserves; sc stores and gives 0 where the reservation still stands for its address and width,
else gives 1, leaves memory but for the A bit, and D unchanged; either way the reservation is gone after it. An access may bring its line
nearer (R118, R124; the policy is log 57). A store that covers an error mark ends it: the model's reading (log 52, DEDUCED).

Table 3-2: the base AMOs.

R268, R269: amoaddf adds and amomaxf takes the maximumNumber, in binary32 rounded to nearest even, at each of the six scopes;
a scope other than strand waits for the hart's older accesses, the scope system for its remote ones too. An atomic that covers an error mark
ends it: the model's reading (log 52, DEDUCED). -/
def Obligations.AtomicResults : Prop :=
  (∀ (s : State) (rd rs1 rs2 : BitVec 5) (rl aq : BitVec 1),
    let va := s.rx rs1
    let rel := decide (rl = 1)
    let lr : Instr → Nat → Prop := fun i n => ∀ x, AtomicGoes s va n .reserve false rel false x →
      ∃ v, Extends n true (fun j => (s.setAD x).byte (x.pa + j)) v ∧ Answers i s (fun t => ∃ u,
        CachesOnly (s.setAD x) u s.cur ∧ XHolds s rd v t ∧ OnlyHart u t s.cur ∧
        t.hart s.cur = { (u.hart s.cur).retired s.nextPc with
          x := (t.hart s.cur).x, resv := some (x.pa, n) })
    let sc : Instr → Nat → Prop := fun i n => ∀ x, AtomicGoes s va n .atomic true rel false x →
      ((s.hart s.cur).resv = some (x.pa, n) →
        Answers i s (fun t => ∃ u0 u, CachesOnly (s.setAD x) u0 s.cur ∧
          Performed u0 false s.cur (ownCore s.cur) x.pa (bytesOf n (s.rx rs2).toNat) u ∧
          XHolds s rd 0 t ∧ OnlyHart u t s.cur ∧
          t.hart s.cur = { (u.hart s.cur).retired s.nextPc with x := (t.hart s.cur).x, resv := none })) ∧
      ((s.hart s.cur).resv ≠ some (x.pa, n) →
        Answers i s (fun t =>
          XHolds s rd 1 t ∧ OnlyHart (s.setAD x.aOnly) t s.cur ∧
          t.hart s.cur = { ((s.setAD x.aOnly).hart s.cur).retired s.nextPc with x := (t.hart s.cur).x, resv := none }))
    lr (.lrW rd rs1 rl aq) 4 ∧ lr (.lrD rd rs1 rl aq) 8 ∧ sc (.scW rd rs1 rs2 rl aq) 4 ∧ sc (.scD rd rs1 rs2 rl aq) 8) ∧
  (∀ (s : State) (rd rs1 rs2 : BitVec 5) (rl aq : BitVec 1),
    let va := s.rx rs1
    let rel := decide (rl = 1)
    let b := (s.rx rs2).toNat % 2 ^ 32
    let c := (s.rx rs2).toNat
    let w : Instr → (Nat → Nat) → Prop := fun i f => AmoDoes i s rd va 4 rel false f
    let d : Instr → (Nat → Nat) → Prop := fun i f => AmoDoes i s rd va 8 rel false f
    let s4 : Nat → Int := fun o => (BitVec.ofNat 32 o).toInt
    let s8 : Nat → Int := fun o => (BitVec.ofNat 64 o).toInt
    w (.amoswapW rd rs1 rs2 rl aq) (fun _ => b) ∧ d (.amoswapD rd rs1 rs2 rl aq) (fun _ => c) ∧
    w (.amoaddW rd rs1 rs2 rl aq) (fun o => o + b) ∧ d (.amoaddD rd rs1 rs2 rl aq) (fun o => o + c) ∧
    w (.amoxorW rd rs1 rs2 rl aq) (fun o => o ^^^ b) ∧ d (.amoxorD rd rs1 rs2 rl aq) (fun o => o ^^^ c) ∧
    w (.amoandW rd rs1 rs2 rl aq) (fun o => o &&& b) ∧ d (.amoandD rd rs1 rs2 rl aq) (fun o => o &&& c) ∧
    w (.amoorW rd rs1 rs2 rl aq) (fun o => o ||| b) ∧ d (.amoorD rd rs1 rs2 rl aq) (fun o => o ||| c) ∧
    w (.amominW rd rs1 rs2 rl aq) (fun o => if s4 b < s4 o then b else o) ∧
    d (.amominD rd rs1 rs2 rl aq) (fun o => if s8 c < s8 o then c else o) ∧
    w (.amomaxW rd rs1 rs2 rl aq) (fun o => if s4 o < s4 b then b else o) ∧
    d (.amomaxD rd rs1 rs2 rl aq) (fun o => if s8 o < s8 c then c else o) ∧
    w (.amominuW rd rs1 rs2 rl aq) (fun o => min o b) ∧ d (.amominuD rd rs1 rs2 rl aq) (fun o => min o c) ∧
    w (.amomaxuW rd rs1 rs2 rl aq) (fun o => max o b) ∧ d (.amomaxuD rd rs1 rs2 rl aq) (fun o => max o c)) ∧
  (∀ (s : State) (rd rs1 rs2 : BitVec 5) (scope : BitVec 3), scope.toNat ≤ 5 →
    let b := (s.rx rs2).toNat % 2 ^ 32
    AmoDoes (.amoaddf rd rs1 rs2 scope) s rd (s.rx rs1) 4 (decide (scope ≠ 0)) (decide (scope = 5))
      (fun o => (Fmt.f32.add 0 o b).1) ∧
    AmoDoes (.amomaxf rd rs1 rs2 scope) s rd (s.rx rs1) 4 (decide (scope ≠ 0)) (decide (scope = 5))
      (fun o => (Fmt.f32.minmax true o b).1))

/-! ## Scalar floating point -/

/-- Table 3-3, R60, R61: each operation writes its result, rounded once by the mode that rm selects, to F[rd], and accrues its
flags at retirement; FS becomes Dirty. -/
def Obligations.FloatArithmeticResults : Prop :=
  ∀ (s : State) (rd rs1 rs2 rs3 : BitVec 5) (rm : BitVec 3) (m : Nat), RoundsBy s rm m → FsOn s →
    let a := (s.f s.cur rs1.toNat).toNat
    let b := (s.f s.cur rs2.toNat).toNat
    let c := (s.f s.cur rs3.toNat).toNat
    let x := s.rx rs1
    let toF : Instr → Nat × FFlags → Prop := fun i r => Answers i s (WritesF s rd (BitVec.ofNat 32 r.1) r.2 s.nextPc)
    toF (.faddS rd rm rs1 rs2) (Fmt.f32.add m a b) ∧ toF (.fsubS rd rm rs1 rs2) (Fmt.f32.sub m a b) ∧
    toF (.fmulS rd rm rs1 rs2) (Fmt.f32.mul m a b) ∧ toF (.fdivS rd rm rs1 rs2) (Fmt.f32.div m a b) ∧
    toF (.fsqrtS rd rm rs1) (Fmt.f32.sqrt m a) ∧
    toF (.fmaddS rd rm rs1 rs2 rs3) (Fmt.f32.fma m false false a b c) ∧
    toF (.fmsubS rd rm rs1 rs2 rs3) (Fmt.f32.fma m false true a b c) ∧
    toF (.fnmsubS rd rm rs1 rs2 rs3) (Fmt.f32.fma m true false a b c) ∧
    toF (.fnmaddS rd rm rs1 rs2 rs3) (Fmt.f32.fma m true true a b c) ∧
    toF (.fcvtSW rd rm rs1) (Fmt.f32.ofInt m false (x.setWidth 32).toInt 0) ∧
    toF (.fcvtSWu rd rm rs1) (Fmt.f32.ofInt m false (x.setWidth 32).toNat 0) ∧
    toF (.fcvtSL rd rm rs1) (Fmt.f32.ofInt m false x.toInt 0) ∧ toF (.fcvtSLu rd rm rs1) (Fmt.f32.ofInt m false x.toNat 0)

/-- Table 3-3, R60: the operations that do not round: sign injection, minimum and maximum, compares, classification, moves, and the
conversions to integer, which saturate. A move or a sign injection leaves a payload unchanged.

R61: while FS is Off every F instruction is illegal, and one that rounds is illegal where rm, or frm under a dynamic rm, is no rounding
mode; each raises the illegal-instruction exception with its word as trap value and has no other effect. That FS stays as it was where an
instruction writes an x register and accrues no flag is the model's reading of R61 (log 53, DEDUCED). -/
def Obligations.FloatMoveCompareAndIllegal : Prop :=
  (∀ (s : State) (rd rs1 rs2 : BitVec 5) (rm : BitVec 3) (m : Nat), FsOn s →
    let a := s.f s.cur rs1.toNat
    let b := s.f s.cur rs2.toNat
    let toF : Instr → Half → FFlags → Prop := fun i v fl => Answers i s (WritesF s rd v fl s.nextPc)
    let toX : Instr → Word → FFlags → Prop := fun i v fl => Answers i s (WritesXF s rd v fl s.nextPc)
    let cvt : Instr → Nat × FFlags → Nat → Prop := fun i r n =>
      toX i (if n = 32 then (BitVec.ofNat 32 r.1).signExtend 64 else BitVec.ofNat 64 r.1) r.2
    let v := Fmt.f32.val a.toNat
    toF (.fsgnjS rd rs1 rs2) (b.extractLsb' 31 1 ++ a.extractLsb' 0 31) 0 ∧
    toF (.fsgnjnS rd rs1 rs2) (~~~(b.extractLsb' 31 1) ++ a.extractLsb' 0 31) 0 ∧
    toF (.fsgnjxS rd rs1 rs2) ((a.extractLsb' 31 1 ^^^ b.extractLsb' 31 1) ++ a.extractLsb' 0 31) 0 ∧
    (let r := Fmt.f32.minmax false a.toNat b.toNat; toF (.fminS rd rs1 rs2) (BitVec.ofNat 32 r.1) r.2) ∧
    (let r := Fmt.f32.minmax true a.toNat b.toNat; toF (.fmaxS rd rs1 rs2) (BitVec.ofNat 32 r.1) r.2) ∧
    toF (.fmvWX rd rs1) ((s.rx rs1).setWidth 32) 0 ∧
    toX (.fmvXW rd rs1) (a.signExtend 64) 0 ∧
    toX (.fclassS rd rs1) (BitVec.ofNat 64 (Fmt.f32.fclass a.toNat)) 0 ∧
    (let r := Fmt.f32.feq a.toNat b.toNat; toX (.feqS rd rs1 rs2) (if r.1 then 1 else 0) r.2) ∧
    (let r := Fmt.f32.flt a.toNat b.toNat; toX (.fltS rd rs1 rs2) (if r.1 then 1 else 0) r.2) ∧
    (let r := Fmt.f32.fle a.toNat b.toNat; toX (.fleS rd rs1 rs2) (if r.1 then 1 else 0) r.2) ∧
    (RoundsBy s rm m → cvt (.fcvtWS rd rm rs1) (v.toIntSat m 32 true) 32 ∧ cvt (.fcvtWuS rd rm rs1) (v.toIntSat m 32 false) 32 ∧
      cvt (.fcvtLS rd rm rs1) (v.toIntSat m 64 true) 64 ∧ cvt (.fcvtLuS rd rm rs1) (v.toIntSat m 64 false) 64)) ∧
  (∀ (s : State) (rd rs1 rs2 rs3 : BitVec 5) (rm : BitVec 3) (imm : BitVec 12) (sf : BitVec 1),
    let rounding : List Instr :=
      [.faddS rd rm rs1 rs2, .fsubS rd rm rs1 rs2, .fmulS rd rm rs1 rs2, .fdivS rd rm rs1 rs2, .fsqrtS rd rm rs1,
       .fmaddS rd rm rs1 rs2 rs3, .fmsubS rd rm rs1 rs2 rs3, .fnmsubS rd rm rs1 rs2 rs3, .fnmaddS rd rm rs1 rs2 rs3,
       .fcvtSW rd rm rs1, .fcvtSWu rd rm rs1, .fcvtSL rd rm rs1, .fcvtSLu rd rm rs1, .fcvtWS rd rm rs1, .fcvtWuS rd rm rs1,
       .fcvtLS rd rm rs1, .fcvtLuS rd rm rs1]
    let plain : List Instr :=
      [.flw rd rs1 imm, .fsw rs1 rs2 imm, .fsgnjS rd rs1 rs2, .fsgnjnS rd rs1 rs2, .fsgnjxS rd rs1 rs2, .fminS rd rs1 rs2,
       .fmaxS rd rs1 rs2, .feqS rd rs1 rs2, .fltS rd rs1 rs2, .fleS rd rs1 rs2, .fclassS rd rs1, .fmvXW rd rs1, .fmvWX rd rs1,
       .flsc rd rs1 sf]
    (¬FsOn s → ∀ i ∈ rounding ++ plain, Answers i s (RaisesIllegal s (encode i))) ∧
    ((¬∃ m, RoundsBy s rm m) → ∀ i ∈ rounding, Answers i s (RaisesIllegal s (encode i))))

/-- R60, R61, R85, IEEE 754-2019, in binary32, binary16 and bf16: what a code stands for; each operation gives the exact result rounded
once by its mode, with subnormals kept, tininess after rounding, infinity or the greatest finite number on overflow as the mode selects,
and the canonical NaN wherever it gives a NaN. A compare or a minimum goes by the values; a conversion to integer rounds to an integer
and saturates, a NaN to the greatest value. The operations named here are those by which the float statements say their results. -/
def Obligations.RoundingIsCorrect : Prop :=
  ∀ f ∈ [Fmt.f16, Fmt.bf16, Fmt.f32], ∀ m a b c : Nat, m < 5 → a < 2 ^ (f.eb + f.mb + 1) → b < 2 ^ (f.eb + f.mb + 1) →
    let A := f.val a
    let B := f.val b
    let C := f.val c
    let nan := A.isNan = true ∨ B.isNan = true
    let isZero : FVal → Prop := fun x => ∃ n e, x = .fin n 0 e
    let finite : FVal → Prop := fun x => ∃ n k e, x = .fin n k e
    let sign : Nat → Bool := fun x => decide (x / 2 ^ (f.eb + f.mb) % 2 = 1)
    let real : FVal → ℝ := fun x => (x.rat : ℝ)
    (FiniteCode f a → finite A ∧ A.rat = (if sign a then -1 else 1) *
      ((a % 2 ^ f.mb + (if a / 2 ^ f.mb % 2 ^ f.eb = 0 then 0 else 2 ^ f.mb) : Nat) : ℚ) *
      2 ^ (((max 1 (a / 2 ^ f.mb % 2 ^ f.eb) : Nat) : Int) - (f.emax - 1) - (f.mb : Int))) ∧
    (¬FiniteCode f a → if a % 2 ^ f.mb = 0 then A = .inf (sign a) else A = .nan (decide (a % 2 ^ f.mb < 2 ^ (f.mb - 1)))) ∧
    SumTo f m A B (f.add m a b) ∧ SumTo f m A (B.flip true) (f.sub m a b) ∧
    ((nan → NanResult f (A.snan || B.snan) (f.mul m a b)) ∧ (ZeroTimesInf A B → NanResult f true (f.mul m a b)) ∧
      (∀ p, ProductIs A B p → (∀ n, p = .inf n → f.mul m a b = (infCode f n, 0)) ∧
        (∀ n k e, p = .fin n k e → (k ≠ 0 → RoundsTo f m (real p) (f.mul m a b)) ∧ (k = 0 → f.mul m a b = (zeroCode f n, 0))))) ∧
    (∀ np nc, (nan → NanResult f (A.snan || B.snan || C.snan) (f.fma m np nc a b c)) ∧
      (ZeroTimesInf A B → NanResult f true (f.fma m np nc a b c)) ∧
      (∀ p, ProductIs A B p → SumTo f m (p.flip np) (C.flip nc) (f.fma m np nc a b c))) ∧
    ((nan → NanResult f (A.snan || B.snan) (f.div m a b)) ∧
      (∀ n k, A = .inf n → B = .inf k → NanResult f true (f.div m a b)) ∧
      (∀ n, A = .inf n → finite B → f.div m a b = (infCode f (n != sign b), 0)) ∧
      (∀ n, finite A → B = .inf n → f.div m a b = (zeroCode f (sign a != n), 0)) ∧
      (isZero A → isZero B → NanResult f true (f.div m a b)) ∧
      (finite A → ¬isZero A → isZero B → f.div m a b = (infCode f (sign a != sign b), 8)) ∧
      (isZero A → finite B → ¬isZero B → f.div m a b = (zeroCode f (sign a != sign b), 0)) ∧
      (finite A → ¬isZero A → finite B → ¬isZero B → RoundsTo f m (real A / real B) (f.div m a b))) ∧
    ((A.isNan = true → NanResult f A.snan (f.sqrt m a)) ∧ (A = .inf false → f.sqrt m a = (infCode f false, 0)) ∧
      (isZero A → f.sqrt m a = (zeroCode f (sign a), 0)) ∧
      (A = .inf true ∨ A.rat < 0 → NanResult f true (f.sqrt m a)) ∧ (0 < A.rat → RoundsTo f m (Real.sqrt (real A)) (f.sqrt m a))) ∧
    (∀ z : Int, (z ≠ 0 → RoundsTo f m (z : ℝ) (f.ofInt m false z 0)) ∧ (z = 0 → f.ofInt m false z 0 = (0, 0))) ∧
    (∀ x : FVal, (x.isNan = true → NanResult f x.snan (f.ofVal m x)) ∧ (∀ n, x = .inf n → f.ofVal m x = (infCode f n, 0)) ∧
      (∀ n k e, x = .fin n k e → (k ≠ 0 → RoundsTo f m (real x) (f.ofVal m x)) ∧ (k = 0 → f.ofVal m x = (zeroCode f n, 0)))) ∧
    ((f.feq a b).2 = (if A.snan || B.snan then 16 else 0) ∧ ((f.feq a b).1 = true ↔ ¬nan ∧ ¬Below A B ∧ ¬Below B A) ∧
      (f.flt a b).2 = (if A.isNan || B.isNan then 16 else 0) ∧ ((f.flt a b).1 = true ↔ ¬nan ∧ Below A B) ∧
      (f.fle a b).2 = (if A.isNan || B.isNan then 16 else 0) ∧ ((f.fle a b).1 = true ↔ ¬nan ∧ ¬Below B A)) ∧
    (∀ mx, let r := f.minmax mx a b
      r.2 = (if A.snan || B.snan then 16 else 0) ∧
      (A.isNan = true → B.isNan = true → r.1 = (2 ^ f.eb - 1) * 2 ^ f.mb + 2 ^ (f.mb - 1)) ∧
      (A.isNan = true → B.isNan = false → r.1 = b) ∧ (A.isNan = false → B.isNan = true → r.1 = a) ∧
      (¬nan → Below A B → r.1 = if mx then b else a) ∧ (¬nan → Below B A → r.1 = if mx then a else b) ∧
      (¬nan → ¬Below A B → ¬Below B A → sign a = true → r.1 = if mx then b else a) ∧
      (¬nan → ¬Below A B → ¬Below B A → sign a = false → r.1 = if mx then a else b)) ∧
    (f.fclass a = 2 ^ (
      match A with
      | .nan s => if s then 8 else 9
      | .inf n => if n then 0 else 7
      | .fin n k _ => if k = 0 then (if n then 3 else 4)
        else if |A.rat| < (2 : ℚ) ^ (2 - f.emax) then (if n then 2 else 5) else if n then 1 else 6)) ∧
    (∀ bits ∈ [8, 16, 32, 64], ∀ sgn : Bool,
      let hi : Int := if sgn then 2 ^ (bits - 1) - 1 else 2 ^ bits - 1
      let lo : Int := if sgn then -(2 ^ (bits - 1)) else 0
      let code : Int → Nat := fun z => (z % 2 ^ bits).toNat
      let r := A.toIntSat m bits sgn
      (A.isNan = true ∨ A = .inf false → r = (code hi, 16)) ∧ (A = .inf true → r = (code lo, 16)) ∧
      (finite A → ∃ z : Int, Picks (fun y => ∃ i : Int, y = i) (fun y => ∃ i : Int, y = 2 * i) m (real A) (z : ℝ) ∧
        r = (if hi < z then (code hi, 16) else if z < lo then (code lo, 16) else (code z, if (z : ℚ) = A.rat then 0 else 1))))

/-! ## CSRs, returns, waits, base fences -/

/-- Table 3-4, R63: each CSR instruction, on a CSR that the hart may access, answers a next state: X[rd] gets the old value; csrrw and
csrrwi write the operand, csrrs and csrrsi set its bits, csrrc and csrrci clear them, and these four write nothing where rs1 is x0 or u5
is 0. What a CSR reads after the write is Table 13-2's, R61's and R142's, and, for the privileged CSRs (mstatus, mtvec, medeleg, mideleg,
mie, mip, mepc, mcause, mtval, satp and their S-mode fellows), the model's log 3 (PRESUMED), which gives their masks.

R63, R310: a CSR instruction that addresses a CSR the part does not implement, or that the mode may not reach, or that would write a
read-only CSR, raises an illegal-instruction exception. That TVM traps satp in S-mode is log 3 (PRESUMED).

R62, R63, R100, R310: mhartid reads the hart identifier; misa, mvendorid, marchid, mconfigptr and the protection entries read their fixed
values, instret the count of retired instructions, time and chron the chronometer, and vl, vetype, vgrant and vstart the vector state:
vstart the index recorded for the oldest instruction of a held resume state, else 0, but after a vrestore that of its oldest instruction
while that is queued (R319, log 26). No CSR exists but those of Tables 13-1 and 13-2. -/
def Obligations.CsrResults : Prop :=
  (∀ (s : State) (rd rs1 : BitVec 5) (csr : BitVec 12) (old : Word), s.csrValue s.cur csr.toNat = some old →
    let n := csr.toNat
    let a := s.rx rs1
    let u : Word := rs1.setWidth 64
    let wr : Instr → Word → Prop := fun i v =>
      CsrReachable s n true → Answers i s (fun t => CsrDone s rd n old t ∧ CsrHolds s n v t)
    let rdOnly : Instr → Prop := fun i => CsrReachable s n false → Answers i s (WritesX s rd old s.nextPc)
    wr (.csrrw rd rs1 csr) a ∧ wr (.csrrwi rd rs1 csr) u ∧
    (rs1 ≠ 0 → wr (.csrrs rd rs1 csr) (old ||| a) ∧ wr (.csrrc rd rs1 csr) (old &&& ~~~a) ∧
      wr (.csrrsi rd rs1 csr) (old ||| u) ∧ wr (.csrrci rd rs1 csr) (old &&& ~~~u)) ∧
    (rs1 = 0 → rdOnly (.csrrs rd rs1 csr) ∧ rdOnly (.csrrc rd rs1 csr) ∧ rdOnly (.csrrsi rd rs1 csr) ∧
      rdOnly (.csrrci rd rs1 csr))) ∧
  (∀ (s : State) (rd rs1 : BitVec 5) (csr : BitVec 12),
    let writes : List Instr := [.csrrw rd rs1 csr, .csrrwi rd rs1 csr]
    let maybe : List Instr := [.csrrs rd rs1 csr, .csrrc rd rs1 csr, .csrrsi rd rs1 csr, .csrrci rd rs1 csr]
    (¬CsrReachable s csr.toNat true → ∀ i ∈ writes, Answers i s (RaisesIllegal s (encode i))) ∧
    (¬CsrReachable s csr.toNat (decide (rs1 ≠ 0)) → ∀ i ∈ maybe, Answers i s (RaisesIllegal s (encode i)))) ∧
  (∀ (s : State) (h : Nat), let t := s.hart h
    let v := t.vec
    (∀ n, (s.csrValue h n).isSome = true ↔ n ∈ csrNumbers h) ∧
    s.csrValue h 0xF14 = some (BitVec.ofNat 64 h) ∧ s.csrValue h 0x301 = some 0x8000000000941121 ∧
    s.csrValue h 0xF11 = some 0 ∧ s.csrValue h 0xF12 = some 0x204 ∧ s.csrValue h 0xF15 = some 0 ∧
    (∀ i, i < 8 → s.csrValue h (0x3A0 + 2 * i) = some 0) ∧ (∀ i, i < 64 → s.csrValue h (0x3B0 + i) = some 0) ∧
    s.csrValue h 0xC01 = some (BitVec.ofNat 64 s.dev.chron) ∧ s.csrValue h 0xCC4 = some (BitVec.ofNat 64 s.dev.chron) ∧
    s.csrValue h 0xC02 = some t.instret ∧ s.csrValue h 0x300 = some t.csr.mstatus ∧
    s.csrValue h 0x5C0 = some (if t.csr.he then 1 else 0) ∧ s.csrValue h 0x100 = some (t.csr.mstatus &&& 0x80000003000DE122) ∧
    (∀ o, s.csrValue h 0x304 = some o → s.csrValue h 0x104 = some (o &&& t.csr.mideleg)) ∧
    (∀ o, s.csrValue h 0x344 = some o → s.csrValue h 0x144 = some (o &&& t.csr.mideleg)) ∧
    (h < 2048 → s.csrValue h 0xCC0 = some (BitVec.ofNat 64 v.vl) ∧ s.csrValue h 0xCC1 = some (v.vetype.setWidth 64) ∧
      s.csrValue h 0xCC3 = some (BitVec.ofNat 64 v.vgrant) ∧ s.csrValue h 0x800 = some t.csr.upvec ∧
      (∀ r l, v.resume = r :: l → s.csrValue h 0xCC2 = some (BitVec.ofNat 64 r.index)) ∧
      (v.resume = [] → v.restored = none → s.csrValue h 0xCC2 = some 0) ∧
      (∀ q i, v.resume = [] → v.restored = some (q, i) →
        ((∃ e ∈ v.queue, e.seq = q) → s.csrValue h 0xCC2 = some (BitVec.ofNat 64 i)) ∧
        ((∀ e ∈ v.queue, e.seq ≠ q) → s.csrValue h 0xCC2 = some 0))))

/-- R63: wfi goes on at once where an interrupt is pending for the hart, whether or not enabled, and otherwise stops its issue; it is
illegal in U-mode, and in S-mode while TW is set. sfence.vma removes from the issuing core's translation buffer and walk cache the
entries that match its operands, and no others, once the hart's stores have performed; it is illegal in U-mode, and in S-mode while TVM
is set (TVM: log 3, PRESUMED).

R58, R59: a fence has an effect only where the scalar accesses of its predecessor set are done, or its successor set is empty; fm, rs1
and rd are ignored, and fence.tso is a FENCE rw,rw. pause stops the hart's issue for 32 cy and has no other effect. fence.i acts once
the store buffer is drained. That a fence stays at its pc till then, and that fence.i empties the hart's fetch buffer and its core's
whole instruction cache, is log 50 (DEDUCED).

R261 to R266: fence.sv retires and marks its place, behind which vector accesses, array commands and copies wait; fence.vs goes on
once the older vector accesses and array commands are done and else holds the strand; fence.vv enters the VLQ and the VSQ; on a management
hart each acts as a FENCE rw,rw; a reserved scope is illegal. -/
def Obligations.WaitAndFenceResults : Prop :=
  (∀ (s : State) (rs1 rs2 : BitVec 5), let h := s.hart s.cur
    let may : Nat → Prop := fun b => h.mode = .m ∨ (h.mode = .s ∧ h.csr.mstatus.getLsbD b = false)
    (may 21 → s.mip s.cur ≠ 0 → Answers .wfi s (Retires s s.nextPc)) ∧
    (may 21 → s.mip s.cur = 0 → Answers .wfi s (fun t => t.hart s.cur = { h with wait := .wfi } ∧ OnlyHart s t s.cur)) ∧
    (¬may 21 → Answers .wfi s (RaisesIllegal s (encode .wfi))) ∧
    (may 20 → h.stores = [] →
      Answers (.sfenceVma rs1 rs2) s (fun t =>
        t.hart s.cur = h.retired s.nextPc ∧ (∀ k, k ≠ s.cur → t.hart k = s.hart k) ∧ SameMem s t ∧
        (∀ c, c ≠ bufCore s.cur → t.core c = s.core c) ∧
        (let a := s.core (bufCore s.cur)
          let b := t.core (bufCore s.cur)
          let sel := fun {α : Type} (p : Bool → Bool → Nat → Nat → α → Prop) =>
            p (decide (rs1 = 0)) (decide (rs2 = 0)) (s.rx rs1).toNat ((s.rx rs2).toNat % 2 ^ 16)
          b = { a with tlb := b.tlb, walks := b.walks, walking := [] } ∧ (∀ e, e ∈ b.tlb ↔ e ∈ a.tlb ∧ ¬sel FencedEntry e) ∧
          ∀ w, w.level ≤ 5 → (w ∈ b.walks ↔ w ∈ a.walks ∧ ¬sel FencedWalk w)))) ∧
    (may 20 → h.stores ≠ [] → Answers (.sfenceVma rs1 rs2) s (fun t => t = s)) ∧
    (¬may 20 → Answers (.sfenceVma rs1 rs2) s (RaisesIllegal s (encode (.sfenceVma rs1 rs2))))) ∧
  (∀ (s : State) (rd rs1 : BitVec 5) (succ pred fm : BitVec 4) (imm : BitVec 12), let h := s.hart s.cur
    let reads := h.loads = [] ∧ ∀ x ∈ h.remotes, x.load = none
    let quiet : BitVec 4 → Prop := fun p =>
      ((p.getLsbD 1 = true ∨ p.getLsbD 3 = true) → reads) ∧
        ((p.getLsbD 0 = true ∨ p.getLsbD 2 = true) → h.stores = [] ∧ QueriesTaken s s.cur h.pos)
    (succ = 0 ∨ quiet pred → Answers (.fence rd rs1 succ pred fm) s (Retires s s.nextPc)) ∧
    (succ ≠ 0 → ¬quiet pred → Answers (.fence rd rs1 succ pred fm) s (fun t => t = s)) ∧
    (quiet 3 → Answers (.fenceTso rd rs1) s (Retires s s.nextPc)) ∧
    (¬quiet 3 → Answers (.fenceTso rd rs1) s (fun t => t = s)) ∧
    Answers .pause s (fun t => t.hart s.cur = { h with wait := .pause (s.dev.cy + 32) } ∧ OnlyHart s t s.cur) ∧
    (h.stores = [] → Answers (.fenceI rd rs1 imm) s (fun t =>
      t.hart s.cur = { h.retired s.nextPc with fetchBuf := [] } ∧ (∀ k, k ≠ s.cur → t.hart k = s.hart k) ∧ SameMem s t ∧
      t.core (bufCore s.cur) = { s.core (bufCore s.cur) with icache := [] } ∧
      ∀ c, c ≠ bufCore s.cur → t.core c = s.core c)) ∧
    (h.stores ≠ [] → Answers (.fenceI rd rs1 imm) s (fun t => t = s))) ∧
  (∀ (s : State) (scope : BitVec 3), let h := s.hart s.cur
    let sys := decide (scope = 5)
    let quiet := h.loads = [] ∧ h.stores = [] ∧ QueriesTaken s s.cur h.pos ∧ (∀ x ∈ h.remotes, x.load = none) ∧ (sys = true → h.remotes = [])
    (scope.toNat < 6 → s.cur < 2048 →
      Answers (.fenceSv scope) s (fun t =>
        t.hart s.cur = { h.retired s.nextPc with vec := { h.vec with svMarks := (t.hart s.cur).vec.svMarks } } ∧
        (∀ m ∈ (t.hart s.cur).vec.svMarks, m ∈ h.vec.svMarks ∨ m = (h.pos, sys)) ∧
        ((∃ l ∈ h.loads, l.pos < h.pos) ∨ (∃ x ∈ h.stores, x.pos < h.pos) ∨ ¬QueriesTaken s s.cur h.pos → (h.pos, sys) ∈ (t.hart s.cur).vec.svMarks) ∧
        OnlyHart s t s.cur) ∧
      (s.vsReady s.cur sys = true → Answers (.fenceVs scope) s (Retires s s.nextPc)) ∧
      (s.vsReady s.cur sys = false → Answers (.fenceVs scope) s (Waits s (.fenceVs sys))) ∧
      (HasRoom s .vlq → HasRoom s .vsq →
        Answers (.fenceVv scope) s (Entered s .vlq (.fence sys) (encode (.fenceVv scope)) {})) ∧
      (¬(HasRoom s .vlq ∧ HasRoom s .vsq) → Answers (.fenceVv scope) s (fun t => t = s))) ∧
    (scope.toNat < 6 → 2048 ≤ s.cur → ∀ i ∈ [Instr.fenceSv scope, .fenceVs scope, .fenceVv scope],
      (quiet → Answers i s (Retires s s.nextPc)) ∧ (¬quiet → Answers i s (fun t => t = s))) ∧
    (6 ≤ scope.toNat → ∀ i ∈ [Instr.fenceSv scope, .fenceVs scope, .fenceVv scope], Answers i s (RaisesIllegal s (encode i))))

/-! ## Decoding and the step -/

/-- R28, R29, R38 to R41: the word of every well-formed instruction decodes to that instruction, every operand at every value that its
encoding admits.

R28: decoding invents nothing: a word that decodes is the word of the instruction it decodes to, and that instruction is
well-formed. -/
def Obligations.DecodeAndEncode : Prop :=
  (∀ i : Instr, i.wellFormed = true → decode (encode i) = some i) ∧
  (∀ (w : BitVec 32) (i : Instr), decode w = some i → encode i = w ∧ i.wellFormed = true)

/-- Words written out from the encoding tables decode to the instructions they stand for, and words that the tables reserve to none. -/
def Obligations.DecodedWords : Prop :=
  decode 0x00A50533#32 = some (.add 10 10 10) ∧ decode 0xFFF00513#32 = some (.addi 10 0 0xFFF) ∧
  decode 0x00053583#32 = some (.ld 11 10 0) ∧ decode 0x001121AB#32 = some (.vadd 3 2 2 1 0) ∧
  decode 0x1025125B#32 = some (.vldx 4 1 10 2 0) ∧ decode 0x0CD61F7B#32 = some (.mmacE4e4 2 12 13 7) ∧
  decode 0x00C5B50B#32 = some (.qpush 10 11 12) ∧ decode 0x1600C00B#32 = none ∧
  decode 0x8CD61F7B#32 = none ∧ decode 0#32 = none

/-- R26, R28, R66: where the current hart is at a boundary with no notice, interrupt or other work before it, and the word at its pc
decodes to an instruction whose registers are ready, the step is that instruction's meaning at that state (with the A bit of the page it
was fetched from set, R131), after which the strands that yielded on its core count its issue where it has issued (R239, log 44). The
agenda, here empty, the current hart, and the one cy that a step passes are the model's own (logs 1 and 6, DESIGN CHOICE). -/
def Obligations.StepRunsDecoded : Prop :=
  ∀ (s : State) (x : Hit) (i : Instr), let h := s.cur
    s.agenda = [] → s.runnable h = true → s.notice h = none → s.takes h = none → s.work h = none →
    (s.hart h).wait = .none → (s.hart h).arr.back = false → s.loweredNow h = false → s.fetchAt h = .ok x →
    decode (s.fetchWord h x.pa) = some i → ((s.setAD x).hart h).ready i = true →
    let o := exec i (s.setAD x)
    step s = andThen o (fun t => ({ t.issued h ((s.setAD x).issues h o) with cur := h } : State).tick)

/-- R28, R59: where that word is no instruction, the step raises an illegal-instruction exception with the word as trap value; where it
cannot be fetched, the fetch exception is taken with the pc as trap value: misaligned (0: at an upepc that is no multiple of 4 the model's
choice, log 68), access fault (1) or page fault (12); a translation that the fetch found stale is discarded (R131); behind two walks of
its core the fetch waits (R133). The yields of its core no longer wait for a hart that has issued (R239).

The agenda says what acts next: a turn of a hart, which then is the machine's current one for that turn alone, with the work around it
going first, or an issue of its next instruction while that work stands (R66); an event of the table; a passing of time. Log 1: the
agenda is the model's own way to write down the interleaving that the spec leaves open; log 6: so are its cy. -/
def Obligations.StepOtherwise : Prop :=
  (∀ (s : State), let h := s.cur
    s.agenda = [] → s.runnable h = true → s.notice h = none → s.takes h = none → s.work h = none →
    (s.hart h).wait = .none → (s.hart h).arr.back = false → s.loweredNow h = false →
    (∀ x, s.fetchAt h = .ok x → decode (s.fetchWord h x.pa) = none →
      ∃ u v, RaisesIllegal (s.setAD x) (s.fetchWord h x.pa) u ∧ Struck u h v ∧ step s = .next ({ v with cur := h } : State).tick) ∧
    (∀ c, c < 64 → s.fetchAt h = .stop (.exc c) →
      ∃ v u w, StaleDropped s v h ∧ Raises v c (s.hart h).pc u ∧ Struck u h w ∧ step s = .next ({ w with cur := h } : State).tick) ∧
    (s.fetchAt h = .stop .busy → step s = .next s.tick) ∧
    ((s.hart h).pc.toNat % 4 ≠ 0 → s.fetchAt h = .stop (.exc 0))) ∧
  (∀ (s : State) (r : List Turn), let u : State := { s with agenda := r }
    (∀ h, s.agenda = .hart h :: r → step s = u.turn h true) ∧ (∀ h, s.agenda = .issue h :: r → step s = u.turn h false) ∧
    (∀ h, s.agenda = .hart h :: r ∨ s.agenda = .issue h :: r → ∀ t, step s = .next t → t.cur = s.cur) ∧
    (∀ h, s.agenda = .issue h :: r → u.runnable h = true → u.notice h = none → u.takes h = none → (u.hart h).wait = .none →
      (u.hart h).arr.back = false → u.loweredNow h = false → ∀ x i, u.fetchAt h = .ok x → decode (u.fetchWord h x.pa) = some i → (u.hart h).ready i = true →
      let v : State := { u.setAD x with cur := h }
      step s = andThen (exec i v) (fun t => { t.issued h (v.issues h (exec i v)) with cur := s.cur })) ∧
    (∀ i, s.agenda = .event i :: r → i.isEvent = true → step s = exec i u) ∧
    (∀ n ns, s.agenda = .elapse n ns :: r → ∃ t, step s = .next t ∧ t.dev.cy = s.dev.cy + n ∧ t.harts = s.harts ∧ t.mem = s.mem))

/-- Every step keeps memory in its canonical form: addresses strictly rising, and none listed that reads as what an unlisted one
does. So equal memories are equal data. -/
def Obligations.StepKeepsMemoryCanonical : Prop := ∀ s t : State, s.Safe → step s = .next t → t.Safe

/-- Reset memory is canonical, and two canonical memories that read alike at every address are the same list. -/
def Obligations.CanonicalMemory : Prop :=
  State.reset.Safe ∧ ∀ s t : State, s.Safe → t.Safe → (∀ a, s.byte a = t.byte a) → s.mem = t.mem

/-- What the spec gives a part just reset: every way is cache (R122), links stand at the even split (R9), no array is bound and no
TSAVE entry is valid (R179, R184), no context is resident. And what the model chooses where the spec gives nothing: that no hart runs
before POWER_GOOD (log 33, DEDUCED); that every x, f and v register reads 0 (log 2, DESIGN CHOICE); and that a byte which nothing has
written reads 0 (log 4, DESIGN CHOICE). -/
def Obligations.ResetValues : Prop :=
  let s := State.reset
  (∀ c w, s.wayRole c w = 0) ∧ (∀ l, (s.link l).out = if l < 4 then 16 else 8) ∧
  (∀ c, (s.cluster c).arrbind = 0 ∧ (s.cluster c).tsave = []) ∧ (∀ c, bit (s.ctx c).ctl 0 = false) ∧
  (∀ h, s.runnable h = false ∧ s.takes h = none) ∧
  (∀ h n, s.x h n = 0 ∧ s.f h n = 0 ∧ ((s.hart h).vec.reg n).bits = 0) ∧ (∀ a, s.byte a = 0)

/-- R56, R127: an access that leaves its 32-byte granule, or an atomic not naturally aligned, is misaligned; in M-mode and, under Bare, in
S-mode an address is physical. R18, R19, in U-mode, and in S-mode where Sv57 is on and SUM is set: the scratch and vault windows lead to
the own core's scratchpad and the own cluster's vault; the span window (R136) through the VST entry of the strand's own context, aligned
to its size; a ring window (R206, R211) to the stage its offset names, relative to R, where that is admitted, and else RING_BOUND, also
beyond the ring's extent and in an unset ring's window (log 17); without SUM, outside every window of the block, and for a fetch: a page
fault.

R128 to R131, R133, Table 6-3: where no translation is cached, Sv57 gives what the entry that its walk ends at says: absent, a page fault, an
access fault, or the leaf's page, with the translation and the entries of levels 4 to 2 on the way to install; a third walk of a core
waits. An entry read at level 0 that is no leaf is a page fault by the model's choice (log 65).

R14 to R16, R56, R59, R329: what the region then says: unbacked addresses, fetches from where none is permitted, registers at another
width, and unbound remote windows make an access fault of the type. A read that meets an uncorrectable error makes one too (R336). -/
def Obligations.AddressResolution : Prop :=
  (∀ (s : State) (va : Word) (n : Nat) (a : Acc'), let h := s.cur
    let t := s.hart h
    let md := t.effMode a
    let strict := a = .atomic ∨ a = .reserve
    let fits := if strict then va.toNat % n = 0 else va.toNat % 32 + n ≤ 32
    let phys : Nat → Hit := fun pa => { pa := pa, pbmt := 0, code := 0, ad := none, stage := none }
    let sv57 := fld t.csr.satp 60 4 = 10
    let walls := md = .u ∨ (md = .s ∧ sv57)
    let enters := walls ∧ (md = .u ∨ t.csr.mstatus.getLsbD 18 = true) ∧ a ≠ .fetch
    let goes : Hit → Prop := fun x => s.access h va n a = s.target x n a
    let pf := s.access h va n a = .stop (.exc a.pageFault)
    (¬fits → s.access h va n a = .stop (.exc a.misaligned)) ∧
    (fits → md = .m ∨ (md = .s ∧ ¬sv57) → goes (phys va.toNat)) ∧
    (fits → h < 2048 → enters → ∀ off,
      (winOf va.toNat = .scratch off → goes (phys (scratchBase (coreOf h) + off))) ∧
      (winOf va.toNat = .vault off → goes (phys (vaultBase (clOf h) + off)))) ∧
    (fits → enters → ∀ g off, winOf va.toNat = .span g off →
      (va.toNat % n ≠ 0 → s.access h va n a = .stop (.exc a.misaligned)) ∧
      (va.toNat % n = 0 → ∀ c, s.ctxOf h = some c →
        let e := s.vstEntry (if 2048 ≤ h then 0 else coreOf h) c g
        (e.getLsbD 18 = false → s.access h va n a = .stop (if md = .u then .absent true else .exc a.pageFault)) ∧
        (e.getLsbD 18 = true → (a = .store ∨ a = .atomic) → e.getLsbD 19 = false → s.access h va n a = .stop (.exc 15)) ∧
        (e.getLsbD 18 = true → (a = .store ∨ a = .atomic → e.getLsbD 19 = true) →
          goes { phys (fld e 0 18 * 2 ^ 21 + off) with code := fld e 21 7 }))) ∧
    (fits → enters → ∀ w off, winOf va.toNat = .ring w off →
      let admits : RingSlot → Ring → Prop := fun rs r => t.stg.rings.find w = some rs ∧ s.ring (clOf h) rs.ring = some r ∧
        r.formed = true ∧ off + n ≤ r.n * r.z ∧ r.r + off / r.z ∈ t.stg.acquired rs t.pos ∧
        r.r + (off + n - 1) / r.z ∈ t.stg.acquired rs t.pos ∧ ¬((a = .store ∨ a = .atomic) ∧ rs.consumer = true)
      (∀ rs r, admits rs r → goes { phys (r.basePa + (r.r + off / r.z) % r.n * r.z + off % r.z) with
        stage := some (r.id, r.r + off / r.z) }) ∧
      ((¬∃ rs r, admits rs r) → s.access h va n a = .stop (.exc 25))) ∧
    (fits → walls → winOf va.toNat ≠ .none →
      winOf va.toNat = .hole ∨ a = .fetch ∨ (md = .s ∧ t.csr.mstatus.getLsbD 18 = false) → pf)) ∧
  (∀ (s : State) (va : Word) (n : Nat) (a : Acc'), let h := s.cur
    let c := (s.hart h).csr
    let md := (s.hart h).effMode a
    let ends : XRes → Prop := fun r => s.access h va n a = r
    (if a = .atomic ∨ a = .reserve then va.toNat % n = 0 else va.toNat % 32 + n ≤ 32) → md ≠ .m → fld c.satp 60 4 = 10 →
    winOf va.toNat = .none →
    (va.toNat / 2 ^ 56 ≠ 0 → va.toNat / 2 ^ 56 ≠ 255 → ends (.stop (.exc a.pageFault))) ∧
    (va.toNat / 2 ^ 56 = 0 ∨ va.toNat / 2 ^ 56 = 255 → s.tlbHit h va.toNat = none → s.walkEntry h va.toNat = none →
      let walks := (s.core (coreOf h)).walking.length
      (h < 2048 → 2 ≤ walks → ends (.stop .busy)) ∧
      ∀ l p e, 2048 ≤ h ∨ walks < 2 → s.WalkReads va.toNat l p e 4 (fld c.satp 0 44 * 4096) →
        let valid := e.getLsbD 0 = true
        (¬s.TableAt p → ends (.stop (.exc a.accessFault))) ∧
        (s.TableAt p →
          (¬valid → ends (.stop (if fld e 8 2 = 1 ∧ md = .u ∧ a ≠ .fetch then .absent false else .exc a.pageFault))) ∧
          (valid → BadEntry c l e → ends (.stop (.exc a.pageFault))) ∧
          (valid → ¬BadEntry c l e → fld e 46 8 ≠ 0 → ends (.stop (.exc a.accessFault))) ∧
          (Pointer e → l = 0 → ends (.stop (.exc a.pageFault))) ∧
          (valid → ¬BadEntry c l e → fld e 46 8 = 0 → LeafEntry e →
            (¬LeafPermits c md a e → ends (.stop (.exc a.pageFault))) ∧
            (LeafPermits c md a e → ∃ x, LeafGives va.toNat l p a e x ∧ s.WalkFills h va.toNat l p e x ∧ ends (s.target x n a)))))) ∧
  (∀ (s : State) (x : Hit) (n : Nat) (a : Acc'),
    let fault := s.target x n a = .stop (.exc a.accessFault)
    let passes := s.target x n a = .ok x
    let up := x.pa < 2 ^ 48 ∧ s.backing x.pa = .ok ∧ (a = .store ∨ s.poisoned x.pa n = false)
    (2 ^ 48 ≤ x.pa ∨ s.backing x.pa = .unbacked → fault) ∧
    (x.pa < 2 ^ 48 → s.backing x.pa = .offline → s.target x n a = .stop (.offline a.accessFault)) ∧
    (x.pa < 2 ^ 48 → s.backing x.pa = .ok → a ≠ .store → s.poisoned x.pa n = true → fault) ∧
    (up → regionOf x.pa = .dram → if s.homeOk x.code then passes else fault) ∧
    (up → ∀ c o, regionOf x.pa = .scratch c o → if a = .fetch then fault else passes) ∧
    (up → ∀ c w, regionOf x.pa = .vault c w → if a = .fetch ∧ x.mapped = false then fault else passes) ∧
    (up → ∀ o, regionOf x.pa = .reg o → if (a = .load ∨ a = .store) ∧ (n = 4 ∨ n = 8) ∧ x.pa % n = 0 then passes else fault) ∧
    (up → ∀ w o, regionOf x.pa = .remote w o →
      (a = .fetch → fault) ∧ (a = .atomic ∨ a = .reserve → s.target x n a = .stop (.exc 7)) ∧
      (a = .load ∨ a = .store → if (s.remoteQp w).isSome then passes else fault)) ∧
    (regionOf x.pa = .nothing → fault) ∧
    (∀ c w, regionOf x.pa = .vault c w → s.dieUp (dieOfCore c) = true → s.wayVault c w = false → fault))

/-! ## Vector configuration, loops, leeway registers -/

/-- R70: vsetlen grants the least of the request, VLMAX of the type and what vgrant covers, makes it vl, sets vetype and writes it to
X[xd]. R68, R69: vcfg writes the old configuration to X[xd]; where n stays it changes S alone; where n changes it waits for the
queues to be empty and then zeroes the v registers and vl, and nothing else. A type code 7 or above 11, an n code 3, a reserved bit,
and a change of n while a resume state is held are illegal. -/
def Obligations.VectorConfigResults : Prop :=
  ∀ (s : State) (rd rs1 : BitVec 5) (ty : BitVec 4), s.cur < 2048 →
    let h := s.hart s.cur
    let v := h.vec
    let w := s.rx rs1
    let old : Word := BitVec.ofNat 64 (v.ncode + 16 * v.slip)
    let defined := ty.toNat ≠ 7 ∧ ty.toNat < 12
    let vl := min w.toNat (min (min 8192 (65536 / 2 ^ v.ncode / ebits ty)) (v.vgrant * 2048 / ebits ty))
    let n := fld w 0 2
    let okw := n < 3 ∧ fld w 2 2 = 0 ∧ fld w 8 56 = 0
    let becomes : Instr → Word → Vec → Prop := fun i x v' => Answers i s (fun t =>
      XHolds s rd x t ∧ t.hart s.cur = { h.retired s.nextPc with x := (t.hart s.cur).x, vec := v' } ∧ OnlyHart s t s.cur)
    (defined → becomes (.vsetlen rd rs1 ty) (BitVec.ofNat 64 vl) { v with vl := vl, vetype := ty }) ∧
    (¬defined → Answers (.vsetlen rd rs1 ty) s (RaisesIllegal s (encode (.vsetlen rd rs1 ty)))) ∧
    (okw → n = v.ncode → becomes (.vcfg rd rs1) old { v with slip := fld w 4 4 }) ∧
    (okw → n ≠ v.ncode → v.resume = [] → v.queue = [] →
      becomes (.vcfg rd rs1) old { v with ncode := n, slip := fld w 4 4, vl := 0, v := [] }) ∧
    (okw → n ≠ v.ncode → v.resume = [] → v.queue ≠ [] → Answers (.vcfg rd rs1) s (fun t =>
      t.hart s.cur = { h with wait := .vcfg rd.toNat n (fld w 4 4) } ∧ OnlyHart s t s.cur)) ∧
    (¬okw ∨ (n ≠ v.ncode ∧ v.resume ≠ []) → Answers (.vcfg rd rs1) s (RaisesIllegal s (encode (.vcfg rd rs1)))) ∧
    encode (.vcfg rd rs1) = 0x0200100B#32 ||| rs1.setWidth 32 <<< 15 ||| rd.setWidth 32 <<< 7 ∧
    encode (.vsetlen rd rs1 ty) = 0x0400100B#32 ||| ty.setWidth 32 <<< 20 ||| rs1.setWidth 32 <<< 15 ||| rd.setWidth 32 <<< 7

/-- R73: vloopcfg loads a slot with four entries and clears its previous count and miss count; two used entries that name one register
make it illegal. No other slot and nothing else changes.

R74, R75: vloop takes VL from X[xc] and adds VL times its scale to each address register; it goes back while the new count is
above 0 (signed) and keeps it as P; a count that twice in a row is not below the one before raises LOOP_STALL (24) with slot and VL as
trap value, M staying 2 and nothing else taking effect; xc = x0, or xc among the address registers, is illegal. -/
def Obligations.LoopResults : Prop :=
  (∀ (s : State) (slot : BitVec 2) (rs1 : BitVec 5), s.cur < 2048 →
    let h := s.hart s.cur
    let reg : Nat → Nat := fun j => fld (s.rx rs1) (16 * j) 5
    let clash := ∃ i j, i < j ∧ j < 4 ∧ reg i = reg j ∧ reg i ≠ 0
    (¬clash → Answers (.vloopcfg slot rs1) s (fun t =>
      (∀ k, (t.hart s.cur).vec.loops.get LoopSlot.empty k =
        if k = slot.toNat then { cfg := s.rx rs1, prev := none, miss := 0, creg := none } else h.vec.loops.get LoopSlot.empty k) ∧
      t.hart s.cur = { h.retired s.nextPc with vec := { h.vec with loops := (t.hart s.cur).vec.loops } } ∧ OnlyHart s t s.cur)) ∧
    (clash → Answers (.vloopcfg slot rs1) s (RaisesIllegal s (encode (.vloopcfg slot rs1)))) ∧
    encode (.vloopcfg slot rs1) = 0x0000100B#32 ||| rs1.setWidth 32 <<< 15 ||| slot.setWidth 32 <<< 7) ∧
  (∀ (s : State) (xc : BitVec 5) (slot : BitVec 2) (off : BitVec 12), s.cur < 2048 →
    let h := s.hart s.cur
    let v := h.vec
    let i : Instr := .vloop xc slot off
    let l := v.loops.get LoopSlot.empty slot.toNat
    let reg : Nat → Nat := fun j => fld l.cfg (16 * j) 5
    let inc : Nat → Nat → Word := fun n j => if reg j = n then (l.cfg.extractLsb' (16 * j + 5) 11).signExtend 64 else 0
    let legal := xc ≠ 0 ∧ ∀ j, j < 4 → reg j ≠ xc.toNat
    let vl : Word := BitVec.ofNat 64 v.vl
    let new := s.rx xc - vl
    let goes := 0 < new.toInt
    let m' := if (l.prev.getD (s.rx xc)).toInt ≤ new.toInt then l.miss + 1 else 0
    let target := h.pc + (off ++ 0#1).signExtend 64
    let slots : State → LoopSlot → Prop := fun t l' =>
      ∀ k, (t.hart s.cur).vec.loops.get LoopSlot.empty k = if k = slot.toNat then l' else v.loops.get LoopSlot.empty k
    let done : Word → LoopSlot → State → Prop := fun pc l' t =>
      (∀ n, t.x s.cur n = if n = xc.toNat then new else if n = 0 then 0 else
        s.x s.cur n + vl * (inc n 0 + inc n 1 + inc n 2 + inc n 3)) ∧
      slots t l' ∧
      t.hart s.cur = { h.retired pc with
        x := (t.hart s.cur).x, vec := { v with loops := (t.hart s.cur).vec.loops } } ∧ OnlyHart s t s.cur
    (¬legal → Answers i s (RaisesIllegal s (encode i))) ∧
    (legal → goes → m' < 2 → TargetOk target → Answers i s (done target { l with prev := some new, miss := m', creg := some xc.toNat })) ∧
    (legal → goes → m' < 2 → ¬TargetOk target → Answers i s (Raises s 0 target)) ∧
    (legal → goes → 2 ≤ m' → Answers i s (fun t => ∃ u,
      slots u { l with miss := 2 } ∧ u.hart s.cur = { h with vec := { v with loops := (u.hart s.cur).vec.loops } } ∧
      OnlyHart s u s.cur ∧ Raises u 24 (BitVec.ofNat 64 (slot.toNat + v.vl * 2 ^ 16)) t)) ∧
    (legal → ¬goes → Answers i s (done s.nextPc { l with prev := none, miss := 0, creg := some xc.toNat })) ∧
    (encode i).extractLsb' 0 7 = 0x0B ∧ (encode i).extractLsb' 12 3 = 0)

/-- R165 to R170: lycfg sets C, p and NS of a leeway register and zeroes its residues, lyclr only zeroes them; both wait for every older
instruction that names the register. flsc puts the value of an e8m0 or e8m4 scale code into F[fd] exactly; a code that stands for
2^128 or more gives +infinity and a NaN code the canonical NaN. -/
def Obligations.LeewayAndScaleResults : Prop :=
  ∀ (s : State) (ly : BitVec 2) (rd rs1 : BitVec 5) (sf : BitVec 1), s.cur < 2048 →
    let h := s.hart s.cur
    let v := h.vec
    let w := s.rx rs1
    let k := ly.toNat
    let free := (∀ e ∈ v.queue, e.op.names k = false) ∧ ∀ a ∈ s.acmds s.cur, a.op.ly ≠ some k
    let okw := 1 ≤ fld w 0 9 ∧ fld w 0 9 ≤ 256 ∧ fld w 16 8 < fld w 0 9 ∧ fld w 9 7 = 0 ∧ fld w 24 7 = 0 ∧ fld w 32 32 = 0
    let becomes : Instr → Leeway → Prop := fun i l => Answers i s (fun t =>
      (∀ j, (t.hart s.cur).vec.ly.get Leeway.start j = if j = k then l else v.ly.get Leeway.start j) ∧
      t.hart s.cur = { h.retired s.nextPc with vec := { v with ly := (t.hart s.cur).vec.ly } } ∧ OnlyHart s t s.cur)
    let waits : Instr → Wait → Prop := fun i x => Answers i s (fun t => t.hart s.cur = { h with wait := x } ∧ OnlyHart s t s.cur)
    (okw → free → becomes (.lycfg ly rs1) { res := [], c := fld w 0 9, p := fld w 16 8, ns := w.getLsbD 31 }) ∧
    (okw → ¬free → waits (.lycfg ly rs1) (.lycfg k w)) ∧
    (¬okw → Answers (.lycfg ly rs1) s (RaisesIllegal s (encode (.lycfg ly rs1)))) ∧
    (free → becomes (.lyclr ly) { v.ly.get Leeway.start k with res := [] }) ∧
    (¬free → waits (.lyclr ly) (.lyclr k)) ∧
    (FsOn s → ∃ r : Half, Answers (.flsc rd rs1 sf) s (WritesF s rd r 0 s.nextPc) ∧
      (sf = 0 → let c := fld w 0 8
        (c = 255 → r = 0x7FC00000) ∧ (c ≠ 255 → (Fmt.f32.val r.toNat).rat = (2 : ℚ) ^ ((c : Int) - 127))) ∧
      (sf = 1 → let c := fld w 0 12
        (c = 4095 → r = 0x7FC00000) ∧ (4080 ≤ c → c < 4095 → r = 0x7F800000) ∧
        (c < 16 → (Fmt.f32.val r.toNat).rat = (c : ℚ) / 16 * (2 : ℚ) ^ (-126 : Int)) ∧
        (16 ≤ c → c < 4080 → (Fmt.f32.val r.toNat).rat = (1 + (c % 16 : Nat) / 16) * (2 : ℚ) ^ (((c / 16 : Nat) : Int) - 127))))

/-! ## Vector instructions enter their queues -/

/-- R36, R37, Table 2-5: the two-operand integer, compare and floating-point instructions enter the VAQ with vl, the type, frm, n and
their scalar operand captured: X[xs1] for an integer type, F[fs1] for a floating-point one. Each is legal for its class of types
only and with register numbers below n; those that round need a rounding mode in frm, and one that reads an f register needs FS on.

R36, R92 to R97, R168, R169, R171: the moves, permutations, reductions, mask, validity, leeway and conversion instructions enter the
VAQ. A register written may not be one whose other elements are read; vcvt needs a defined destination type, no change between l8q
and another type, a distinct destination where the widths differ, a vl within VLMAX of it, and a rounding mode where it may round.
Those that take every type need a defined one in force (R37). -/
def Obligations.VectorArithmeticEnters : Prop :=
  (∀ (s : State) (d v1 v2 : BitVec 5) (kd k : BitVec 3) (sc : BitVec 1),
    let r := VregOk s
    let src := r v2 ∧ (sc = 0 → r v1)
    let fs := sc = 1 → FsOn s
    let b := decide (sc = 1)
    let xo : Operands := if sc = 1 then { x1 := s.rx v1 } else {}
    let fo : Operands := if sc = 1 then { fv := s.f s.cur v1.toNat } else {}
    (∀ p ∈ [(Instr.vadd, IntOp.add), (.vsub, .sub), (.vmul, .mul), (.vmulh, .mulh), (.vmulhu, .mulhu), (.vmacc, .macc),
        (.vand, .and), (.vor, .or), (.vxor, .xor), (.vsll, .sll), (.vsrl, .srl), (.vsra, .sra), (.vmin, .min), (.vminu, .minu),
        (.vmax, .max), (.vmaxu, .maxu)],
      GoesTo (p.1 d k v1 v2 sc) s (IntType s ∧ r d ∧ src) .vaq (.int p.2 b d.toNat v2.toNat v1.toNat k.toNat) xo) ∧
    (∀ p ∈ [(Instr.vseq, CmpOp.seq), (.vsne, .sne), (.vslt, .slt), (.vsltu, .sltu), (.vsle, .sle), (.vsleu, .sleu)],
      GoesTo (p.1 kd k v1 v2 sc) s (IntType s ∧ src) .vaq (.cmp p.2 b kd.toNat v2.toNat v1.toNat k.toNat) xo) ∧
    (∀ p ∈ [(Instr.vfeq, CmpOp.feq), (.vflt, .flt), (.vfle, .fle)],
      GoesTo (p.1 kd k v1 v2 sc) s (FloatType s ∧ src ∧ fs) .vaq (.cmp p.2 b kd.toNat v2.toNat v1.toNat k.toNat) fo) ∧
    (∀ p ∈ [(Instr.vfadd, FpOp.add), (.vfsub, .sub), (.vfmul, .mul), (.vfdiv, .div), (.vfmacc, .macc), (.vfnmacc, .nmacc),
        (.vfmsac, .msac)],
      GoesTo (p.1 d k v1 v2 sc) s (FloatType s ∧ r d ∧ src ∧ fs ∧ FrmOk s) .vaq
        (.fp p.2 b d.toNat v2.toNat v1.toNat k.toNat) fo) ∧
    (∀ p ∈ [(Instr.vfmin, FpOp.min), (.vfmax, .max), (.vfsgnj, .sgnj)],
      GoesTo (p.1 d k v1 v2 sc) s (FloatType s ∧ r d ∧ src ∧ fs) .vaq (.fp p.2 b d.toNat v2.toNat v1.toNat k.toNat) fo) ∧
    GoesTo (.vfsqrt d k v2) s (FloatType s ∧ r d ∧ r v2 ∧ FrmOk s) .vaq (.fp .sqrt false d.toNat v2.toNat 0 k.toNat) {} ∧
    GoesTo (.vfclass d k v2) s (FloatType s ∧ r d ∧ r v2) .vaq (.fp .class false d.toNat v2.toNat 0 k.toNat) {}) ∧
  (∀ (s : State) (d v1 v2 : BitVec 5) (k ka kb kc : BitVec 3) (sc : BitVec 1) (w ly : BitVec 2) (ty : BitVec 4),
    let r := VregOk s
    let v := (s.hart s.cur).vec
    let b := decide (sc = 1)
    let x : Operands := { x1 := s.rx v1 }
    let o : Operands := if sc = 1 then (if 4 ≤ v.vetype.toNat ∧ v.vetype.toNat ≤ 6 then { fv := s.f s.cur v1.toNat } else x) else {}
    let from1 := (sc = 0 → r v1) ∧ (sc = 1 → FloatType s → FsOn s)
    let y := TypeDefined s
    GoesTo (.vmv d k v1 sc) s (y ∧ r d ∧ from1) .vaq (.mv b d.toNat v1.toNat k.toNat) o ∧
    GoesTo (.vmerge d k v1 v2 sc) s (y ∧ r d ∧ r v2 ∧ from1) .vaq (.merge b d.toNat v2.toNat v1.toNat k.toNat) o ∧
    GoesTo (.vmvxs d v2) s (y ∧ r v2) .vaq (.mvxs d.toNat v2.toNat) {} ∧
    GoesTo (.vslideup d k v1 v2) s (y ∧ r d ∧ r v2 ∧ d ≠ v2) .vaq (.slideup d.toNat v2.toNat k.toNat) x ∧
    GoesTo (.vslidedn d k v1 v2) s (y ∧ r d ∧ r v2 ∧ d ≠ v2) .vaq (.slidedn d.toNat v2.toNat k.toNat) x ∧
    GoesTo (.vperm d k v1 v2) s (y ∧ r d ∧ r v2 ∧ r v1 ∧ d ≠ v2 ∧ d ≠ v1) .vaq (.perm d.toNat v2.toNat v1.toNat k.toNat) {} ∧
    GoesTo (.vcompress d k v2) s (y ∧ r d ∧ r v2 ∧ d ≠ v2) .vaq (.compress d.toNat v2.toNat k.toNat) {} ∧
    GoesTo (.vid d k) s (y ∧ r d) .vaq (.vid d.toNat k.toNat) {} ∧
    GoesTo (.viota d k) s (y ∧ r d) .vaq (.viota d.toNat k.toNat) {} ∧
    (∀ p ∈ [(Instr.vredsum, RedOp.sum), (.vredosum, .osum), (.vredmin, .min), (.vredmax, .max)],
      GoesTo (p.1 d k v1 v2) s (IntType s ∧ r d ∧ r v2 ∧ r v1) .vaq (.red p.2 d.toNat v2.toNat v1.toNat k.toNat) {}) ∧
    (∀ p ∈ [(Instr.vfredsum, RedOp.fsum), (.vfredosum, .fosum)],
      GoesTo (p.1 d k v1 v2) s (FloatType s ∧ r d ∧ r v2 ∧ r v1 ∧ FrmOk s) .vaq
        (.red p.2 d.toNat v2.toNat v1.toNat k.toNat) {}) ∧
    (∀ p ∈ [(Instr.vfredmin, RedOp.fmin), (.vfredmax, .fmax)],
      GoesTo (p.1 d k v1 v2) s (FloatType s ∧ r d ∧ r v2 ∧ r v1) .vaq (.red p.2 d.toNat v2.toNat v1.toNat k.toNat) {}) ∧
    (∀ p ∈ [(Instr.kand, MaskOp.and), (.kor, .or), (.kxor, .xor)],
      GoesTo (p.1 ka kb kc) s y .vaq (.mask p.2 ka.toNat kc.toNat kb.toNat) {}) ∧
    GoesTo (.kpopc d kb) s y .vaq (.kpopc d.toNat kb.toNat) {} ∧ GoesTo (.kfirst d kb) s y .vaq (.kfirst d.toNat kb.toNat) {} ∧
    GoesTo (.kmv ka kb) s y .vaq (.kmv ka.toNat kb.toNat) {} ∧
    GoesTo (.vbvrd d w v2) s (y ∧ r v2) .vaq (.bvrd d.toNat v2.toNat w.toNat) {} ∧
    GoesTo (.vbvwr d v1 w) s (y ∧ r d) .vaq (.bvwr d.toNat w.toNat) x ∧
    GoesTo (.lysave d ly) s (r d) .vaq (.lysave d.toNat ly.toNat) {} ∧
    GoesTo (.lyload ly v1) s (r v1) .vaq (.lyload ly.toNat v1.toNat) {} ∧
    GoesTo (.vcvt d k ty v2) s
      (y ∧ r d ∧ r v2 ∧ ty.toNat ≠ 7 ∧ ty.toNat < 12 ∧ (v.vetype = 11 ↔ ty = 11) ∧ (d ≠ v2 ∨ ebits v.vetype = ebits ty) ∧
        v.vl ≤ min 8192 (65536 / 2 ^ v.ncode / ebits ty) ∧ ((IntType s ∧ ty.toNat < 4) ∨ ty = 11 ∨ FrmOk s))
      .vaq (.cvt d.toNat v2.toNat ty k.toNat) {})

/-- R38, R104, R111, R157, R202, R221: the vector memory instructions enter the VLQ or the VSQ with base and stride captured: loads,
prefetches and receives the VLQ, stores, atomics and sends the VSQ. An endpoint kept for a parked task is none of the strand's (R223). -/
def Obligations.VectorMemoryEnters : Prop :=
  ∀ (s : State) (d v2 rs1 rs2 : BitVec 5) (k : BitVec 3) (nt : BitVec 1) (fmt : BitVec 4) (ly : BitVec 2),
    let r := VregOk s
    let v := (s.hart s.cur).vec
    let n := decide (nt = 1)
    let x : Operands := { x1 := s.rx rs1 }
    let xy : Operands := { x1 := s.rx rs1, x2 := s.rx rs2 }
    let y := TypeDefined s
    let whole := y ∧ v.vetype ≠ 10
    let amo := v.vetype = 2 ∨ v.vetype = 3 ∨ v.vetype = 6
    let quant := r d ∧ FloatType s ∧ v.vl % 32 = 0 ∧ fmt.toNat < 6
    let opened : Bool → Prop := fun recv =>
      (s.rx rs1).toNat ≤ 3 ∧ ∃ e, s.endpoint s.cur (s.rx rs1).toNat = some e ∧ e.recv = recv ∧ e.parked = none
    GoesTo (.vld d k rs1 nt) s (y ∧ r d) .vlq (.ld .unit n d.toNat 0 k.toNat) x ∧
    GoesTo (.vst d k rs1 nt) s (y ∧ r d) .vsq (.st .unit n d.toNat 0 k.toNat) x ∧
    GoesTo (.vlds d k rs1 rs2 nt) s (r d ∧ whole) .vlq (.ld .stride n d.toNat 0 k.toNat) xy ∧
    GoesTo (.vsts d k rs1 rs2 nt) s (r d ∧ whole) .vsq (.st .stride n d.toNat 0 k.toNat) xy ∧
    GoesTo (.vldx d k rs1 v2 nt) s (r d ∧ r v2 ∧ whole) .vlq (.ld .index n d.toNat v2.toNat k.toNat) x ∧
    GoesTo (.vstx d k rs1 v2 nt) s (r d ∧ r v2 ∧ whole) .vsq (.st .index n d.toNat v2.toNat k.toNat) x ∧
    GoesTo (.vpref rs1 nt) s y .vlq (.pref n) x ∧
    GoesTo (.vldfe d k rs1) s (r d ∧ whole) .vlq (.ldfe d.toNat k.toNat) x ∧
    GoesTo (.vstfe d k rs1) s (r d ∧ whole) .vsq (.stfe d.toNat k.toNat) x ∧
    GoesTo (.vqld d rs1 fmt) s (quant ∧ FrmOk s) .vlq (.qld d.toNat fmt.toNat) x ∧
    GoesTo (.vqst d rs1 fmt ly) s quant .vsq (.qst d.toNat fmt.toNat ly.toNat) x ∧
    GoesTo (.vamoadd d k rs1 v2) s (r d ∧ r v2 ∧ amo ∧ (v.vetype = 6 → FrmOk s)) .vsq (.amo .add d.toNat v2.toNat k.toNat) x ∧
    GoesTo (.vamomin d k rs1 v2) s (r d ∧ r v2 ∧ amo) .vsq (.amo .min d.toNat v2.toNat k.toNat) x ∧
    GoesTo (.vamomax d k rs1 v2) s (r d ∧ r v2 ∧ amo) .vsq (.amo .max d.toNat v2.toNat k.toNat) x ∧
    GoesTo (.vsend d rs1) s (r d ∧ opened false) .vsq (.send d.toNat) x ∧
    GoesTo (.vrecv d rs1) s (r d ∧ opened true) .vlq (.recv d.toNat) x

/-- R175, R285, R286, R297, R301, R304: the tile products with their sixteen scale registers captured, and the ray, query, raster and
texture instructions with X[xs2] captured, enter the VAQ; the two texture reads enter the VLQ. -/
def Obligations.TileAndGraphicsEnter : Prop :=
  ∀ (s : State) (d v1 v2 fs3 : BitVec 5),
    let r := VregOk s
    let v := (s.hart s.cur).vec
    let x := (s.rx v2).toNat
    let o : Operands := { x2 := s.rx v2 }
    let sc : Operands := { scales := (List.range 16).map (fun i => s.f s.cur (fs3.toNat + i)) }
    let slots := (v.vetype = 2 ∨ v.vetype = 6) ∧ v.vl % 32 = 0 ∧ r d ∧ r v1
    let tex := r d ∧ r v1 ∧ d ≠ v1 ∧ v.vetype = 2
    (∀ p ∈ [(Instr.vmmaE4e4, MmaOp.e4e4), (.vmmaE5e4, .e5e4), (.vmmaBf16, .bf16), (.vmmaE4q, .e4q)],
      GoesTo (p.1 d v1 v2 fs3) s (r d ∧ r v1 ∧ r v2 ∧ (fs3 = 0 ∨ fs3 = 16) ∧ FsOn s) .vaq
        (.mma p.2 d.toNat v1.toNat v2.toNat) sc) ∧
    (∀ p ∈ [(Instr.rbox, RayOp.rbox, 2), (.rtri, .rtri, 4), (.qsph, .qsph, 2), (.qknn, .qknn, 2), (.qkey, .qkey, 4)],
      GoesTo (p.1 d v1 v2) s (slots ∧ x < p.2.2) .vaq (.ray p.2.1 d.toNat v1.toNat 0) o) ∧
    GoesTo (.rcand d v1 v2) s (slots ∧ r v2) .vaq (.ray .rcand d.toNat v1.toNat v2.toNat) {} ∧
    GoesTo (.racc d v1) s slots .vaq (.ray .racc d.toNat v1.toNat 0) {} ∧
    GoesTo (.rrej d v1) s slots .vaq (.ray .rrej d.toNat v1.toNat 0) {} ∧
    GoesTo (.vedge d v1 v2) s (r d ∧ r v1 ∧ x < 2 ^ 33) .vaq (.ray .vedge d.toNat v1.toNat 0) o ∧
    GoesTo (.tsamp d v1 v2) s (tex ∧ v.vl ≤ 65536 / 2 ^ v.ncode / 128) .vlq (.ray .tsamp d.toNat v1.toNat 0) o ∧
    GoesTo (.tfetch d v1 v2) s (tex ∧ v.vl ≤ 65536 / 2 ^ v.ncode / 128) .vlq (.ray .tfetch d.toNat v1.toNat 0) o ∧
    GoesTo (.tdecode d v1 v2) s (tex ∧ v.vl % 16 = 0 ∧ 3 ≤ x ∧ x ≤ 6) .vaq (.ray .tdecode d.toNat v1.toNat 0) o

/-! ## What the elements become -/

/-- Table 4-4, R82 to R86: a group of an integer instruction writes the operation's result to each active element of vd, from the
elements as they were before the group, and leaves every other element, register and mask alone; a valid result needs valid sources
(R84). The scalar operand is X[xs1] as captured, read as an element.

Table 4-6, R82 to R85: as before for a floating-point instruction, each result rounded once by the captured frm; a scalar operand is
F[fs1], rounded to nearest even where the type is f16 or bf16. -/
def Obligations.VectorArithmeticElements : Prop :=
  (∀ (e : VEntry) (v : Vec) (g : Nat) (f : IntOp) (sc : Bool) (vd v2 v1 k : Nat),
    e.op = .int f sc vd v2 v1 k → e.ty.toNat < 4 → e.vl * ebits e.ty ≤ 65536 → e.vl ≤ 8192 →
    let n := ebits e.ty
    let el : Nat → Nat → BitVec n := fun r i => BitVec.ofNat n ((v.reg r).elem n i)
    let b : Nat → BitVec n := fun i => if sc then e.x1.setWidth n else el v1 i
    let w := e.run v g
    w.2 = none ∧
    WroteElems v w.1 vd n (ActiveIn e v k g) (fun i => (IntResult f n (el v2 i) (b i) (el vd i)).toNat)
      (fun i => (v.reg v2).ok (i / 32) = true ∧ (sc = false → (v.reg v1).ok (i / 32) = true) ∧
        (f = .macc → (v.reg vd).ok (i / 32) = true))) ∧
  (∀ (e : VEntry) (v : Vec) (g : Nat) (f : FpOp) (m : Fmt) (sc : Bool) (vd v2 v1 k : Nat),
    e.op = .fp f sc vd v2 v1 k → fmtOf e.ty = some m → e.vl * ebits e.ty ≤ 65536 → e.vl ≤ 8192 →
    let n := ebits e.ty
    let two := f ≠ .sqrt ∧ f ≠ .class
    let x := if e.ty.toNat = 6 then e.fv.toNat else (m.ofVal 0 (Fmt.f32.val e.fv.toNat)).1
    let b : Nat → Nat := fun i => if sc then x else (v.reg v1).elem n i
    let w := e.run v g
    w.2 = none ∧
    WroteElems v w.1 vd n (ActiveIn e v k g)
      (fun i => FloatResult f m e.frm.toNat ((v.reg v2).elem n i) (b i) ((v.reg vd).elem n i))
      (fun i => (v.reg v2).ok (i / 32) = true ∧ (sc = false → two → (v.reg v1).ok (i / 32) = true) ∧
        (f = .macc ∨ f = .nmacc ∨ f = .msac → (v.reg vd).ok (i / 32) = true)))

/-- Table 4-5, R84, R87, R89, R96: a compare writes its truth to the active bits of kd, 0 where a source is invalid or, of floating-point
elements, a NaN; the mask operations act on every bit below VL; k0 is never written; nothing but kd changes.

R90, R92, R93: the moves and permutations, of every type: vmv, vmerge, the slides, vperm, vcompress, vid and viota write their elements,
from the registers as they were before the group; an index out of range gives 0. A scalar is X[xs1], or F[fs1] rounded to nearest even,
and one that is an invalidating code of a narrow type clears the validity of what it is written to. -/
def Obligations.VectorMaskAndMoveElements : Prop :=
  (∀ (e : VEntry) (v : Vec) (g : Nat), e.vl ≤ 8192 →
    let n := ebits e.ty
    let el : Nat → Nat → Nat := fun r i => (v.reg r).elem n i
    let a : Nat → Nat → BitVec n := fun r i => BitVec.ofNat n (el r i)
    let w := e.run v g
    let mine : Nat → Prop := fun i => g * e.gsize ≤ i ∧ i < (g + 1) * e.gsize ∧ i < e.vl
    let valid : Bool → Nat → Nat → Nat → Prop := fun sc v2 v1 i =>
      (v.reg v2).ok (i / 32) = true ∧ (sc = false → (v.reg v1).ok (i / 32) = true)
    (∀ f sc kd v2 v1 k, e.op = .cmp f sc kd v2 v1 k → e.ty.toNat < 4 →
      WroteMask v w.1 kd (ActiveIn e v k g) (fun i =>
        let x := a v2 i
        let y : BitVec n := if sc then e.x1.setWidth n else a v1 i
        (match f with
          | .seq => x = y
          | .sne => x ≠ y
          | .slt => x.toInt < y.toInt
          | .sltu => x.toNat < y.toNat
          | .sle => x.toInt ≤ y.toInt
          | .sleu => x.toNat ≤ y.toNat
          | _ => (f.eval e.ty x.toNat y.toNat) = true) ∧ valid sc v2 v1 i)) ∧
    (∀ f sc kd v2 v1 k m, e.op = .cmp f sc kd v2 v1 k → fmtOf e.ty = some m →
      let x : Nat → FVal := fun i => m.val (el v2 i)
      let y : Nat → FVal := fun i => m.val (if sc then e.scalarElem else el v1 i)
      let numbers : Nat → Prop := fun i => (x i).isNan = false ∧ (y i).isNan = false
      let does : (Nat → Prop) → Prop := fun p =>
        WroteMask v w.1 kd (ActiveIn e v k g) (fun i => numbers i ∧ p i ∧ valid sc v2 v1 i)
      (f = .feq → does (fun i => ¬Below (x i) (y i) ∧ ¬Below (y i) (x i))) ∧ (f = .flt → does (fun i => Below (x i) (y i))) ∧
        (f = .fle → does (fun i => ¬Below (y i) (x i)))) ∧
    (∀ f kd k2 k1, e.op = .mask f kd k2 k1 →
      WroteMask v w.1 kd mine (fun i =>
        match f with
        | .and => v.mbit k2 i = true ∧ v.mbit k1 i = true
        | .or => v.mbit k2 i = true ∨ v.mbit k1 i = true
        | .xor => v.mbit k2 i ≠ v.mbit k1 i)) ∧
    (∀ kd k2, e.op = .kmv kd k2 → WroteMask v w.1 kd mine (fun i => v.mbit k2 i = true))) ∧
  (∀ (e : VEntry) (v : Vec) (g : Nat), e.vl * ebits e.ty ≤ 65536 → e.vl ≤ 8192 →
    let n := ebits e.ty
    let el : Nat → Nat → Nat := fun r i => (v.reg r).elem n i
    let ok : Nat → Nat → Prop := fun r i => (v.reg r).ok (i / 32) = true
    let top := min 8192 (65536 / 2 ^ e.ncode / n)
    let off := e.x1.toNat
    let out := (e.run v g).1
    let mine : Nat → Prop := fun i => g * e.gsize ≤ i ∧ i < (g + 1) * e.gsize ∧ i < e.vl
    let on : Nat → Nat → Prop := fun k i => k = 0 ∨ v.mbit k i = true
    let count : Nat → Nat → Nat := fun k i => ((List.range i).filter (fun j => decide (k = 0) || v.mbit k j)).length
    let b : Bool → Nat → Nat → Nat := fun sc v1 i => if sc then e.scalarElem else el v1 i
    let okB : Bool → Nat → Nat → Prop := fun sc v1 i => if sc then ¬Invalidating e.ty e.scalarElem else ok v1 i
    (∀ sc vd v1 k, e.op = .mv sc vd v1 k → WroteElems v out vd n (ActiveIn e v k g) (b sc v1) (okB sc v1)) ∧
    (∀ sc vd v2 v1 k, e.op = .merge sc vd v2 v1 k →
      WroteElems v out vd n mine (fun i => if on k i then b sc v1 i else el v2 i) (fun i => if on k i then okB sc v1 i else ok v2 i)) ∧
    (∀ vd v2 k, e.op = .slideup vd v2 k →
      WroteElems v out vd n (fun i => ActiveIn e v k g i ∧ off ≤ i) (fun i => el v2 (i - off)) (fun i => ok v2 (i - off))) ∧
    (∀ vd v2 k, e.op = .slidedn vd v2 k →
      WroteElems v out vd n (ActiveIn e v k g) (fun i => if i + off < top then el v2 (i + off) else 0)
        (fun i => i + off < top → ok v2 (i + off))) ∧
    (∀ vd v2 v1 k, e.op = .perm vd v2 v1 k →
      WroteElems v out vd n (ActiveIn e v k g) (fun i => if el v1 i < top then el v2 (el v1 i) else 0)
        (fun i => ok v1 i ∧ (el v1 i < top → ok v2 (el v1 i)))) ∧
    (∀ vd v2 k, e.op = .compress vd v2 k →
      let from_ := (List.range e.vl).filter (fun j => decide (k = 0) || v.mbit k j)
      (g + 1 < e.groups → out = v) ∧
      (g + 1 = e.groups → WroteElems v out vd n (fun i => i < from_.length) (fun i => el v2 (from_.getD i 0)) (fun i => ok v2 (from_.getD i 0)))) ∧
    (∀ vd k, e.op = .vid vd k →
      ∃ c, (∀ i, ValueCode e.ty i (c i)) ∧ WroteElems v out vd n (ActiveIn e v k g) c (fun _ => True)) ∧
    (∀ vd k, e.op = .viota vd k → ∃ c, (∀ i, ValueCode e.ty (count k i) (c i)) ∧ WroteElems v out vd n mine c (fun _ => True)))

/-- R94, R95, Table 4-7: a reduction, at its last group, writes into element 0 of vd the combination of the active elements of vs2 with
the initial value vs1.e[0], in the order of its kind, and makes block 0 of vd valid where vs1's block 0 and every block with an active
element are; nothing else of vd changes.

R97, R172: vcvt writes each active element, converted by the captured frm and placed at the destination's size; a block is cleared
where an element of it comes from a NaN, an infinity or an invalidating code of a narrow conversion.

R168, R169, R171: lysave writes the 256 residues as f32 and marks their blocks valid, lyload takes them back, an invalid block's and
what is no finite number as 0, and vbvwr writes a word of the validity field. -/
def Obligations.VectorReductionAndConversion : Prop :=
  (∀ (e : VEntry) (v : Vec) (g : Nat) (f : RedOp) (vd v2 v1 k : Nat),
    e.op = .red f vd v2 v1 k → e.vl * ebits e.ty ≤ 65536 → e.vl ≤ 8192 →
    let n := ebits e.ty
    let active : Nat → Prop := fun i => i < e.vl ∧ (k = 0 ∨ v.mbit k i = true)
    let w := e.run v g
    (g + 1 < e.groups → w = (v, none)) ∧
    (g + 1 = e.groups → w.2 = none ∧ w.1 = { v with v := w.1.v } ∧ (∀ r, r ≠ vd → w.1.reg r = v.reg r) ∧
      Reduces f e.ty e.frm.toNat e.vl ((v.reg v1).elem n 0)
        (fun i => if i < e.vl ∧ (k = 0 ∨ v.mbit k i = true) then some ((v.reg v2).elem n i) else none) ((w.1.reg vd).elem n 0) ∧
      (∀ i, 0 < i → (i + 1) * n ≤ 65536 → (w.1.reg vd).elem n i = (v.reg vd).elem n i) ∧
      ((w.1.reg vd).ok 0 = true ↔ (v.reg v1).ok 0 = true ∧ ∀ i, active i → (v.reg v2).ok (i / 32) = true) ∧
      (∀ b, 0 < b → b < 256 → (w.1.reg vd).ok b = (v.reg vd).ok b) ∧ (w.1.reg vd).dirty = true)) ∧
  (∀ (e : VEntry) (v : Vec) (g vd v2 k : Nat) (ty : BitVec 4),
    e.op = .cvt vd v2 ty k → e.vl * ebits e.ty ≤ 65536 → e.vl * ebits ty ≤ 65536 → e.vl ≤ 8192 →
    ∃ (c : Nat → Nat) (bad : Nat → Prop),
      (∀ i, Converts e.ty ty e.frm.toNat ((v.reg v2).elem (ebits e.ty) i) (c i) (bad i)) ∧ (e.run v g).2 = none ∧
      WroteElems v (e.run v g).1 vd (ebits ty) (ActiveIn e v k g) c (fun i => (v.reg v2).ok (i / 32) = true ∧ ¬bad i)) ∧
  (∀ (e : VEntry) (v : Vec) (g : Nat), let w := e.run v g
    (∀ vd j, e.op = .bvwr vd j → j < 4 → w.2 = none ∧ w.1 = { v with v := w.1.v } ∧ (∀ r, r ≠ vd → w.1.reg r = v.reg r) ∧
      w.1.reg vd = { v.reg vd with valid := (w.1.reg vd).valid, dirty := true } ∧
      ∀ b, b < 256 → (w.1.reg vd).ok b = if 64 * j ≤ b ∧ b < 64 * j + 64 then e.x1.getLsbD (b - 64 * j) else (v.reg vd).ok b) ∧
    (∀ vd ly, e.op = .lysave vd ly → w.2 = none ∧ w.1 = { v with v := w.1.v } ∧ (∀ r, r ≠ vd → w.1.reg r = v.reg r) ∧
      (∀ i, i < 2048 → (w.1.reg vd).elem 32 i =
        if i < 256 then ((v.ly.get Leeway.start ly).res.get 0 i).toNat else (v.reg vd).elem 32 i) ∧
      (∀ b, b < 256 → ((w.1.reg vd).ok b = true ↔ b < 8 ∨ (v.reg vd).ok b = true)) ∧ (w.1.reg vd).dirty = true) ∧
    (∀ ly vs, e.op = .lyload ly vs → w.2 = none ∧ w.1 = { v with ly := w.1.ly } ∧
      (∀ j, j ≠ ly → w.1.ly.get Leeway.start j = v.ly.get Leeway.start j) ∧
      w.1.ly.get Leeway.start ly = { v.ly.get Leeway.start ly with res := (w.1.ly.get Leeway.start ly).res } ∧
      ∀ j, j < 256 →
        let r := ((w.1.ly.get Leeway.start ly).res.get 0 j).toNat
        let keeps := (v.reg vs).ok (j / 32) = true ∧ FiniteCode Fmt.f32 ((v.reg vs).elem 32 j)
        (keeps → r = (v.reg vs).elem 32 j) ∧ (¬keeps → r = 0)))

/-- R175 to R177: a tile product writes the 64 elements of its result, each acc + sa · sb · S rounded once to nearest even, canonical NaN
where a code of its row or column is invalidating or the expression undefined; the two blocks are valid where every block they come from is
and no element became NaN by a code or a NaN operand. Bytes 256 on, and every other register, stay.

R286 to R296: a slot instruction works on the slots of its group below VL / 32, all of them active (log 73, DEDUCED): a box test, a triangle
test, a candidate offered, accepted or rejected, a sphere, nearest-neighbour or key query; the slot's validity is that of the slots read.
The rounded steps of a triangle test and zeros of no sign are logs 18 and 55 (DEDUCED); that rcand, racc and rrej copy all of the record is
log 34 (DEDUCED). -/
def Obligations.TileAndRayResults : Prop :=
  (∀ (e : VEntry) (v : Vec) (g : Nat) (f : MmaOp) (vd v1 v2 : Nat), e.op = .mma f vd v1 v2 →
    let ta := (tileTypes f).1
    let tb := (tileTypes f).2
    let w := (e.run v g).1
    let d := v.reg vd
    let out := w.reg vd
    let codeA : Nat → Nat → Nat := fun r k => (v.reg v1).elem (ebits ta) (32 * r + k)
    let codeB : Nat → Nat → Nat := fun c k => (v.reg v2).elem (ebits tb) (if f = .e4q then 4 * c + k / 8 else 32 * c + k)
    let scale : Nat → FVal := fun i => Fmt.f32.val (e.scales.getD i 0).toNat
    let acc : Nat → Nat → FVal := fun r c => Fmt.f32.val (d.elem 32 (8 * r + c))
    let valB : Nat → Nat → FVal → Prop := fun c k x =>
      if f = .e4q then ∃ y m e, LatCoords (codeB c k) y ∧ x = .fin (decide (y (k % 8) < 0)) m e ∧ x.rat = y (k % 8) else CodeVal tb (codeB c k) x
    let bad : Nat → Nat → Prop := fun r c => ∃ k, k < 32 ∧ (Invalidating ta (codeA r k) ∨ Invalidating tb (codeB c k))
    let nan : Nat → Nat → Prop := fun r c => (acc r c).isNan = true ∨ (scale r).isNan = true ∨ (scale (8 + c)).isNan = true ∨
      (f = .bf16 ∧ ∃ k, k < 32 ∧ ((Fmt.bf16.val (codeA r k)).isNan = true ∨ (Fmt.bf16.val (codeB c k)).isNan = true))
    (e.run v g).2 = none ∧ w = { v with v := w.v } ∧ (∀ r, r ≠ vd → w.reg r = v.reg r) ∧ out.dirty = true ∧
    (∀ r c, r < 8 → c < 8 → (bad r c → out.elem 32 (8 * r + c) = 0x7FC00000) ∧
      (¬bad r c → ∃ a b, (∀ k, k < 32 → CodeVal ta (codeA r k) (a k) ∧ valB c k (b k)) ∧
        TileElem a b (acc r c) (scale r) (scale (8 + c)) (out.elem 32 (8 * r + c)))) ∧
    (∀ i, 64 ≤ i → i < 2048 → out.elem 32 i = d.elem 32 i) ∧ (∀ b, 2 ≤ b → b < 256 → out.ok b = d.ok b) ∧
    (∀ b, b < 2 → (out.ok b = true ↔ d.ok b = true ∧ (∀ i, i < 4 → (v.reg v1).ok (4 * b + i) = true) ∧
      (∀ i, i < (if f = .e4q then 1 else 8) → (v.reg v2).ok i = true) ∧ ∀ r c, r / 4 = b → c < 8 → ¬bad r c ∧ ¬nan r c))) ∧
  (∀ (e : VEntry) (v : Vec) (g : Nat) (f : RayOp) (vd v1 v2 : Nat), e.op = .ray f vd v1 v2 →
    f ∈ [.rbox, .rtri, .rcand, .racc, .rrej, .qsph, .qknn, .qkey] → e.vl % 32 = 0 → e.vl ≤ 2048 →
    let w := (e.run v g).1
    let mine : Nat → Prop := fun j => 64 * g ≤ 32 * j ∧ 32 * j < 64 * (g + 1) ∧ 32 * j < e.vl
    let slot : Vec → Nat → Nat → Nat → Nat := fun u r j i => (u.reg r).elem 32 (32 * j + i)
    let ok : Nat → Nat → Prop := fun r j => (v.reg r).ok j = true
    (e.run v g).2 = none ∧ w = { v with v := w.v } ∧ (∀ r, r ≠ vd → w.reg r = v.reg r) ∧
    (∀ j, mine j → SlotDone f e.x2.toNat (slot v vd j) (slot v v1 j) (slot v v2 j) (slot w vd j) ∧ (w.reg vd).dirty = true ∧
      ((w.reg vd).ok j = true ↔ ok v1 j ∧ (f = .rcand → ok v2 j) ∧ (f ∉ [.rcand, .racc, .rrej] → ok vd j))) ∧
    (∀ j, ¬mine j → (∀ i, i < 32 → 32 * j + i < 2048 → slot w vd j i = slot v vd j i) ∧ (j < 256 → ((w.reg vd).ok j = true ↔ ok vd j))))

/-- R297: vedge evaluates three edge functions exactly at the 64 pixels of its tile, writes the coverage mask and the saturated values, and
nothing else of vd. R304, R305: tdecode writes the texels of its blocks, valid where the bytes of the block are.

R299 to R303: a group of tsamp or tfetch reads its descriptor and the texels of its elements, which take the checks of Table 5-3, the
first element that fails stopping it; it writes the weighted sums, or, of an unsupported descriptor, zeros in invalid blocks. That all reads
of a group come at once is log 49 (DEDUCED); of BC7, log 10's tables (PRESUMED) are left open here. -/
def Obligations.RasterAndTextureResults : Prop :=
  (∀ (e : VEntry) (v : Vec) (g vd v1 v2 : Nat), e.op = .ray .vedge vd v1 v2 → fld e.x2 32 2 < 2 →
    let w := (e.run v g).1
    let x := v.reg v1
    let out := w.reg vd
    let off : Int := if fld e.x2 32 2 = 0 then 128 else 0
    let coefA : Nat → Int := fun i => (BitVec.ofNat 32 (x.elem 32 (4 * i))).toInt
    let coefB : Nat → Int := fun i => (BitVec.ofNat 32 (x.elem 32 (4 * i + 1))).toInt
    let edge : Nat → Nat → Int := fun i s => coefA i * (256 * (fld e.x2 0 16 + s % 8 : Nat) + off) +
      coefB i * (256 * (fld e.x2 16 16 + s / 8 : Nat) + off) + (BitVec.ofNat 64 (x.elem 64 (2 * i + 1))).toInt
    let inside : Nat → Nat → Prop := fun i s => 0 < edge i s ∨ (edge i s = 0 ∧ (0 < coefA i ∨ (coefA i = 0 ∧ 0 < coefB i)))
    (e.run v g).2 = none ∧ w = { v with v := w.v } ∧ (∀ r, r ≠ vd → w.reg r = v.reg r) ∧ out.dirty = true ∧
    (∀ s, s < 64 → ((out.elem 64 0).testBit s = true ↔ ∀ i, i < 3 → inside i s)) ∧
    (∀ i s, i < 3 → s < 64 → (BitVec.ofNat 64 (out.elem 64 (32 + 64 * i + s))).toInt = max (-(2 ^ 63)) (min (2 ^ 63 - 1) (edge i s))) ∧
    (∀ i, i < 1024 → (1 ≤ i ∧ i < 32) ∨ 224 ≤ i → out.elem 64 i = (v.reg vd).elem 64 i) ∧
    (∀ b, b < 256 → (out.ok b = true ↔ if b = 0 then x.ok 0 = true ∧ (v.reg vd).ok 0 = true else if b < 7 then x.ok 0 = true else (v.reg vd).ok b = true))) ∧
  (∀ (e : VEntry) (v : Vec) (g vd v1 v2 : Nat), e.op = .ray .tdecode vd v1 v2 → e.vl ≤ 2048 → vd ≠ v1 →
    let fmt := fld e.x2 0 3
    let b := texelBytes fmt
    3 ≤ fmt → fmt < 7 → (e.run v g).2 = none ∧ ∃ x : Nat → Nat → Nat,
      (∀ i, TexelIs fmt (ofBytes ((List.range b).map (fun j => (v.reg v1).bits.extractLsb' (8 * (b * (i / 16) + j)) 8))) (i % 16) (x i) ∧
        ∀ ch, x i ch < 256) ∧
      WroteElems v (e.run v g).1 vd 32 (fun i => 64 * g ≤ i ∧ i < 64 * (g + 1) ∧ i < e.vl)
        (fun i => x i 0 + x i 1 * 2 ^ 8 + x i 2 * 2 ^ 16 + x i 3 * 2 ^ 24) (fun i => (v.reg v1).ok (b * (i / 16) / 128) = true)) ∧
  (∀ (s : State) (h : Nat) (q : VQueue) (e : VEntry) (f : RayOp) (vd v1 v2 : Nat), MayBegin s h q e → e.op = .ray f vd v1 v2 →
    (f = .tsamp ∨ f = .tfetch) → e.vl ≤ 2048 →
    let t0 := s.hart h
    let v := t0.vec
    let da := e.x2.toNat
    let issue := Instr.vectorGroupIssue h q
    let act : Nat → Prop := fun i => 64 * e.next ≤ i ∧ i < 64 * (e.next + 1) ∧ i < e.vl
    let alone := q ≠ .vaq ∧ v.queue = [e] ∧ e.pend = [] ∧ e.got = []
    let does : (Nat → Nat) → (Nat → Prop) → Prop := fun val good => Answers issue s (fun t => ∃ w, w = { (t.hart h).vec with queue := [e] } ∧
      WroteElems v w vd 32 act val good ∧ ((t.hart h).vec.queue = [] ↔ e.groups ≤ e.next + 1) ∧
      t.hart h = { t0 with detector := (t.hart h).detector, vec := (t.hart h).vec } ∧ OnlyHartAnd s t h (fun t => { t with cores := s.cores }))
    (∀ x, s.vchk h e.pos da 32 32 false = .stop x → VectorStops issue s h e x da) ∧
    (∀ dpa, s.vchk h e.pos da 32 32 false = .ok dpa →
      let d := s.mem64 dpa 32
      (s.mayDo h e da dpa 32 false = false → Answers issue s (fun t => t = s)) ∧
      (s.mayDo h e da dpa 32 false = true → alone → ¬TexSupported d → does (fun _ => 0) (fun _ => False)) ∧
      (s.mayDo h e da dpa 32 false = true → TexSupported d → ∀ (ts : Nat → List Sampled) (sh : Nat → Nat) (place : Sampled → Nat × Nat),
        (∀ i, act i → let r : Nat → Nat := fun j => (v.reg v1).elem 32 (4 * i + j)
          if f = .tsamp then Samples d r (ts i) (sh i) else Fetches d r (ts i) (sh i)) →
        (∀ i, act i → ∀ t ∈ ts i, SampledAt d t (place t)) →
        let b := texelBytes (texFmt d)
        let bytes : Nat → List Nat := fun i => (ts i).flatMap (fun t => (List.range b).map (fun j => (place t).1 + j))
        let chk : Nat → VChk := fun a => s.vchk h e.pos a 1 1 false
        (∀ i front a back x, act i → (∀ k, act k → k < i → ∀ c ∈ bytes k, ∃ p, chk c = .ok p) → bytes i = front ++ a :: back →
          (∀ c ∈ front, ∃ p, chk c = .ok p) → chk a = .stop x → (∀ c ∈ back, (∃ p, chk c = .ok p) ∨ (chk c = .stop x ∧ SameExtent (winOf c) (winOf a))) →
          VectorStops issue s h e x a) ∧
        (∀ P : Nat → Nat, (∀ i, act i → ∀ c ∈ bytes i, chk c = .ok (P c)) →
          ((∃ i, act i ∧ ∃ c ∈ bytes i, s.mayDo h e c (P c) 1 false = false) → Answers issue s (fun t => t = s)) ∧
          ((∀ i, act i → ∀ c ∈ bytes i, s.mayDo h e c (P c) 1 false = true) → alone → ∃ x : Sampled → Nat → Nat,
            (∀ i, act i → ∀ t ∈ ts i, TexelIs (texFmt d) (((List.range b).map (fun j => (s.byte (P ((place t).1 + j))).toNat * 256 ^ j)).sum) (place t).2 (x t)) ∧
            let chan : Nat → Nat → Nat := fun i ch =>
              (((ts i).map (fun t => t.weight * x t ch)).sum + (if sh i = 0 then 0 else 2 ^ (sh i - 1))) / 2 ^ sh i
            does (fun i => chan i 0 + chan i 1 * 2 ^ 8 + chan i 2 * 2 ^ 16 + chan i 3 * 2 ^ 24)
              (fun i => (v.reg v1).ok (16 * i / 128) = true ∧ (v.reg v1).ok ((16 * i + 15) / 128) = true))))))

/-- R91, R96, R171: the results that go to an x register, and their return: vmvxs gives element 0, sign-extended for an integer type,
kpopc the number of set bits below VL, kfirst the lowest set bit or -1, at the last of their groups; vbvrd a word of the validity field.
The oldest arithmetic instruction whose groups are all done leaves the queue and writes that register; nothing else changes. -/
def Obligations.VectorScalarResults : Prop :=
  (∀ (e : VEntry) (v : Vec) (g : Nat), e.vl ≤ 8192 →
    let n := ebits e.ty
    let w := e.run v g
    let last := g + 1 = e.groups
    (∀ xd v2, e.op = .mvxs xd v2 → last → let c : BitVec n := BitVec.ofNat n ((v.reg v2).elem n 0)
      w = (v, some (if e.ty.toNat < 4 then c.signExtend 64 else c.setWidth 64))) ∧
    (∀ xd k, e.op = .kpopc xd k → last →
      w = (v, some (BitVec.ofNat 64 ((List.range e.vl).filter (fun i => decide (k = 0) || v.mbit k i)).length))) ∧
    (∀ xd k, e.op = .kfirst xd k → last →
      w.1 = v ∧ (∀ i, i < e.vl → v.mbit k i = true → (∀ j, j < i → v.mbit k j = false) → w.2 = some (BitVec.ofNat 64 i)) ∧
        ((∀ i, i < e.vl → v.mbit k i = false) → w.2 = some (-1))) ∧
    ((∃ xd r, e.op = .mvxs xd r ∨ e.op = .kpopc xd r ∨ e.op = .kfirst xd r) → g + 1 < e.groups → w = (v, none)) ∧
    (∀ xd v2 j, e.op = .bvrd xd v2 j → w = (v, some ((v.reg v2).valid.extractLsb' (64 * j) 64)))) ∧
  (∀ (s t : State) (h : Nat) (e : VEntry), s.landVaq h = some t →
    (s.hart h).vec.queue.find? (fun a => decide (a.q = .vaq) && decide (a.groups ≤ a.next)) = some e →
    OnlyHart s t h ∧
    t.hart h = { s.hart h with
      x := (t.hart h).x, vec := { (s.hart h).vec with queue := (s.hart h).vec.queue.filter (fun a => a.seq != e.seq) } } ∧
    ∀ r, t.x h r = match e.op.xdest, e.res with
      | some rd, some x => if r = rd ∧ r ≠ 0 then x else s.x h r
      | _, _ => s.x h r)

/-! ## Full/empty lines, rings, copies, streams, directional fences -/

/-- R199 to R201, Table 9-1: ldfe waits for the line to be full and for consumers of a lower hart that the bank can serve (R200), then reads
its 8 bytes and empties the line in one operation; stfe, whatever the type of its page (R118), puts its 8 bytes into the store buffer as the
store that sets the line, once the older stores that have left the buffer have performed (R203). An address that is no multiple of 8 is
misaligned, and one that is not in a scratchpad an access fault.

R202: a group of vldfe or vstfe takes its active elements at unit stride, in the own scratch window and the ring window of a scratch ring
only: the first element elsewhere raises VWINDOW, one that fails another check of Table 5-3 its cause. vldfe waits until every line of the
group is full, then reads the elements and empties all the lines in one operation (log 49); vstfe stores the elements and then sets the
lines, once every older vector store has begun its groups and the older scalar stores that have left the buffer have performed. -/
def Obligations.FullEmptyResults : Prop :=
  (∀ (s : State) (rd rs1 rs2 : BitVec 5) (x : Hit), s.cur < 2048 →
    let h := s.hart s.cur
    let va := s.rx rs1
    let u := s.setAD x
    let scratch := ∃ c o, regionOf x.pa = .scratch c o
    let ready := s.full (x.pa / 128) = true ∧ h.storing x.pa 8 = false ∧ h.loading x.pa 8 = false ∧
      u.lowerConsumer s.cur (x.pa / 128) = false
    (va.toNat % 8 ≠ 0 → Answers (.ldfe rd rs1) s (Raises s 4 va) ∧ Answers (.stfe rs1 rs2) s (Raises s 6 va)) ∧
    (va.toNat % 8 = 0 → s.access s.cur va 8 .load = .ok x → ¬scratch → Answers (.ldfe rd rs1) s (Raises s 5 va)) ∧
    (va.toNat % 8 = 0 → s.access s.cur va 8 .store = .ok x → ¬scratch → Answers (.stfe rs1 rs2) s (Raises s 7 va)) ∧
    (va.toNat % 8 = 0 → s.access s.cur va 8 .load = .ok x → scratch → s.held s.cur h.pos va.toNat 8 false = false → ready →
      Answers (.ldfe rd rs1) s (fun t => ∃ v, Extends 8 false (fun j => u.byte (x.pa + j)) v ∧ XHolds u rd v t ∧
        t.hart s.cur = { (u.hart s.cur).retired s.nextPc with x := (t.hart s.cur).x } ∧
        (∀ l, t.full l = if l = x.pa / 128 then false else u.full l) ∧ OnlyHartAnd u t s.cur (fun t => { t with fe := u.fe }))) ∧
    (va.toNat % 8 = 0 → s.access s.cur va 8 .load = .ok x → scratch → s.held s.cur h.pos va.toNat 8 false = false → ¬ready →
      Answers (.ldfe rd rs1) s (Waits u (.ldfe rd.toNat x.pa va s.dev.cy))) ∧
    (va.toNat % 8 = 0 → s.access s.cur va 8 .store = .ok x → scratch → s.held s.cur h.pos va.toNat 8 true = false →
      (¬StoresOut s s.cur h.pos ∨ 8 ≤ h.stores.length → Answers (.stfe rs1 rs2) s (fun t => t = s)) ∧
      (StoresOut s s.cur h.pos → h.stores.length < 8 → Answers (.stfe rs1 rs2) s (fun t =>
        t.hart s.cur = { (u.hart s.cur).retired s.nextPc with
          stores := h.stores ++ [{ pos := h.pos, va := va.toNat, pa := x.pa, width := 8, val := s.rx rs2, fe := true, code := none }] } ∧
        OnlyHart u t s.cur)))) ∧
  (∀ (s : State) (h : Nat) (q : VQueue) (e : VEntry) (vd k : Nat) (store : Bool), MayBegin s h q e →
    (store = false ∧ e.op = .ldfe vd k ∨ store = true ∧ e.op = .stfe vd k) →
    let t0 := s.hart h
    let v := t0.vec
    let n := ebits e.ty
    let issue := Instr.vectorGroupIssue h q
    let act := e.actives v k e.next
    let va : Nat → Nat := fun i => (e.x1.toNat + i * n / 8) % 2 ^ 64
    let width := max 1 (n / 8)
    let takes : Nat → Prop := fun a => (∃ off, winOf a = .scratch off) ∨
      ∃ w off, winOf a = .ring w off ∧ ∀ rs r, SlotBound s h w rs r → r.formed = true → r.vault = false
    let good : Nat → Nat → Prop := fun i p => takes (va i) ∧ s.vchk h e.pos (va i) width width store = .ok p
    (∀ front i back, act = front ++ i :: back → (∀ j ∈ front, ∃ p, good j p) →
      (¬takes (va i) → VectorStops issue s h e (.exc 30) (va i)) ∧
      (takes (va i) → ∀ x, s.vchk h e.pos (va i) width width store = .stop x → VectorStops issue s h e x (va i))) ∧
    (∀ pa : Nat → Nat, (∀ i ∈ act, good i (pa i)) →
      let inLine : Nat → Prop := fun l => ∃ i ∈ act, pa i / 128 = l
      let ready := ∀ l, inLine l → s.full l = true ∧ s.lowerConsumer h l = false
      let may := ∀ i ∈ act, s.mayDo h e (va i) (pa i) width false = true
      let waits : Prop := Answers issue s (fun t => OnlyVec s t h ∧ (t.hart h).vec = { v with
        queue := v.queue.map (fun b => if b.seq = e.seq then { b with since := some (e.since.getD s.dev.cy) } else b) })
      (store = false → ¬ready → (∀ b ∈ v.queue, b.seq = e.seq → b = e) → waits) ∧
      (store = false → ready → ¬may → Answers issue s (fun t => t = s)) ∧
      (store = false → ready → may → q ≠ .vaq → v.queue = [e] → e.pend = [] → e.got = [] → e.ty ≠ 10 → e.vl * n ≤ 65536 → Answers issue s (fun t =>
        (∀ l, (inLine l → t.full l = false) ∧ (¬inLine l → t.full l = s.full l)) ∧ OnlyVec { s with fe := t.fe } t h ∧
        ((t.hart h).vec.queue = [] ↔ e.groups ≤ e.next + 1) ∧ ∃ w, w = { (t.hart h).vec with queue := [e] } ∧
          WroteElems v w vd n (fun i => i ∈ act) (fun i => s.mem64 (pa i) width) (fun i => ¬Invalidating e.ty (s.mem64 (pa i) width)))) ∧
      (store = true → (∃ b ∈ v.queue, b.seq < e.seq ∧ b.q = .vsq ∧ b.next < b.groups) ∨ ¬StoresOut s h e.entered →
        Answers issue s (fun t => t = s)) ∧
      (store = true → (∀ b ∈ v.queue, b.seq < e.seq → b.q = .vsq → b.groups ≤ b.next) → StoresOut s h e.entered →
        let clear : Nat → Prop := fun i => s.mayBegin h e (va i) (pa i) width true = true
        let acc : Nat → Nat → Nat → Nat → AccKind → Word → Acc := fun i a p w c x =>
          { group := e.next, idx := i, va := a, pa := p, width := w, kind := c, val := x, nt := false }
        let val : Nat → Word := fun i => BitVec.ofNat 64 (if (v.reg vd).ok (i / 32) then (v.reg vd).elem n i else invalidStored e.ty)
        ((∀ i ∈ act, clear i) → act ≠ [] → Answers issue s (fun t => OnlyVec s t h ∧ ∃ b ∈ (t.hart h).vec.queue, b.seq = e.seq ∧
          b.next = e.next + 1 ∧ b.pend = e.pend ++ act.map (fun i => acc i (va i) (pa i) width .store (val i)) ++
            ((act.map (fun i => pa i / 128)).eraseDups).map (fun l => acc 8192 0 (128 * l) 128 .fill 0))) ∧
        ((∃ i ∈ act, ¬clear i) → Answers issue s (fun t => t = s)))))

/-- R207, R208, R210: ringacq acquires relative stage k where its state allows, ringrel posts the release of the stage it names, ringtst
only reports; each writes its result code and never waits. That a member which has released a stage gets 1 for it is the model's
reading (log 36), and so is that a ringtst of an unset or unformed slot writes 3 with every other field 0 (log 38, DEDUCED). A ringset
of a descriptor brings its line nearer (R118; the policy is log 57).

R205, R209: ringset joins the ring of the strand's group at the descriptor's base, or creates it, and raises RING_BOUND (25) with
the descriptor's address where a case of R205 forbids it; ringset with x0 withdraws; ringexp adds X[xs1] to the expectation of the lowest
stage not complete, or to what waits for the next one, and raises RING_BOUND with X[xs1] where it may not. -/
def Obligations.RingResults : Prop :=
  (∀ (s : State) (rd rs1 : BitVec 5) (ring : BitVec 3), s.cur < 2048 →
    let h := s.hart s.cur
    let k := (s.rx rs1).toNat
    let slot := ring.toNat
    let does : Instr → Word → (Staging → Prop) → Prop := fun i v f => Answers i s (WritesXStg s rd v f)
    let same : Staging → Prop := fun g => g = h.stg
    (s.ringOf s.cur slot = none →
      does (.ringacq rd rs1 ring) 3 same ∧ does (.ringrel rd ring) 3 same ∧ does (.ringtst rd rs1 ring) 3 same) ∧
    (∀ rs r, s.ringOf s.cur slot = some (rs, r) →
      let q := r.r + k
      let full := r.completeAt q
      let free := k < r.d ∧ full = rs.consumer ∧ q ∉ rs.left
      let acquired : List Nat → Staging → Prop := fun a g => g = { h.stg with rings := h.stg.rings.ins slot { rs with acq := a } }
      let released : Nat → Staging → Prop := fun p g => g = { h.stg with
        rings := h.stg.rings.ins slot { rs with acq := rs.acq.filter (fun y => y != p), left := rs.left.filter (fun y => r.r ≤ y) ++ [p] }
        releases := h.stg.releases ++ [{ ring := rs.ring, stage := p, producer := !rs.consumer, pos := h.pos }] }
      (r.d ≤ k → does (.ringacq rd rs1 ring) 2 same) ∧
      (k < r.d → ¬free → does (.ringacq rd rs1 ring) 1 same) ∧
      (free → does (.ringacq rd rs1 ring) 0 (acquired (if q ∈ rs.acq then rs.acq else rs.acq ++ [q]))) ∧
      (rs.consumer = true → r.r ∈ rs.acq → does (.ringrel rd ring) 0 (released r.r)) ∧
      (rs.consumer = true → r.r ∉ rs.acq → does (.ringrel rd ring) 1 same) ∧
      (rs.consumer = false → rs.acq = [] → does (.ringrel rd ring) 1 same) ∧
      (rs.consumer = false → ∀ p ∈ rs.acq, (∀ y ∈ rs.acq, p ≤ y) → does (.ringrel rd ring) 0 (released p)) ∧
      (0 < r.n → r.n ≤ 16 → ∃ v, does (.ringtst rd rs1 ring) v same ∧
        fld v 0 2 = (if r.d ≤ k then 2 else if k < r.d ∧ full = rs.consumer ∧ rs.left.contains q = false then 0 else 1) ∧
        v.getLsbD 2 = full ∧ v.getLsbD 3 = decide (q ∈ rs.acq) ∧ fld v 4 4 = r.r % r.n ∧
        (∀ t, r.stage q = some t → fld v 16 16 = min 65535 (t.exp - t.arr))))) ∧
  (∀ (s : State) (rs1 : BitVec 5) (ring : BitVec 3) (x : Hit), s.cur < 2048 →
    let h := s.hart s.cur
    let cl := clOf s.cur
    let slot := ring.toNat
    let v := (s.rx rs1).toNat
    let va : Word := s.rx rs1 &&& ~~~31#64
    let cons := (s.rx rs1).getLsbD 0
    let u := s.setAD x
    (ReadsNow s va 32 x →
      let d : BitVec 256 := BitVec.ofNat 256 (u.seenNat x.pa 32)
      let at_ := State.ringRegion s.cur (fld d 64 64) (fld d 0 32 * fld d 32 8)
      let joins : Ring → Prop := fun r => r ∈ (u.cluster cl).rings ∧ r.group = u.groupOf s.cur ∧ some r.basePa = at_.map Prod.fst
      let bad := at_ = none ∨ ringFieldsOk d = false ∨ fld (s.rx rs1) 1 4 ≠ 0 ∨ (h.stg.rings.find slot).isSome = true ∨
        ((∀ r, ¬joins r) ∧ 32 ≤ (u.cluster cl).rings.length)
      let traps := Answers (.ringset ring rs1) s (fun t => ∃ u', CachesOnly u u' s.cur ∧ Raises u' 25 va t)
      (bad → traps) ∧
      ((∃! r, joins r) → (∀ r, joins r → r.desc ≠ d ∨ (cons = true ∧ r.q ≤ r.cons) ∨ (cons = false ∧ r.p ≤ r.prods)) → traps) ∧
      (¬bad → ∀ r, joins r → (∀ r', joins r' ∨ (r' ∈ (u.cluster cl).rings ∧ r'.id = r.id) → r' = r) → r.desc = d →
        (if cons then r.cons < r.q else r.prods < r.p) →
        Answers (.ringset ring rs1) s (fun t => ∃ r', t.ring cl r.id = some r' ∧ r'.desc = d ∧
          r'.prods = r.prods + (if cons then 0 else 1) ∧ r'.cons = r.cons + (if cons then 1 else 0) ∧
          (r'.formed = true ↔ r.formed = true ∨ (r'.prods = r.p ∧ r'.cons = r.q)) ∧
          (∃ q, (t.hart s.cur).stg.rings.find slot = some q ∧ q.ring = r.id ∧ q.consumer = cons ∧ q.acq = [] ∧ q.left = []) ∧
          (t.hart s.cur).pc = s.nextPc ∧ (t.hart s.cur).x = h.x ∧ SameMem u t)) ∧
      (¬bad → (∀ r, ¬joins r) → (∀ r ∈ (u.cluster cl).rings, r.id ≠ (u.cluster cl).ringSerial) →
        Answers (.ringset ring rs1) s (fun t => ∃ r, t.ring cl (u.cluster cl).ringSerial = some r ∧ r.desc = d ∧
          r.group = u.groupOf s.cur ∧ some r.basePa = at_.map Prod.fst ∧ r.prods = (if cons then 0 else 1) ∧
          r.cons = (if cons then 1 else 0) ∧ r.formed = false ∧
          (t.hart s.cur).stg.rings.find slot = some { ring := (u.cluster cl).ringSerial, consumer := cons, acq := [], left := [] } ∧
          (t.hart s.cur).pc = s.nextPc ∧ (t.hart s.cur).x = h.x ∧ SameMem u t))) ∧
    (h.stg.rings.find slot = none → Answers (.ringsetWithdraw ring) s (Retires s s.nextPc)) ∧
    (∀ rs, h.stg.rings.find slot = some rs → Answers (.ringsetWithdraw ring) s (fun t =>
      (t.hart s.cur).stg.rings.find slot = none ∧
      t.hart s.cur = { h.retired s.nextPc with stg := { h.stg with rings := (t.hart s.cur).stg.rings } } ∧
      (∀ r, t.ring cl rs.ring = some r → r.formed = false) ∧ (∀ c, c ≠ cl → t.cluster c = s.cluster c) ∧
      OnlyHartAnd s t s.cur (fun t => { t with clusters := s.clusters }))) ∧
    (s.ringOf s.cur slot = none → Answers (.ringexp ring rs1) s (Raises s 25 (s.rx rs1))) ∧
    (∀ rs r, s.ringOf s.cur slot = some (rs, r) →
      let becomes : Ring → Prop := fun r' => Answers (.ringexp ring rs1) s (fun t =>
        t.hart s.cur = h.retired s.nextPc ∧ t.ring cl rs.ring = some r' ∧ (∀ id, id ≠ rs.ring → t.ring cl id = s.ring cl id) ∧
        (∀ c, c ≠ cl → t.cluster c = s.cluster c) ∧ OnlyHartAnd s t s.cur (fun t => { t with clusters := s.clusters }))
      let traps := Answers (.ringexp ring rs1) s (Raises s 25 (s.rx rs1))
      (rs.consumer = true ∨ 65535 < v → traps) ∧
      (rs.consumer = false → v ≤ 65535 →
        (∀ g, r.stage r.open_ = some g → (65535 < g.exp + v → traps) ∧
          (g.exp + v ≤ 65535 → becomes { r with stages := r.stages.map (fun t => if t.seq = g.seq then { t with exp := t.exp + v } else t) })) ∧
        (r.stage r.open_ = none → (65535 < r.p + r.pendExp + v → traps) ∧
          (r.p + r.pendExp + v ≤ 65535 → becomes { r with pendExp := r.pendExp + v })))))

/-- R213 to R218: cpset writes a shadow register, or resets the channel once its transfers are done; cplaunch captures them as one transfer
with the next identifier, which it writes to X[xd], is not ready while the channel has 8 in flight or the core 16, is illegal on a bad
configuration, and traps precisely where an endpoint in a fixed window fails its checks or an untranslated one touches the device registers;
in U-mode under Bare, addresses outside the windows count as untranslated (log 13, DEDUCED); that check 3 reports the start of the range is
the model's reading (log 48, DEDUCED). cpstat reports; waitc goes on where the outstanding counts are low enough and holds the strand where
not.

R214, R211, Table 5-3: a range with an end in a fixed window passes where it lies in one extent, the mode may use windows, the ring rules
admit every byte of it, and no way behind it has left the vault role; else it fails the first of these checks at its start, its start, or
its first failing byte. -/
def Obligations.CopyResults : Prop :=
  (∀ (s : State) (h pos : Nat) (store : Bool) (b : Nat × Nat), 0 < b.2 →
    let va : Nat → Nat := fun i => b.1 + i
    let ends := fun r => s.boundChk h pos store b = r
    let inside := SameExtent (winOf b.1) (winOf (va (b.2 - 1)))
    let noSum := (s.hart h).mode = .s ∧ (s.hart h).csr.mstatus.getLsbD 18 = false
    let kept : Nat → Prop := fun i => RingAllows s h pos store (va i)
    let backed : Nat → Prop := fun i => ¬(((∃ off, winOf (va i) = .vault off) ∨ ∃ w off, winOf (va i) = .ring w off) ∧
      ∃ p, WindowPlace s h (va i) p ∧ s.backing p = .unbacked)
    let first : (Nat → Prop) → Nat → Prop := fun p i => i < b.2 ∧ ¬p i ∧ ∀ j, j < i → p j
    (winOf b.1 = .none → winOf (va (b.2 - 1)) = .none → ends (.ok ())) ∧
    (winOf b.1 ≠ .none ∨ winOf (va (b.2 - 1)) ≠ .none → (¬inside → ends (.error (30, b.1))) ∧
      (inside → (noSum → ends (.error (if store then 15 else 13, b.1))) ∧
        (¬noSum → (∀ i, first kept i → ends (.error (25, va i))) ∧
          ((∀ i, i < b.2 → kept i) → (∀ i, first backed i → ends (.error (30, va i))) ∧
            ((∀ i, i < b.2 → backed i) → ends (.ok ()))))))) ∧
  ∀ (s : State) (rd rs1 sel : BitVec 5) (ch : BitVec 2) (na nb nc nd : BitVec 3), s.cur < 2048 →
    let h := s.hart s.cur
    let c := h.stg.chans.get Chan.start ch.toNat
    let a := s.rx rs1
    let x := s.newXfer s.cur c
    let chan : Chan → Staging → Prop := fun c' g =>
      g = { h.stg with chans := g.chans } ∧ ∀ j, g.chans.get Chan.start j = if j = ch.toNat then c' else h.stg.chans.get Chan.start j
    let reset := sel = 6 ∧ a.getLsbD 63 = true
    let bad := fld (c.sh.get 0 2) 32 32 ≠ 0 ∨ fld (c.sh.get 0 6) 3 61 ≠ 0 ∨ fld (c.sh.get 0 2) 0 32 = 0 ∨
      ((c.sh.get 0 6).getLsbD 0 = false ∧ overlap x.srcBound.1 x.srcBound.2 x.dstBound.1 x.dstBound.2 = true)
    let full := 8 ≤ c.xfers.length ∨ 16 ≤ (s.scoreboard (coreOf s.cur)).length
    let raw : Nat × Nat → Prop := fun r => x.virt = false ∨ (fld x.satp 60 4 ≠ 10 ∧ winOf r.1 = .none)
    let atSrc : Except (Nat × Nat) Unit → Prop := fun r => x.virt = true ∧ x.zero = false ∧ s.boundChk s.cur h.pos false x.srcBound = r
    let atDst : Except (Nat × Nat) Unit → Prop := fun r => x.virt = true ∧ s.boundChk s.cur h.pos true x.dstBound = r
    let okSrc := x.virt = false ∨ x.zero = true ∨ atSrc (.ok ())
    let okDst := x.virt = false ∨ atDst (.ok ())
    let regSrc := x.zero = false ∧ raw x.srcBound ∧ regRange x.srcBound = true
    let regDst := raw x.dstBound ∧ regRange x.dstBound = true
    let traps : Nat → Nat → Prop := fun code va => ¬full → ¬bad → Answers (.cplaunch rd ch) s (Raises s code (BitVec.ofNat 64 va))
    let n := s.counts s.cur
    let few := n.1 ≤ na.toNat ∧ n.2.1 ≤ nb.toNat ∧ n.2.2.1 ≤ nc.toNat ∧ n.2.2.2 ≤ nd.toNat
    (sel.toNat < 7 → ¬reset → Answers (.cpset ch rs1 sel) s (RetiresStg s (chan { c with sh := c.sh.ins sel.toNat a }))) ∧
    (reset → c.xfers = [] →
      Answers (.cpset ch rs1 sel) s (RetiresStg s (chan { c with wm := c.nextId, err := false, above := [] }))) ∧
    (reset → c.xfers ≠ [] → Answers (.cpset ch rs1 sel) s (Waits s (.cpReset ch.toNat))) ∧
    (¬full → ¬bad → okSrc → okDst → ¬regSrc → ¬regDst → ∃ e f, Answers (.cplaunch rd ch) s (WritesXStg s rd (c.nextId.setWidth 64)
      (chan { c with nextId := c.nextId + 1, xfers := c.xfers ++ [{ x with srcRing := e, dstRing := f }] }))) ∧
    (∀ code va, (atSrc (.error (code, va)) → traps code va) ∧ (okSrc → atDst (.error (code, va)) → traps code va)) ∧
    (okSrc → okDst → (regSrc → traps 7 x.srcBound.1) ∧ (¬regSrc → regDst → traps 7 x.dstBound.1)) ∧
    (full → Answers (.cplaunch rd ch) s (fun t => t = s)) ∧
    (¬full → bad → Answers (.cplaunch rd ch) s (RaisesIllegal s (encode (.cplaunch rd ch)))) ∧
    (∃ v, Answers (.cpstat rd ch) s (WritesX s rd v s.nextPc) ∧ fld v 0 32 = c.wm.toNat ∧ v.getLsbD 32 = c.err ∧
      fld v 33 4 = c.xfers.length % 16 ∧ fld v 37 27 = 0) ∧
    (few → Answers (.waitc na nb nc nd) s (Retires s s.nextPc)) ∧
    (¬few → Answers (.waitc na nb nc nd) s (Waits s (.waitc na.toNat nb.toNat nc.toNat nd.toNat)))

/-- R220, R224, R219: strmopen takes the lowest free endpoint, or writes -1, or, where one is free, -2 (which of the two codes comes first
is log 38, DEDUCED); strmclose frees one once its older messages are done, unless a parked task keeps it (R223); tack queues a direction
split for a link and writes its result code; wayset begins a change of roles where it is legal and none is under way on the slice; it is
illegal in U-mode, with a nonzero reserved field or a role 11, and where it changes the role of a way that holds a valid queue's pinned
storage, a resident context's VST replica, or the area of a valid TSAVE entry. The codes of tack are tested in the order 3, 2, 4, 1 (log 38,
the model's choice). -/
def Obligations.StreamAndTurnResults : Prop :=
  ∀ (s : State) (rd rs1 rs2 : BitVec 5),
    let h := s.hart s.cur
    let a := s.rx rs1
    let b := s.rx rs2
    let strand := s.cur < 2048
    let opens := Instr.strmopen rd rs1
    let ep := a.toNat
    let isOpen := ∃ x, s.endpoint s.cur ep = some x ∧ x.parked = none
    let lk := linkOf (fld a 2 2) (fld a 0 2)
    let k := s.link lk.1
    let mine := if s.cur < 2048 then s.ctxOf s.cur else none
    let wrong := fld a 0 2 = 3 ∨ fld a 4 60 ≠ 0 ∨ b.toNat < 2 ∨ linkGroups lk.1 - 2 < b.toNat
    let granted := 2048 ≤ s.cur ∨ ∃ c, s.ctxOf s.cur = some c ∧ (s.ctx c).ctl.getLsbD 1 = true
    let down := k.down = true ∨ ∃ d ∈ linkDies lk.1, s.dieUp d = false
    let full := 8 ≤ k.fifo.length ∨ (mine ≠ none ∧ 2 ≤ (k.fifo.filter (fun e => e.1 = mine)).length)
    let tack : Word → Prop := fun v => Answers (.tack rd rs1 rs2) s (WritesX s rd v s.nextPc)
    (strand → fld a 13 51 = 0 → (∀ e, e < 4 → (s.endpoint s.cur e).isSome = true) → Answers opens s (WritesX s rd (-1) s.nextPc)) ∧
    (strand → fld a 13 51 = 0 → (∃ e, e < 4 ∧ s.endpoint s.cur e = none) → 2048 ≤ fld a 0 12 ∨ fld a 0 12 = s.cur →
      Answers opens s (WritesX s rd (-2) s.nextPc)) ∧
    (strand → fld a 13 51 = 0 → fld a 0 12 < 2048 → fld a 0 12 ≠ s.cur →
      ∀ e, e < 4 → s.endpoint s.cur e = none → (∀ j, j < e → (s.endpoint s.cur j).isSome = true) →
      Answers opens s (fun t => XHolds s rd (BitVec.ofNat 64 e) t ∧ SameMem s t ∧
        (∃ x, t.endpoint s.cur e = some x ∧ x.peer = fld a 0 12 ∧ x.recv = a.getLsbD 12 ∧ x.buf = []) ∧
        (∀ j, j ≠ e → t.endpoint s.cur j = s.endpoint s.cur j) ∧ (t.hart s.cur).pc = s.nextPc ∧
        ∀ i, i ≠ s.cur → i ≠ fld a 0 12 → t.hart i = s.hart i)) ∧
    (strand → fld a 13 51 ≠ 0 → Answers opens s (RaisesIllegal s (encode opens))) ∧
    (strand → ep ≤ 3 → isOpen → s.epIdle s.cur ep = true →
      Answers (.strmclose rs1) s (fun t => t.endpoint s.cur ep = none ∧
        (∀ j, j ≠ ep → (t.endpoint s.cur j).isSome = (s.endpoint s.cur j).isSome) ∧ (t.hart s.cur).pc = s.nextPc ∧ (t.hart s.cur).x = h.x ∧ SameMem s t)) ∧
    (strand → ep ≤ 3 → isOpen → s.epIdle s.cur ep = false →
      Answers (.strmclose rs1) s (Waits s (.strmclose ep))) ∧
    (strand → 3 < ep ∨ ¬isOpen →
      Answers (.strmclose rs1) s (RaisesIllegal s (encode (.strmclose rs1)))) ∧
    (wrong → tack 3) ∧ (¬wrong → ¬granted → tack 2) ∧ (¬wrong → granted → down → tack 4) ∧
    (¬wrong → granted → ¬down → full → tack 1) ∧
    (¬wrong → granted → ¬down → ¬full → Answers (.tack rd rs1 rs2) s (fun t => XHolds s rd 0 t ∧
      t.link lk.1 = { k with fifo := k.fifo ++ [(mine, if lk.2 then b.toNat else linkGroups lk.1 - b.toNat)] } ∧
      (∀ j, j ≠ lk.1 → t.link j = s.link j) ∧ (t.hart s.cur).pc = s.nextPc ∧
      (∀ i, i ≠ s.cur → t.hart i = s.hart i) ∧ SameMem s t)) ∧
    (let core := fld a 0 9
      let pinned : Nat → Prop := fun w => ∃ q x, (q, x) ∈ s.queues ∧ x.valid = true ∧ queueHome q = core ∧ fld x.qbat 32 4 = w
      let replica : Nat → Prop := fun w => ∃ c x, (c, x) ∈ s.ctxs ∧ (x.ctl.getLsbD 0 = true ∨ x.entering = true) ∧
        (core, w) ∈ vstWays (core / 128) (x.vst.get 0 (core / 128))
      let area : Nat → Prop := fun w => ∃ k e, (k, e) ∈ (s.cluster (clusterOf core)).tsave ∧ 128 ≤ e.toNat ∧
        coreAt (clusterOf core) (e.toNat % 4) = core ∧ e.toNat / 4 % 16 = w
      let changes : Nat → Prop := fun w => s.wayRole core w ≠ fld b (2 * w) 2
      (s.waysetOk a b = true ↔ fld a 9 55 = 0 ∧ fld b 32 32 = 0 ∧
        ∀ w, w < 16 → fld b (2 * w) 2 ≠ 3 ∧ (changes w → ¬pinned w ∧ ¬replica w ∧ ¬area w)) ∧
      let go := h.mode ≠ .u ∧ s.waysetOk a b = true
      (go → (s.core core).waysNew = none → Answers (.wayset rs1 rs2) s (fun t =>
        t.core core = { s.core core with waysNew := some (b.setWidth 32) } ∧ (∀ c, c ≠ core → t.core c = s.core c) ∧
        t.hart s.cur = { h with wait := .wayset core } ∧ (∀ i, i ≠ s.cur → t.hart i = s.hart i) ∧ SameMem s t)) ∧
      (go → (s.core core).waysNew ≠ none → Answers (.wayset rs1 rs2) s (fun t => t = s)) ∧
      (¬go → Answers (.wayset rs1 rs2) s (RaisesIllegal s (encode (.wayset rs1 rs2)))))

/-! ## Queues and tasks -/

/-- R231, R235, R236, Table 10-4: qpush reads the record of 64 bytes at X[xs2], once every older scalar access of the hart is done, those of
remote windows and the queries of wdq among them, and appends it with S = 0, behind the records of earlier cy and those of its cy from harts
of no higher number, where the queue holds fewer than W records: it writes 0, or 1 where the queue is full, or 2 where the queue is not the
hart's to push to, or the record is a launch record pushed in U-mode. qpop removes the record of lowest key among the 64 oldest, the older
of equals, writes its bytes to memory, and 0; or it writes 1 where the queue is empty, or 2 where it is bound or not the hart's. An address
that is no multiple of 64 is misaligned. The lines that the record lies in come nearer (R118; the policy is log 57). That a management hart
acts for every context is the model's reading (log 24). -/
def Obligations.QueueResults : Prop :=
  ∀ (s : State) (rd rs1 rs2 : BitVec 5) (xs : Nat → Hit), let h := s.hart s.cur
    let q := fld (s.rx rs1) 0 10
    let va := s.rx rs2
    let push := Instr.qpush rd rs1 rs2
    let pop := Instr.qpop rd rs1 rs2
    let legal := fld (s.rx rs1) 10 54 = 0
    let own := (s.queue q).valid = true ∧ (2048 ≤ s.cur ∨ s.ctxOf s.cur = some (s.queue q).ctx)
    let hits : Acc' → Prop := fun a => ∀ i, i < 8 →
      s.access s.cur (va + BitVec.ofNat 64 (8 * i)) 8 a = .ok (xs i) ∧ MemoryAt (xs i).pa
    let u := s.setADs xs 8
    let quiet := h.loads = [] ∧ h.stores = [] ∧ h.remotes = [] ∧ QueriesTaken s s.cur h.pos ∧ s.held s.cur h.pos va.toNat 64 false = false
    let idle := (∀ i, i < 8 → h.storing (xs i).pa 8 = false ∧ h.loading (xs i).pa 8 = false) ∧ s.held s.cur h.pos va.toNat 64 true = false
    (¬legal → Answers push s (RaisesIllegal s (encode push)) ∧ Answers pop s (RaisesIllegal s (encode pop))) ∧
    (legal → va.toNat % 64 ≠ 0 → Answers push s (Raises s 4 va) ∧ Answers pop s (Raises s 6 va)) ∧
    (legal → va.toNat % 64 = 0 → s.dieUp (q / 256) = true → hits .load →
      (¬quiet → Answers push s (fun t => t = s)) ∧
      (quiet → ∀ d : BitVec 512,
        (∀ i, i < 512 → d.getLsbD i = if i = 57 then false else (u.byte ((xs (i / 64)).pa + i % 64 / 8)).getLsbD (i % 8)) →
        let bad := ¬own ∨ (d.getLsbD 56 = true ∧ h.mode = .u)
        let x := s.queue q
        let before : Record → Prop := fun r => r.at_ < s.dev.cy ∨ r.rank ≤ s.cur + 1
        let does : (State → State → Prop) → Prop := fun p => Answers push s (fun t => ∃ u', CachesOnly u u' s.cur ∧ p u' t)
        (bad → does (fun u' => WritesX u' rd 2 s.nextPc)) ∧
        (¬bad → x.wmark ≤ x.recs.length → does (fun u' => QueueDone u' rd 1 q x)) ∧
        (¬bad → x.recs.length < x.wmark → ∀ i, i ≤ x.recs.length →
          (∀ j r, x.recs[j]? = some r → (j < i → before r) ∧ (j = i → ¬before r)) →
          does (fun u' => QueueDone u' rd 0 q { x with
            recs := x.recs.take i ++ { data := d, at_ := s.dev.cy, rank := s.cur + 1, overflow := false, serial := x.serial } :: x.recs.drop i
            serial := x.serial + 1 })))) ∧
    (legal → va.toNat % 64 = 0 → s.dieUp (q / 256) = true → hits .store →
      let recs := (s.queue q).recs
      (¬idle → Answers pop s (fun t => t = s)) ∧
      (idle → ¬own ∨ (s.queue q).bound = true → Answers pop s (WritesX s rd 2 s.nextPc)) ∧
      (idle → own → (s.queue q).bound = false → recs = [] → Answers pop s (WritesX s rd 1 s.nextPc)) ∧
      (idle → own → (s.queue q).bound = false → (∀ r ∈ recs, r.overflow = false) →
        ∀ pa, (∀ i, i < 8 → (xs i).pa = pa + 8 * i) →
        ∀ (k : Nat) (r : Record), k < 64 → recs[k]? = some r →
        (∀ (j : Nat) (r' : Record), j < 64 → recs[j]? = some r' → r.key ≤ r'.key ∧ (r'.key = r.key → k ≤ j)) →
        Answers pop s (fun t =>
          XHolds u rd 0 t ∧ Tracked { s.queue q with recs := recs.take k ++ recs.drop (k + 1) } (t.queue q) ∧
          (∀ j, j ≠ q → t.queue j = s.queue j) ∧
          (∀ i, i < 64 → t.byte (pa + i) = (r.data >>> (8 * i)).setWidth 8) ∧ SameMemBut u t pa 64 ∧
          t.hart s.cur = { (u.hart s.cur).retired s.nextPc with
            x := (t.hart s.cur).x, resv := (t.hart s.cur).resv, detector := (t.hart s.cur).detector } ∧
          ∀ j, j ≠ s.cur → t.hart j = { u.hart j with resv := (t.hart j).resv })))

/-- R237, R239, R241, R242: exit reads the list of its successors at X[xs1] and, of each block, the words at offsets 16 to 31, each as ld
does, finds the join counters writable as for sw where J = 1, and then holds the strand until its older accesses have performed; with no
successor it holds it at once. A word in a remote window leaves as a message, whose answer the strand waits for (log 27). yield retires and
holds the strand for at most 64 cy, for the other strands of its core that are ready: those that run, wait for nothing and may issue in this
cy are its candidates, from which the turns strike what has issued or is not ready (log 44, DEDUCED). wdq sends a query for a counter of the
context to a doubleword of the own scratch window, and access-faults at every other place. gangarm arms a gang with a tick, or disarms it
where the tick is 0; it is illegal where no entry is free. -/
def Obligations.TaskResults : Prop :=
  ∀ (s : State) (rs1 rs2 cnt : BitVec 5), let h := s.hart s.cur
    let a := s.rx rs1
    let b := s.rx rs2
    let strand := s.cur < 2048
    let exits := Instr.exit rs1 cnt
    let n := cnt.toNat
    (strand → n = 0 → Answers exits s (Waits s (.exit []))) ∧
    (strand → 0 < n → n ≤ 4 → a.toNat % 8 ≠ 0 → Answers exits s (Raises s 4 a)) ∧
    (¬strand ∨ 4 < n → Answers exits s (RaisesIllegal s (encode exits))) ∧
    (strand → 0 < n → n ≤ 4 → a.toNat % 8 = 0 →
      ((∃ r ∈ h.remotes, r.img ≠ none) → Answers exits s (fun t => t = s)) ∧
      ((∀ r ∈ h.remotes, r.img = none) → ∀ (S : Nat → State) (X : Nat → Hit), S 0 = s.onHart s.cur (fun t => { t with imageIn := some [] }) →
      let word : Nat → Nat := fun i => ((S i).setAD (X i)).seenNat (X i).pa 8
      let reads : Nat → Word → Prop := fun i va =>
        ReadsNow (S i) va 8 (X i) ∧ S (i + 1) = ((S i).setAD (X i)).readHomed s.cur (X i) 8
      let blk : Nat → Nat := word
      let w : Nat → BitVec 128 := fun i => BitVec.ofNat 128 (word (n + 2 * i) + word (n + 2 * i + 1) * 2 ^ 64)
      (∀ i, i < n → reads i (a + BitVec.ofNat 64 (8 * i))) →
      (∀ i, i < n → reads (n + 2 * i) (BitVec.ofNat 64 (blk i + 16)) ∧ reads (n + 2 * i + 1) (BitVec.ofNat 64 (blk i + 24)) ∧
        blk i % 128 = 0 ∧ 1 ≤ fld (w i) 0 5 ∧ fld (w i) 0 5 ≤ 16 ∧ 1 ≤ fld (w i) 5 5 ∧ fld (w i) 5 5 ≤ 16 ∧ fld (w i) 10 22 = 0 ∧
        fld (w i) 32 2 ≠ 3 ∧ fld (w i) 48 16 = 0 ∧ (s.queue (fld (w i) 37 10)).valid = true ∧ (s.queue (fld (w i) 37 10)).bound = false ∧
        s.ctxOf s.cur = some (s.queue (fld (w i) 37 10)).ctx ∧ s.dieUp (fld (w i) 37 10 / 256) = true) →
      (∀ i, i < n → ((w i).getLsbD 47 = false → S (3 * n + i + 1) = S (3 * n + i)) ∧
        ((w i).getLsbD 47 = true → S (3 * n + i + 1) = (S (3 * n + i)).setAD (X (3 * n + i)) ∧
          (S (3 * n + i)).access s.cur (BitVec.ofNat 64 (blk i + 28)) 4 .store = .ok (X (3 * n + i)))) →
      Answers exits s (Waits (S (4 * n)) (.exit ((List.range n).map (fun i =>
        { block := blk i, key := fld (w i) 64 32, queue := fld (w i) 37 10,
          join := if (w i).getLsbD 47 then some (X (3 * n + i)).pa else none })))))) ∧
    (strand → 0 < n → n ≤ 4 → a.toNat % 8 = 0 → (∀ r ∈ h.remotes, r.img = none) → ∀ x, s.access s.cur a 8 .load = .ok x →
      (isRemote x.pa = true → fld ((s.dev.qps.get [] (fld ((s.dev.windows.get [] (x.pa / 2 ^ 40 - 128)).getD 0 0) 1 12)).getD 0 0) 1 2 = 1 →
        Answers exits s (fun t => (t.hart s.cur).wait = .exitRead rs1.toNat n a ∧ (t.hart s.cur).pc = h.pc ∧
          ∃ r, (t.hart s.cur).remotes = h.remotes ++ [r] ∧ r.img = some (a.toNat / 8))) ∧
      (∀ off, regionOf x.pa = .reg off → s.devLoad off 8 = none → Answers exits s (fun t => ∃ u, u.hart s.cur = { h with imageIn := some [] } ∧
        OnlyHart s u s.cur ∧ Raises u 5 a t))) ∧
    (strand → Answers .yield s (fun t => ∃ others, t.hart s.cur = { h.retired s.nextPc with wait := .yield_ (s.dev.cy + 64) others } ∧
      (∀ k, k ∈ others ↔ k / 4 = s.cur / 4 ∧ k ≠ s.cur ∧ s.runnable k = true ∧ (s.hart k).wait = .none ∧
        (s.hart k).arr.back = false ∧ s.loweredNow k = false) ∧ OnlyHart s t s.cur)) ∧
    (¬strand → Answers .yield s (RaisesIllegal s (encode .yield))) ∧
    (strand → fld a 6 58 = 0 → b.toNat % 8 ≠ 0 → Answers (.wdq rs1 rs2) s (Raises s 6 b)) ∧
    (strand → fld a 6 58 = 0 → b.toNat % 8 = 0 →
      let virt := h.effMode .store = .u ∨ (h.effMode .store = .s ∧ fld h.csr.satp 60 4 = 10)
      let own := virt ∧ ∃ o, winOf b.toNat = .scratch o
      (own → ∀ x, s.access s.cur b 8 .store = .ok x → Answers (.wdq rs1 rs2) s (fun t => t.hart s.cur = h.retired s.nextPc ∧
        t.dev = { s.dev with queries := s.dev.queries ++
          [{ hart := s.cur, ctx := (s.ctxOf s.cur).getD 16, counter := fld a 0 6, pa := x.pa, pos := h.pos, answer := none }] } ∧
        OnlyHartAnd s t s.cur (fun t => { t with dev := s.dev }))) ∧
      (¬own → Answers (.wdq rs1 rs2) s (Raises s 7 b))) ∧
    (¬strand ∨ fld a 6 58 ≠ 0 → Answers (.wdq rs1 rs2) s (RaisesIllegal s (encode (.wdq rs1 rs2)))) ∧
    (let rest := s.dev.gangs.filter (fun e => decide (¬(e.1 = fld a 32 4 ∧ e.2.1 = fld a 0 32)))
      let go := h.mode ≠ .u ∧ fld a 36 28 = 0
      let becomes : List (Nat × Nat × Word) → Prop := fun g => Answers (.gangarm rs1 rs2) s (fun t =>
        t.hart s.cur = h.retired s.nextPc ∧ t.dev = { s.dev with gangs := g } ∧ (∀ q, Tracked (s.queue q) (t.queue q)) ∧
        OnlyHartAnd s t s.cur (fun t => { t with dev := s.dev, queues := s.queues }))
      (go → b = 0 → becomes rest) ∧ (go → b ≠ 0 → rest.length < 16 → becomes (rest ++ [(fld a 32 4, fld a 0 32, b)])) ∧
      (¬go ∨ (b ≠ 0 ∧ 16 ≤ rest.length) → Answers (.gangarm rs1 rs2) s (RaisesIllegal s (encode (.gangarm rs1 rs2)))))

/-- R251 to R255, Table 10-7: tcommit and tskip post a ticket at the home core of the tile that their word names, and tcfg a draw; each
retires at the unit's acceptance, upon which the unit applies, the earliest arrival first, what it can of its tickets; it is held for 64 cy
before it is tried again while the unit is full, and raises TICKET (31) with its word where the ticket or the draw may not be posted.
tcommit's packet is the 320 bytes at X[xs1] in the own scratch window. -/
def Obligations.TileCommitResults : Prop :=
  ∀ (s : State) (rs1 rs2 : BitVec 5), s.cur < 2048 → let h := s.hart s.cur
    let a := s.rx rs1
    let b := s.rx rs2
    let core : Nat → Nat := fun tile => tile % 4 * 128 + tile / 4 * 37 % 128
    let up : Nat → Prop := fun tile => s.backing (scratchBase (core tile)) = .ok
    let posts : Instr → Word → Word → Word → Option (Word × List Byte) → Prop := fun i x1 x2 w p =>
      let tile := fld w 40 16
      let k : Ticket := { tile := tile, draw := fld w 24 16, prim := fld w 0 24, run := fld w 56 8 + 1, packet := p, ctx := (s.ctxOf s.cur).getD 16 }
      let mark : Draw → Draw := fun d => if d.serial = k.draw ∧ d.cls ≠ 2 then { d with seen := d.seen ++ [(k.prim, k.run)] } else d
      let waiting := (s.core (core tile)).tickets.filter (fun x => decide (s.ticketNow x < x.run))
      let full := 64 ≤ waiting.length ∧ s.ticketNow k < k.run
      let fits := ∃ T d task, s.tile tile = some T ∧ T.draws.find? (fun d => decide (d.serial = k.draw)) = some d ∧ h.task = some task ∧
        d.cls = task.cls ∧ k.prim + k.run ≤ d.np ∧
        (d.cls = 2 ∨ ∀ r ∈ d.seen, k.prim + k.run ≤ r.1 ∨ r.1 + r.2 ≤ k.prim)
      (¬up tile → Answers i s (Raises (s.offlineNote s.cur w.toNat 7) 7 w)) ∧
      (up tile → ¬fits → Answers i s (Raises s 31 w)) ∧
      (up tile → fits → full → Answers i s (Waits s (.unit (encode i) x1 x2 (s.dev.cy + 64)))) ∧
      (up tile → fits → ¬full → Answers i s (fun t => ∃ u v : State,
        u.core (core tile) = { s.core (core tile) with
          tiles := (s.core (core tile)).tiles.map (fun x => if x.tile = tile then { x with draws := x.draws.map mark } else x)
          tickets := (s.core (core tile)).tickets ++ [k] } ∧
        (∀ c, c ≠ core tile → u.core c = s.core c) ∧ { u with cores := s.cores } = s ∧
        Relation.ReflTransGen (fun x y => ∃ j, x.applyTicket (core tile) j = some y ∧ ∀ m, m < j → x.applyTicket (core tile) m = none) u v ∧
        (∀ j, v.applyTicket (core tile) j = none) ∧ Retires v s.nextPc t))
    posts (.tskip rs1) a 0 a none ∧
    (fld b 56 8 ≠ 0 → Answers (.tcommit rs1 rs2) s (RaisesIllegal s (encode (.tcommit rs1 rs2)))) ∧
    (fld b 56 8 = 0 → a.toNat % 64 ≠ 0 → Answers (.tcommit rs1 rs2) s (Raises s 4 a)) ∧
    (fld b 56 8 = 0 → a.toNat % 64 = 0 → ∀ off y, winOf a.toNat = .scratch off → (∃ o, winOf (a.toNat + 319) = .scratch o) →
      h.effMode .load = .u ∨ (h.effMode .load = .s ∧ fld h.csr.satp 60 4 = 10) → s.resolve s.cur a.toNat 8 .load = .ok y →
      let pa := scratchBase (coreOf s.cur) + off
      let ready := (∀ x ∈ h.stores, shareGranule x.pa x.width pa 320 = false) ∧
        s.vecTouches s.cur h.pos pa 320 (fun e => decide (e.q = .vsq)) = false ∧ s.svOk s.cur h.pos = true ∧
        s.held s.cur h.pos a.toNat 320 false = false
      (¬ready → Answers (.tcommit rs1 rs2) s (Waits s .none)) ∧
      (ready → posts (.tcommit rs1 rs2) a b b
        (some (BitVec.ofNat 64 (s.mem64 pa 8), (List.range 256).map (fun i => s.byte (pa + 64 + i)))))) ∧
    (let i := Instr.tcfg rs1 rs2
      let tile := fld a 40 16
      let c := s.core (core tile)
      let cls := fld b 3 2
      let legal := fld a 0 24 = 0 ∧ fld a 56 8 = 0 ∧ fld b 60 4 = 0 ∧ fld b 6 2 = 0 ∧ fld b 0 3 < 4 ∧ cls ≠ 3 ∧ fld b 8 12 < 3072
      let d : Draw :=
        { ctx := (s.ctxOf s.cur).getD 16, serial := fld a 24 16, np := fld b 20 24, pi := fld b 44 16, cls := cls,
          blend := fld b 0 3, full := b.getLsbD 5, off := fld b 8 12, seen := [], applied := 0, appliedList := [] }
      let bad := d.np = 0 ∨ (cls = 1 ∧ d.pi = 0) ∨ (cls ≠ 1 ∧ d.pi ≠ 0)
      let done : List Tile → Prop := fun ts => Answers i s (fun t => t.hart s.cur = h.retired s.nextPc ∧
        t.core (core tile) = { c with tiles := ts } ∧ (∀ k, k ≠ core tile → t.core k = s.core k) ∧
        OnlyHartAnd s t s.cur (fun t => { t with cores := s.cores }))
      (¬legal → Answers i s (RaisesIllegal s (encode i))) ∧
      (legal → ¬up tile → Answers i s (Raises (s.offlineNote s.cur a.toNat 7) 7 a)) ∧
      (legal → up tile → bad → Answers i s (Raises s 31 a)) ∧
      (legal → up tile → ¬bad → s.tile tile = none → 32 ≤ c.tiles.length → Answers i s (Raises s 31 a)) ∧
      (legal → up tile → ¬bad → s.tile tile = none → c.tiles.length < 32 → done (c.tiles ++ [{ tile := tile, draws := [d] }])) ∧
      (∀ T l, s.tile tile = some T → T.draws.getLast? = some l →
        (legal → up tile → ¬bad → d.serial ≠ (l.serial + 1) % 65536 → Answers i s (Raises s 31 a)) ∧
        (legal → up tile → ¬bad → d.serial = (l.serial + 1) % 65536 → 8 ≤ T.draws.length →
          Answers i s (Waits s (.unit (encode i) a b (s.dev.cy + 64)))) ∧
        (legal → up tile → ¬bad → d.serial = (l.serial + 1) % 65536 → T.draws.length < 8 →
          done (c.tiles.map (fun x => if x.tile = tile then { x with draws := x.draws ++ [d] } else x)))))

/-! ## Barriers -/

/-- R274, R275, R277, R278: bwcfg configures or releases the core's wire state, bwarr marks an arrival outstanding with done 0 and never
waits, bwtst reports, and wev goes on where every selected wire is done, writing evword, and else holds the strand. Each raises an
illegal-instruction exception in the cases its rule lists. That the arrivals which a strand made before it released its state are heard by
the participants of its context that then stand configured on the wire, and by no later configuration, is the model's reading (log 25,
DEDUCED). -/
def Obligations.BarrierResults : Prop :=
  ∀ (s : State) (rd rs1 : BitVec 5) (wire : BitVec 3), s.cur < 2048 → let h := s.hart s.cur
    let core := coreOf s.cur
    let n := wire.toNat
    let v := s.rx rs1
    let x := s.wire core n
    let mine : Nat → Prop := fun k => (s.wire core k).part = some s.cur ∧ (s.wire core k).parked = none
    let done : Instr → Wire → Prop := fun i y => Answers i s (fun t => t.hart s.cur = h.retired s.nextPc ∧
      t.wire core n = y ∧ (∀ k, k ≠ n → t.wire core k = s.wire core k) ∧ (∀ c, c ≠ core → t.core c = s.core c) ∧
      t.core core = { s.core core with wires := (t.core core).wires } ∧ OnlyHartAnd s t s.cur (fun t => { t with cores := s.cores }))
    let free := n < 3 ∧ ((mine n ∧ x.arrival = none) ∨ x.part = none)
    let cols : BitVec 16 := BitVec.ofNat 16 (fld v 0 16)
    let rows : BitVec 8 := BitVec.ofNat 8 (fld v 16 8)
    let heirs := (wireMembers core n (BitVec.allOnes 16) (BitVec.allOnes 8)).filter (fun c =>
      decide (c ≠ core) && (s.wire c n).part.isSome && decide ((s.wire c n).ctx = x.ctx))
    let takes : Wire → Prop := fun y => Answers (.bwcfg rs1 wire) s (fun t => t.hart s.cur = h.retired s.nextPc ∧
      t.wire core n = y ∧ (∀ c k, c ≠ core → k ≠ n → t.wire c k = s.wire c k) ∧ (∀ k, k ≠ n → t.wire core k = s.wire core k) ∧
      (∀ c, c ≠ core → t.wire c n = { s.wire c n with heard := (t.wire c n).heard } ∧ ∀ a, a ∈ (t.wire c n).heard ↔
        a ∈ (s.wire c n).heard ∨ (c ∈ heirs ∧ a.1 = core ∧ (s.wire c n).count ≤ a.2.1 ∧ (a.2.1, a.2.2) ∈ x.votes)) ∧
      (∀ c, t.core c = { s.core c with wires := (t.core c).wires }) ∧ OnlyHartAnd s t s.cur (fun t => { t with cores := s.cores }))
    let misses := core ∉ wireMembers core n cols rows ∨ (n = 0 ∧ ∃ r, r < 8 ∧ r ≠ rowOf core ∧ v.getLsbD (16 + r) = true) ∨
      (n = 1 ∧ ∃ c, c < 16 ∧ c ≠ colOf core ∧ v.getLsbD c = true)
    let cfg := Instr.bwcfg rs1 wire
    let arr := Instr.bwarr rs1 wire
    let sel : Nat → Prop := fun k => v.getLsbD (2 * k) = true
    let waits := Instr.wev rd rs1
    let ok := v &&& ~~~0x15#64 = 0 ∧ ∀ k, k < 3 → sel k → mine k
    (free → v = 0 → takes Wire.reset) ∧
    (free → v.getLsbD 24 = true → fld v 32 32 = 0 → fld v 26 2 = 0 → fld v 28 4 < 13 → ¬misses →
      takes { part := some s.cur, parked := none, ctx := (s.ctxOf s.cur).getD 16, cols := cols, rows := rows, or_ := v.getLsbD 25,
              bound := 2 ^ (12 + fld v 28 4), count := 0, done := true, vote := false, arrival := none, votes := [], heard := [] }) ∧
    (¬free ∨ fld v 32 32 ≠ 0 ∨ fld v 26 2 ≠ 0 ∨ (v.getLsbD 24 = false ∧ v ≠ 0) ∨ (v.getLsbD 24 = true ∧ (13 ≤ fld v 28 4 ∨ misses)) →
      Answers cfg s (RaisesIllegal s (encode cfg))) ∧
    (n < 3 → fld v 1 63 = 0 → mine n → x.arrival = none → done arr { x with done := false, arrival := some (v.getLsbD 0, h.pos) }) ∧
    (3 ≤ n ∨ fld v 1 63 ≠ 0 ∨ ¬mine n ∨ x.arrival ≠ none → Answers arr s (RaisesIllegal s (encode arr))) ∧
    (n < 3 → mine n →
      Answers (.bwtst rd wire) s (WritesX s rd (BitVec.ofNat 64 (x.done.toNat + 2 * x.vote.toNat + x.count % 256 * 256 + 65536)) s.nextPc)) ∧
    (n < 3 → ¬mine n → Answers (.bwtst rd wire) s (WritesX s rd 1 s.nextPc)) ∧
    (3 ≤ n → Answers (.bwtst rd wire) s (RaisesIllegal s (encode (.bwtst rd wire)))) ∧
    (ok → (∀ k, k < 3 → sel k → (s.wire core k).done = true) → ∃ w, Answers waits s (WritesX s rd w s.nextPc) ∧
      (∀ k, k < 3 → mine k → w.getLsbD (2 * k) = (s.wire core k).done ∧ w.getLsbD (2 * k + 1) = (s.wire core k).vote ∧
        fld w (8 + 8 * k) 8 = (s.wire core k).count % 256) ∧
      (∀ k, k < 3 → ¬mine k → w.getLsbD (2 * k) = true ∧ w.getLsbD (2 * k + 1) = false ∧ fld w (8 + 8 * k) 8 = 0) ∧
      fld w 6 2 = 0 ∧ fld w 32 32 = 0) ∧
    (ok → (∃ k, k < 3 ∧ sel k ∧ (s.wire core k).done = false) → Answers waits s (Waits s (.wev rd.toNat v.toNat s.dev.cy))) ∧
    (¬ok → Answers waits s (RaisesIllegal s (encode waits)))

/-! ## Own system instructions -/

/-- R144, R101, R315: upret goes back to upepc and gives UE back its saved value; a held resume state is reinstated where that is back at
the interrupted code (log 66's reading of which traps and upcalls a return has ended). It is illegal outside U-mode. fqpop writes the 64 bytes of the
oldest entry of the context's fault queue to memory and removes it, with result 0; the result is 1 where the queue is empty and 2 where
it is not valid. The entry's eight stores are those of memory, with no A or D bit still to be set; to a register or a remote window each goes
as log 27 reads R315. -/
def Obligations.UpcallReturnAndFaultQueue : Prop :=
  ∀ (s : State) (rd rs1 : BitVec 5), let h := s.hart s.cur
    (s.cur < 2048 → h.mode = .u → Answers .upret s (fun t =>
      let u := t.hart s.cur
      u = { h with pc := h.csr.upepc, csr := { h.csr with upvec := u.csr.upvec }, instret := h.instret + 1, pos := h.pos + 1, vec := u.vec } ∧
      (∀ i, u.csr.upvec.getLsbD i = h.csr.upvec.getLsbD (if i = 0 then 1 else i)) ∧
      Returned h.vec 0 .u h.csr.upepc u.vec ∧ OnlyHart s t s.cur)) ∧
    (2048 ≤ s.cur ∨ h.mode ≠ .u → Answers .upret s (RaisesIllegal s (encode .upret))) ∧
    (let i := Instr.fqpop rd rs1
      let x := s.rx rs1
      let c := if 2048 ≤ s.cur then fld x 0 4 else (s.ctxOf s.cur).getD 16
      let q := s.ctx c
      let legal := if 2048 ≤ s.cur then fld x 4 2 = 0 else fld x 0 6 = 0
      let va : Word := x &&& ~~~63#64
      let src := q.fqbase.toNat / 4096 * 4096 % 2 ^ 48 + 64 * (q.fqhead % 2 ^ (fld q.fqctl 0 4 + 6))
      (¬legal → Answers i s (RaisesIllegal s (encode i))) ∧
      (legal → q.fqctl.getLsbD 30 = false → Answers i s (WritesX s rd 2 s.nextPc)) ∧
      (legal → q.fqctl.getLsbD 30 = true → q.fqtail ≤ q.fqhead → Answers i s (WritesX s rd 1 s.nextPc)) ∧
      (legal → q.fqctl.getLsbD 30 = true → q.fqhead < q.fqtail → ∀ (xs : Nat → Hit) (pa : Nat),
        (∀ j, j < 8 → s.access s.cur (va + BitVec.ofNat 64 (8 * j)) 8 .store = .ok (xs j) ∧ MemoryAt (xs j).pa ∧ (xs j).pa = pa + 8 * j ∧
          (xs j).ad = none) →
        let idle := (∀ j, j < 8 → h.storing (xs j).pa 8 = false ∧ h.loading (xs j).pa 8 = false) ∧
          s.held s.cur h.pos va.toNat 64 true = false
        (¬idle → Answers i s (fun t => t = s)) ∧
        (idle → src + 64 ≤ pa ∨ pa + 64 ≤ src → Answers i s (fun t =>
          XHolds s rd 0 t ∧ (∀ j, j < 64 → t.byte (pa + j) = s.byte (src + j)) ∧ SameMemBut s t pa 64 ∧
          t.ctx c = { q with fqhead := q.fqhead + 1, undelivered := q.undelivered && decide (q.fqhead + 1 < q.fqtail) } ∧
          (∀ k, k ≠ c → t.ctx k = s.ctx k) ∧
          t.hart s.cur = { h.retired s.nextPc with x := (t.hart s.cur).x, detector := (t.hart s.cur).detector } ∧
          ∀ k, k ≠ s.cur → t.hart k = { s.hart k with resv := (t.hart k).resv }))))

/-- R138, R139, R322, R324: vstupd writes a VST entry into every replica whose die is online, drops the span buffers' entries of it, and
holds the strand until accesses to the old frame have performed: that of the replica the strand reads, or, where its die is in warm
reset, of the first replica that accesses still read. kill holds the strand until every trace of the context is gone, and retires at once
where the context is not resident; leases that have run out end first (R181). islctl reports an island and starts a change of its clock,
or turns it off or on. All three are illegal in U-mode and on a bad operand, and kill on the strand's own context. The order of islctl's
codes is the model's (log 38, DEDUCED). -/
def Obligations.TablesKillsAndIslands : Prop :=
  ∀ (s : State) (rd rs1 rs2 : BitVec 5), let h := s.hart s.cur
    let a := s.rx rs1
    let b := s.rx rs2
    let priv := h.mode ≠ .u
    (let i := Instr.vstupd rs1 rs2
      let c := fld a 32 4
      let g := fld a 0 19
      let key : Nat → Nat := fun d => (d * 16 + c) * 524288 + g
      let go := priv ∧ fld a 19 13 = 0 ∧ fld a 36 28 = 0 ∧ fld b 28 36 = 0 ∧ (s.ctx c).ctl.getLsbD 0 = true
      let own := if 2048 ≤ s.cur then 0 else coreOf s.cur / 128
      (¬go → Answers i s (RaisesIllegal s (encode i))) ∧
      (go → Answers i s (fun t =>
        (∃ d, (s.dev.offline.get false own = false → d = own) ∧
          (s.dev.offline.get false own = true → ∀ k, k < 4 → s.dev.offline.get false k = false → d ≤ k ∧ s.dev.offline.get false d = false) ∧
          let e := s.vstEntry (128 * d) c g
          t.hart s.cur = { h with wait := .vstupd c (if e.getLsbD 18 then fld e 0 18 * 0x200000 + 1 else 0) }) ∧
        (∀ d, d < 4 → s.dev.offline.get false d = false → t.dev.vst.get 0 (key d) = b.setWidth 32) ∧
        (∀ n, (∀ d, d < 4 → n = key d → s.dev.offline.get false d = true) → t.dev.vst.get 0 n = s.dev.vst.get 0 n) ∧
        (∀ k, t.core k = { s.core k with span := (t.core k).span } ∧ ∀ p, p ∈ (t.core k).span ↔ p ∈ (s.core k).span ∧ ¬(p.1 = c ∧ p.2.1 = g)) ∧
        OnlyHartAnd s t s.cur (fun t => { t with cores := s.cores, dev := { t.dev with vst := s.dev.vst, vstLate := s.dev.vstLate } })))) ∧
    (let i := Instr.kill rs1
      let c := fld a 0 4
      let go := priv ∧ fld a 4 60 = 0 ∧ s.ctxOf s.cur ≠ some c
      (¬go → Answers i s (RaisesIllegal s (encode i))) ∧
      (go → (s.ctx c).ctl.getLsbD 0 = false → Answers i s (Retires s s.nextPc)) ∧
      (go → (s.ctx c).ctl.getLsbD 0 = true → (s.ctx c).killing = true → Answers i s (Waits s (.kill c))) ∧
      (go → (s.ctx c).ctl.getLsbD 0 = true → (s.ctx c).killing = false → Answers i s (fun t =>
        t.ctx c = { s.ctx c with killing := true } ∧ (∀ k, k ≠ c → t.ctx k = s.ctx k) ∧
        t.hart s.cur = { h with wait := .kill c, stg := (t.hart s.cur).stg, arr := (t.hart s.cur).arr } ∧
        (∀ k, k ≠ s.cur → s.ctxOf k ≠ some c → t.hart k = { s.hart k with stg := (t.hart k).stg, arr := (t.hart k).arr }) ∧
        (∀ k, s.ctxOf k = some c → (t.hart k).vec.queue = [] ∧ (t.hart k).vec.resume = [] ∧ (t.hart k).wait = .none ∧
          (t.hart k).stg.notices = [] ∧ (t.hart k).stg.tags = [] ∧ (t.hart k).x = (s.hart k).x ∧ (t.hart k).pc = (s.hart k).pc ∧
          (t.hart k).stores = (s.hart k).stores) ∧
        (∀ q, t.queue q = if (s.queue q).valid = true ∧ (s.queue q).ctx = c then { s.queue q with recs := [] } else s.queue q) ∧
        (∀ g, g ∈ t.dev.gangs ↔ g ∈ s.dev.gangs ∧ g.1 ≠ c) ∧ (∀ q, q ∈ t.dev.queries ↔ q ∈ s.dev.queries ∧ q.ctx ≠ c) ∧ SameMem s t))) ∧
    (let i := Instr.islctl rd rs1 rs2
      let cl := fld a 0 7
      let arr := a.getLsbD 7
      let op := fld b 0 2
      let f := fld b 8 8
      let go := priv ∧ fld a 8 56 = 0 ∧ fld b 2 6 = 0 ∧ fld b 16 48 = 0
      let isl := (s.cluster cl).island arr
      let tells : Nat → Island → Word := fun r j => BitVec.ofNat 64 (r + j.code * 256 + j.on.toNat * 65536 + j.change.isSome.toNat * 131072)
      let answers : Nat → Prop := fun r => Answers i s (WritesX s rd (tells r isl) s.nextPc)
      let starts : Nat → Prop := fun code => Answers i s (fun t =>
        let j := (t.cluster cl).island arr
        XHolds s rd (tells 0 j) t ∧ j.on = isl.on ∧ j.code = isl.code ∧ j.change = some (op, code) ∧
        (t.cluster cl).island (!arr) = (s.cluster cl).island (!arr) ∧ (∀ k, k ≠ cl → t.cluster k = s.cluster k) ∧
        (op ≠ 2 ∨ arr = true → ∀ k, t.core k = s.core k) ∧
        (op = 2 → arr = false → ∀ k, k < 4 → (t.core (coreAt cl k)).tiles = [] ∧ (t.core (coreAt cl k)).tickets = []) ∧
        t.hart s.cur = { h.retired s.nextPc with x := (t.hart s.cur).x } ∧
        OnlyHartAnd s t s.cur (fun t => { t with cores := s.cores, clusters := s.clusters }))
      let busy := if arr then (s.cluster cl).arrbind.getLsbD 4 = true else ∃ k, k < 16 ∧ (s.hart (strandAt cl k)).task ≠ none
      (¬go → Answers i s (RaisesIllegal s (encode i))) ∧
      (go → op = 0 → answers 0) ∧ (go → op ≠ 0 → isl.change ≠ none → answers 1) ∧
      (go → isl.change = none →
        (op = 1 → 72 < f → answers 3) ∧ (op = 1 → f ≤ 72 → f = isl.code → answers 0) ∧ (op = 1 → f ≤ 72 → f ≠ isl.code → starts f) ∧
        (op = 2 → isl.on = false → answers 0) ∧ (op = 2 → isl.on = true → busy → answers 2) ∧ (op = 2 → isl.on = true → ¬busy → starts 0) ∧
        (op = 3 → isl.on = true → answers 0) ∧ (op = 3 → isl.on = false → starts 0)))

/-- R316, R317, R319: vsave and vrestore, with T = X[xs1][0], check the whole range of 80 KiB of the image at X[xs1] and hold the strand until
its queues are empty and its older scalar accesses have performed; the first 32 bytes of it that fail, as a store or a load would, raise that
exception at their address. With T = 1 they are illegal in U-mode, and vrestore is illegal while a resume state is held. An address with a
nonzero bit among 7:1 is misaligned. A vsave with T = 1 takes the strand off the array first (R197). That the range is checked at the issue
and in parts of 32 bytes is log 39's reading. -/
def Obligations.ImageResults : Prop :=
  ∀ (s : State) (rs1 : BitVec 5), let h := s.hart s.cur
    let x := s.rx rs1
    let a : Word := x &&& ~~~255#64
    let flag := x.getLsbD 0
    let save := Instr.vsave rs1
    let back := Instr.vrestore rs1
    let may := s.cur < 2048 ∧ (flag = true → h.mode ≠ .u)
    let part : Nat → Word := fun i => a + BitVec.ofNat 64 (32 * i)
    let upTo : Nat → Acc' → Prop := fun n k => ∀ i, i < n → ∃ y, s.access s.cur (part i) 32 k = .ok y
    let range : Acc' → Prop := upTo 2560
    let fails : Instr → Acc' → Prop := fun i k => ∀ n code, n < 2560 → upTo n k → code < 64 → s.access s.cur (part n) 32 k = .stop (.exc code) →
      Answers i s (fun t => ∃ u, StaleDropped s u s.cur ∧ Raises u code (part n) t)
    (¬may → Answers save s (RaisesIllegal s (encode save))) ∧
    (¬may ∨ h.vec.resume ≠ [] → Answers back s (RaisesIllegal s (encode back))) ∧
    (may → fld x 1 7 ≠ 0 → Answers save s (Raises s 6 (x &&& ~~~1#64))) ∧
    (may → h.vec.resume = [] → fld x 1 7 ≠ 0 → Answers back s (Raises s 4 (x &&& ~~~1#64))) ∧
    (may → fld x 1 7 = 0 → fails save .store) ∧ (may → h.vec.resume = [] → fld x 1 7 = 0 → fails back .load) ∧
    (may → fld x 1 7 = 0 → range .store →
      (flag = false ∨ h.arr.susp ≠ 0 → Answers save s (Waits s (.vsave a.toNat flag))) ∧
      (flag = true → h.arr.susp = 0 → Answers save s (fun t =>
        t.hart s.cur = { h with wait := .vsave a.toNat true, arr := (t.hart s.cur).arr } ∧
        (t.cluster (clOf s.cur)).lease.holder ≠ some s.cur ∧ (t.hart s.cur).arr.req = false ∧
        (∀ k, k ≠ s.cur → t.hart k = { s.hart k with arr := (t.hart k).arr }) ∧ (∀ k, k ≠ clOf s.cur → t.cluster k = s.cluster k) ∧ SameMem s t))) ∧
    (may → h.vec.resume = [] → fld x 1 7 = 0 → range .load → Answers back s (fun t =>
      t.hart s.cur = { h with wait := .vrestore a.toNat flag, imageIn := none } ∧ OnlyHart s t s.cur))

/-! ## The array -/

/-- R180, R185, Table 8-2: mlease reports the budgets of a strand that holds the lease; it grants a free lease for which no other strand has a
request posted to a strand whose context the array is bound to and that has no parked tiles, and else posts its request; mrel ends the
strand's lease and forgets its request and its parked tiles; that it discards the parked tiles of a strand with neither lease nor request
too is log 64's reading. Tiles that are still being read back for commands accepted under the lease stay for those (R182). A lease whose cy
budget has run out ends, or is renewed, first (R181), and one that was due to be granted in an earlier cy is granted. That mlease gives 0 for
the budgets of a strand without the lease is the model's choice (log 67). -/
def Obligations.LeaseResults : Prop :=
  ∀ (s : State) (rd : BitVec 5), s.cur < 2048 →
    let cl := clOf s.cur
    let u := s.leaseCheck cl
    let h := u.hart s.cur
    let c := u.cluster cl
    let bound := c.arrbind.getLsbD 4 = true ∧ s.ctxOf s.cur = some (fld c.arrbind 0 4)
    let free := LeaseFree c
    let others := ∃ k, k < 16 ∧ strandAt cl k ≠ s.cur ∧ (u.hart (strandAt cl k)).arr.req = true
    let thr := c.throttle * 2 ^ 32
    let i := Instr.mlease rd
    let old := (s.cluster cl).lease
    let out := ∃ n w, old.holder = some w ∧ old.start = some n ∧ n + 16384 ≤ s.dev.cy
    ((∀ n, c.lease.holder ≠ none → c.lease.start = some n → s.dev.cy < n + 16384) ∧
      (¬out → (∀ w d, LeaseDue s cl w d → s.dev.cy ≤ d) → u = s) ∧
      (¬out → ∀ w d, LeaseDue s cl w d → d < s.dev.cy → s.dev.cy < d + 16384 ∨ (s.hart w).arr.area ≠ none → LeaseGranted s cl w d u) ∧
      (∀ n w, old.holder = some w → old.start = some n → n + 16384 ≤ s.dev.cy →
        let asked := ∃ k, k < 16 ∧ strandAt cl k ≠ w ∧ (s.hart (strandAt cl k)).arr.req = true
        (¬asked → ∃ m, m % 16384 = n % 16384 ∧ m ≤ s.dev.cy ∧ s.dev.cy < m + 16384 ∧
          OnlyCluster s u cl { s.cluster cl with lease := { old with cmds := 256, start := some m } }) ∧
        (asked → (s.cluster cl).executing ≠ none → c.lease.holder = none ∧ c.lease.ending = some (w, true) ∧
          (∀ k, k ≠ w → u.hart k = s.hart k) ∧
          u.hart w = { s.hart w with arr := (s.hart w).arr.asked (n + 16384) } ∧ SameMem s u))) ∧
    (c.lease.holder = some s.cur → ∀ n, c.lease.start = some n →
      Answers i s (WritesX u rd (BitVec.ofNat 64 (c.lease.cmds + (16384 - (s.dev.cy - n)) * 2 ^ 16 + thr)) s.nextPc)) ∧
    (c.lease.holder = some s.cur → c.lease.start = none →
      Answers i s (WritesX u rd (BitVec.ofNat 64 (c.lease.cmds + 16384 * 2 ^ 16 + thr)) s.nextPc)) ∧
    (c.lease.holder ≠ some s.cur → ¬bound → Answers i s (WritesX u rd (BitVec.ofNat 64 (2 ^ 63 + 2 ^ 62 + thr)) s.nextPc)) ∧
    (c.lease.holder ≠ some s.cur → bound → free → ¬others → h.arr.area = none → Answers i s (fun t =>
      XHolds u rd (BitVec.ofNat 64 (256 - h.arr.resume.length + 16384 * 2 ^ 16 + thr)) t ∧
      t.hart s.cur = { h.retired s.nextPc with x := (t.hart s.cur).x, arr := { h.arr with req := false, resume := [], back := false } } ∧
      t.cluster cl = { c with tiles := [], live := 0, cmdq := h.arr.resume, lease := { c.lease with
        holder := some s.cur, last := placeOf s.cur, cmds := 256 - h.arr.resume.length, start := some s.dev.cy, restoring := false } } ∧
      (∀ k, k ≠ cl → t.cluster k = u.cluster k) ∧ OnlyHartAnd u t s.cur (fun t => { t with clusters := u.clusters }))) ∧
    (c.lease.holder ≠ some s.cur → bound → ¬(free ∧ ¬others ∧ h.arr.area = none) → Answers i s (fun t =>
      XHolds u rd (BitVec.ofNat 64 (2 ^ 63 + thr)) t ∧ OnlyHart u t s.cur ∧
      t.hart s.cur = { h.retired s.nextPc with x := (t.hart s.cur).x, arr := h.arr.asked s.dev.cy })) ∧
    Answers .mrel s (fun t =>
      let mine := c.lease.holder = some s.cur ∨ (c.lease.holder = none ∧ c.lease.ending.map Prod.fst = some s.cur)
      let late := c.lease.restoring = true ∧ mine ∧ ¬(c.cmdq = [] ∧ c.executing = none ∧ c.fills = [])
      (late → t.hart s.cur = { h.retired s.nextPc with arr := { h.arr with req := false } } ∧ (t.cluster cl).lease.restoring = true) ∧
      (¬late → t.hart s.cur = { h.retired s.nextPc with arr := { h.arr with area := none, mask := 0, req := false } }) ∧
      (t.cluster cl).lease.holder = (if c.lease.holder = some s.cur then none else c.lease.holder) ∧
      (∀ p, (t.cluster cl).lease.ending = some (s.cur, p) → p = false) ∧ (t.cluster cl).cmdq = c.cmdq ∧
      (¬late → c.lease.holder = some s.cur → (t.cluster cl).lease.restoring = false) ∧
      (¬late → c.lease.holder ≠ some s.cur → c.lease.ending.map Prod.fst = some s.cur → c.lease.parking ≠ none →
        (t.cluster cl).tiles = [] ∧ (t.cluster cl).live = 0 ∧ (t.cluster cl).lease.parking = none) ∧
      (∀ k, k ≠ cl → t.cluster k = u.cluster k) ∧ OnlyHartAnd u t s.cur (fun t => { t with clusters := u.clusters }))

/-- R181, R186, R189 to R193, Tables 8-3 and 8-5: an array command of the lease's holder that passes its checks (ArrayCommandChecks) is
accepted as the last of the command queue and charged; it waits while eight are queued; without the lease it raises LEASE_ABSENT (29) with
its word, and a check that fails raises its cause at its address. The command that uses up the budget ends the lease, or renews it where no
other strand asks. -/
def Obligations.ArrayCommandResults : Prop :=
  ∀ (s : State) (z fl : BitVec 2) (dir : BitVec 1) (fmt : BitVec 3) (rs1 rs2 kf : BitVec 5), s.cur < 2048 →
    let cl := clOf s.cur
    let u := s.leaseCheck cl
    let h := u.hart s.cur
    let c := u.cluster cl
    let a := s.rx rs1
    let b := s.rx rs2
    let alone := ∀ k, k < 16 → strandAt cl k ≠ s.cur → (u.hart (strandAt cl k)).arr.req = false
    let does : Instr → AOp → Word → Word → Prop := fun i op x1 x2 =>
      let chk := u.arrayChk s.cur h.pos op x1 x2
      (c.lease.holder ≠ some s.cur → Answers i s (Raises u 29 ((encode i).setWidth 64))) ∧
      (c.lease.holder = some s.cur → 8 ≤ c.cmdq.length → Answers i s (fun t => t = u)) ∧
      (c.lease.holder = some s.cur → c.cmdq.length < 8 → ∀ k va, k < 64 → chk = .error (.exc k, va) →
        Answers i s (fun t => ∃ v, StaleDropped u v s.cur ∧ Raises v k (BitVec.ofNat 64 va) t)) ∧
      (c.lease.holder = some s.cur → c.cmdq.length < 8 → ∀ ps, chk = .ok ps → Answers i s (fun t =>
        let d := t.cluster cl
        d.cmdq = c.cmdq ++ [{ hart := s.cur, pos := h.pos, op := op, word := encode i, x1 := x1, x2 := x2, range := ps, va := x1.toNat, since := 0 }] ∧
        (1 < c.lease.cmds → d.lease = { c.lease with cmds := c.lease.cmds - 1 }) ∧
        (c.lease.cmds = 1 → alone → d.lease = { c.lease with cmds := 256, start := c.lease.start.map (fun _ => s.dev.cy) }) ∧
        (c.lease.cmds = 1 → ¬alone → d.lease.holder = none ∧ d.lease.ending = some (s.cur, true) ∧ (t.hart s.cur).arr.req = true) ∧
        d = { c with cmdq := d.cmdq, lease := d.lease } ∧ (∀ k, k ≠ cl → t.cluster k = u.cluster k) ∧
        t.hart s.cur = { h.retired s.nextPc with arr := (t.hart s.cur).arr } ∧ OnlyHartAnd u t s.cur (fun t => { t with clusters := u.clusters })))
    let mm : Instr → Nat → Prop := fun i code => does i (.mmac code z.toNat kf.toNat) a b
    let size := fld b 22 22
    let load := fld b 21 1 = 0 ∧ fld b 44 20 = 0 ∧ size % 8 = 0 ∧ 8 ≤ size
    (load → does (.mwld rs1 rs2) .mwld a b) ∧ (¬load → Answers (.mwld rs1 rs2) s (RaisesIllegal s (encode (.mwld rs1 rs2)))) ∧
    does (.mzero z) (.mzero z.toNat) 0 0 ∧ does (.mld z rs1) (.mld z.toNat) a 0 ∧
    (fmt.toNat < 6 → does (.mst z dir rs1 fmt fl) (.mst z.toNat fmt.toNat fl.toNat (decide (dir = 1))) a 0) ∧
    (6 ≤ fmt.toNat → Answers (.mst z dir rs1 fmt fl) s (RaisesIllegal s (encode (.mst z dir rs1 fmt fl)))) ∧
    mm (.mmacE4e4 z rs1 rs2 kf) 6 ∧ mm (.mmacE5e4 z rs1 rs2 kf) 7 ∧ mm (.mmacE4e5 z rs1 rs2 kf) 8 ∧ mm (.mmacE5e5 z rs1 rs2 kf) 9 ∧
    mm (.mmacBf16 z rs1 rs2 kf) 10 ∧ mm (.mmacE4q z rs1 rs2 kf) 11 ∧ mm (.mmacF4 z rs1 rs2 kf) 12 ∧ mm (.mmacF4q z rs1 rs2 kf) 13

/-- R188, R205, R206, R14 to R16, R18, R19, R187, Table 8-4: the checks of an array command over its memory range, in order, each at the first
address that fails it: the window extents that the command accepts, alignment, the ring rules, vault ways, absent, read-only and unbacked
granules, the weight buffer; where all pass, the bytes that the range reaches. The place of R19's page fault, at the range's first
address after check 1, is log 64's reading. A command on an mzero's empty range passes. -/
def Obligations.ArrayCommandChecks : Prop :=
  ∀ (u : State) (h pos : Nat) (x1 x2 : Word), h < 2048 →
    let t := u.hart h
    let a := x1.toNat
    let place := WindowPlace u h
    let table : AOp → List (Nat × Nat) → (Win → Prop) → Bool → Bool → Nat × Nat → Prop := fun op rs takes store mis wb =>
      let chk := u.arrayChk h pos op x1 x2
      let fails : Nat → Nat → Prop := fun k v => chk = .error (.exc k, v)
      let touched : Nat → Prop := fun v => ∃ r ∈ rs, r.1 ≤ v ∧ v < r.1 + r.2
      let clean : (Nat → Prop) → Prop := fun bad => ∀ v, touched v → ¬bad v
      let found : (Nat → Prop) → (Nat → Prop) → Prop := fun bad out => ∀ v, touched v → bad v → (∀ w, touched w → w < v → ¬bad w) → out v
      let first := (rs.head?.map Prod.fst).getD 0
      let c1 : Nat → Prop := fun v => ¬(takes (winOf v) ∧ SameExtent (winOf first) (winOf v))
      let c3 : Nat → Prop := fun v => ¬RingAllows u h pos store v
      let c4 : Nat → Prop := fun v => (∃ pa, place v pa ∧ u.backing pa = .unbacked) ∧ ((∃ o, winOf v = .vault o) ∨ ∃ w o, winOf v = .ring w o)
      let c5 : Nat → Prop := fun v => ∃ g off, winOf v = .span g off ∧ ¬∃ e, SpanEntryIs u h g e ∧ e.getLsbD 18 = true
      let c6 : Nat → Prop := fun v => store = true ∧ ∃ g off, winOf v = .span g off ∧ ¬∃ e, SpanEntryIs u h g e ∧ e.getLsbD 19 = true
      let c7 : Nat → Prop := fun v => ∃ g off pa, winOf v = .span g off ∧ place v pa ∧ 0x7735940000 ≤ pa
      let sum := t.mode ≠ .s ∨ t.csr.mstatus.getLsbD 18 = true
      let free := clean c1 ∧ sum ∧ mis = false
      (∀ w rs r, SlotBound u h w rs r → r.Legal) →
      found c1 (fails 30) ∧ (clean c1 → ¬sum → fails (if store then 15 else 13) first) ∧
      (clean c1 → sum → mis = true → fails (if store then 6 else 4) a) ∧ (free → found c3 (fails 25)) ∧
      (free → clean c3 → found c4 (fails 30)) ∧ (free → clean c3 → clean c4 → found c5 (fun v => chk = .error (.absent true, v))) ∧
      (free → clean c5 → found c6 (fails 15)) ∧ (free → clean c5 → clean c6 → found c7 (fails 30)) ∧
      (free → clean c3 → clean c4 → clean c5 → clean c6 → clean c7 → (∀ v pa, touched v → place v pa → u.backing pa ≠ .offline) →
        if wb.1 % 8 ≠ 0 then fails 30 wb.1 else if 2097152 < wb.1 + wb.2 then fails 30 2097152
        else ∃ ps, chk = .ok ps ∧ ∀ i, i < (rs.map Prod.snd).sum → place (rangeAt rs i) (rangeAt ps i))
    let panel : Win → Prop := fun w => (∃ o, w = .scratch o) ∨ (∃ o, w = .vault o) ∨ ∃ r o, w = .ring r o
    let spans : Win → Prop := fun w => ∃ g o, w = .span g o
    let skew := decide (a % 8 ≠ 0)
    (∀ z, u.arrayChk h pos (.mzero z) x1 x2 = .ok []) ∧
    (∀ z, table (.mld z) [(a, 131072)] panel false skew (0, 0)) ∧
    (8 ≤ fld x2 22 22 → table .mwld [(a, fld x2 22 22)] (fun w => (panel w ∧ ¬∃ r o, w = .ring r o) ∨ spans w) false skew
      (fld x2 0 21, fld x2 22 22)) ∧
    (∀ z fmt ly col, fmt < 6 →
      let b := a / 8 * 8
      let n := a % 4
      let cb := [32, 32, 16, 32, 16, 8].getD fmt 0
      let sz := 4 * cb + 8
      table (.mst z fmt ly col) (if n = 0 then [(b, 256 * sz)] else
          [(b + n * cb, 256 * sz - n * cb), (b + 256 * sz, n * cb), (b + 256 * sz + 4 * cb, 8)])
        (fun w => panel w ∨ spans w) true (x1.getLsbD 2) (0, 0)) ∧
    (∀ code z kf, 6 ≤ code → code < 14 → kf < 32 →
      let g := (kf + 4) / 4
      table (.mmac code z kf) [(a, g * [34816, 34816, 34816, 34816, 65536, 34816, 18432, 18432].getD (code - 6) 0)] panel false skew
        (x2.toNat, g * [17408, 17408, 17408, 17408, 32768, 5120, 9216, 5120].getD (code - 6) 0))

/-! ## What happens of itself -/

/-- R67, R121, R126, R200, R203: a store in the buffer performs at its home after older stores of its granule and older loads of its bytes,
an stfe after every older store, and then sets its line full; the lines it reaches come nearer (R118, R124; the policy is log 57); a load in
flight returns its data once no older load overlaps it; a waiting ldfe takes its line when it is full and no lower hart takes it first. An
event whose conditions do not hold changes nothing. What `Performed` says of error marks is log 52's reading (DEDUCED). -/
def Obligations.ScalarAccessEvents : Prop :=
  ∀ (s : State) (h k : Nat), let t0 := s.hart h
    (∀ x, t0.stores[k]? = some x →
      let may := (∀ o ∈ t0.stores.take k, shareGranule o.pa o.width x.pa x.width = false) ∧
        (∀ l ∈ t0.loads, l.pos < x.pos → overlap l.pa l.width x.pa x.width = false) ∧ (x.fe = true → k = 0)
      (may → Answers (.storeBufferDrain h k) s (fun t => ∃ q r u,
        q.hart h = { t0 with stores := t0.stores.take k ++ t0.stores.drop (k + 1) } ∧ OnlyHart s q h ∧ CachesOnly q r h ∧
        (x.code = none → r = q) ∧ Performed r false h (ownCore h) x.pa (bytesOf x.width x.val.toNat) u ∧ (x.fe = false → t = u) ∧
        (x.fe = true → t.full (x.pa / 128) = true ∧ (∀ l, l ≠ x.pa / 128 → t.full l = u.full l) ∧
          (u.full (x.pa / 128) = true → t.dev.events.get 0 1 = u.dev.events.get 0 1 + 1) ∧
          { t with fe := u.fe, dev := { t.dev with events := u.dev.events } } = u))) ∧
      (¬may → Answers (.storeBufferDrain h k) s (fun t => t = s))) ∧
    (t0.stores.length ≤ k → Answers (.storeBufferDrain h k) s (fun t => t = s)) ∧
    (∀ l v, t0.loads[k]? = some l → 0 < l.width → Extends l.width l.signed (fun j => s.seenBy h l.pos (l.pa + j)) v →
      let may := ∀ o ∈ t0.loads.take k, overlap o.pa o.width l.pa l.width = false
      let rest := t0.loads.take k ++ t0.loads.drop (k + 1)
      (may → l.isF = false → Answers (.scalarLoadReturn h k) s (fun t =>
        XHoldsAt s h l.rd v t ∧ t.hart h = { t0 with loads := rest, x := (t.hart h).x } ∧ OnlyHart s t h)) ∧
      (may → l.isF = true → l.width = 4 → Answers (.scalarLoadReturn h k) s (fun t =>
        (∀ n, t.f h n = if n = l.rd then v.setWidth 32 else s.f h n) ∧ FsDirty t0.csr.mstatus (t.hart h).csr.mstatus ∧
        t.hart h = { t0 with loads := rest, f := (t.hart h).f, csr := { t0.csr with mstatus := (t.hart h).csr.mstatus } } ∧ OnlyHart s t h)) ∧
      (¬may → Answers (.scalarLoadReturn h k) s (fun t => t = s))) ∧
    (∀ rd pa va since, t0.wait = .ldfe rd pa va since →
      let ready := s.full (pa / 128) = true ∧ t0.storing pa 8 = false ∧ t0.loading pa 8 = false ∧ s.lowerConsumer h (pa / 128) = false
      (ready → Answers (.ldfeWake h) s (fun t => ∃ v, Extends 8 false (fun j => s.byte (pa + j)) v ∧ XHoldsAt s h rd v t ∧
        t.hart h = { t0.retired (t0.pc + 4) with x := (t.hart h).x } ∧ t.full (pa / 128) = false ∧
        (∀ l, l ≠ pa / 128 → t.full l = s.full l) ∧ OnlyHartAnd s t h (fun t => { t with fe := s.fe }))) ∧
      (¬ready → Answers (.ldfeWake h) s (fun t => t = s)) ∧
      (¬ready → since + 2 ^ 20 ≤ s.dev.cy → Answers (.feTimeout h none) s
        (TrapTaken (s.stopVector h (s.allSeq h)) h false 26 va)) ∧
      (s.dev.cy < since + 2 ^ 20 → Answers (.feTimeout h none) s (fun t => t = s)))

/-- R67, R124, R130, R131, R133, R134, R137, R150: a walk goes on by one read of an entry, and ends with the leaf in the translation buffer
and the entries it came by in the walk cache, or at a failing entry, which installs nothing and counts SPEC_DROP, or one level lower; one
that no access needs any more ends, and where two run no third starts; an absent entry of the span window counts SPEC_DROP; the oldest
unretired access sets the A and D bits it calls for; a span buffer reads an entry from its die's replica; a stream detector entry is freed
after 1,024 cy. That a walk passes an entry which permits a load or a fetch is log 7's choice; what `Performed` says of error marks is log
52's reading (DEDUCED). -/
def Obligations.TranslationEvents : Prop :=
  ∀ (s : State) (h : Nat) (va : Word), h < 2048 → let t0 := s.hart h
    let k := coreOf h
    let c := s.core k
    let a := va.toNat
    let mine : Walk → Bool := fun w => decide (w.hart = h) && decide (w.va = a)
    let onCore : State → Core → Prop := fun t d => t.core k = d ∧ (∀ j, j ≠ k → t.core j = s.core j)
    let sv57 := fld t0.csr.satp 60 4 = 10
    let drops : State → Prop := fun t => t.dev.events.get 0 0 = s.dev.events.get 0 0 + 1 ∧
      (∀ n, n ≠ 0 → t.dev.events.get 0 n = s.dev.events.get 0 n) ∧
      { t with cores := s.cores, dev := { t.dev with events := s.dev.events } } = s
    (t0.mode = .u ∨ t0.mode = .s → sv57 → a / 2 ^ 56 = 0 ∨ a / 2 ^ 56 = 255 → winOf a = .none → s.tlbHit h a = none → ∀ w,
      c.walking.find? mine = some w ∨
        (c.walking.find? mine = none ∧ c.walking.length < 2 ∧
          w = { hart := h, asid := fld t0.csr.satp 44 16, va := a, level := (s.walkStart h a).1, base := (s.walkStart h a).2, entries := [] }) →
      let p := w.base + a / 2 ^ (12 + 9 * w.level) % 512 * 8
      let e : Word := BitVec.ofNat 64 (s.mem64 p 8)
      let rest := c.walking.filter (fun w => !mine w)
      w.asid = fld t0.csr.satp 44 16 →
      let through := s.TableAt p ∧ Pointer e ∧ w.level ≠ 0
      let ends := s.TableAt p ∧ e.getLsbD 0 = true ∧ ¬BadEntry t0.csr w.level e ∧ fld e 46 8 = 0 ∧ LeafEntry e ∧
        (LeafPermits t0.csr t0.mode .load e ∨ LeafPermits t0.csr t0.mode .fetch e)
      let kept : State → Prop := fun t => ∀ x, x ∈ (t.core k).walks ↔ x ∈ c.walks
      (¬through → ¬ends → Answers (.pageTableWalk h va) s (fun t =>
        onCore t { c with walking := rest, walks := (t.core k).walks } ∧ kept t ∧ drops t)) ∧
      (through → Answers (.pageTableWalk h va) s (fun t =>
        let met : WalkEntry := { asid := w.asid, level := w.level, prefix_ := a / 2 ^ (12 + 9 * w.level) % 2 ^ (45 - 9 * w.level), pte := e }
        onCore t { c with
          walking := rest ++ [{ w with level := w.level - 1, base := fld e 10 36 * 4096, entries := if 2 ≤ w.level then w.entries ++ [met] else w.entries }]
          walks := (t.core k).walks } ∧ kept t ∧ { t with cores := s.cores } = s)) ∧
      (ends → Answers (.pageTableWalk h va) s (fun t =>
        let n := if w.level = 1 then 21 else if e.getLsbD 63 then 16 else 12
        let entry : TlbEntry := { vpn := a / 2 ^ n, bits := n, asid := w.asid, global := e.getLsbD 5, pte := e, ptePa := p }
        let others := c.tlb.filter (fun t => !decide (t.vpn = entry.vpn ∧ t.bits = n ∧ t.asid = w.asid))
        onCore t { c with walking := rest, tlb := keepLast 256 others entry, walks := (t.core k).walks } ∧
        (∀ x, x ∈ (t.core k).walks → x ∈ c.walks ∨ x ∈ w.entries) ∧ (w.entries.length ≤ 3 → ∀ x ∈ w.entries, x ∈ (t.core k).walks) ∧
        { t with cores := s.cores } = s))) ∧
    (∀ w, c.walking.find? mine = some w →
      ¬((t0.mode = .u ∨ t0.mode = .s) ∧ sv57 ∧ (a / 2 ^ 56 = 0 ∨ a / 2 ^ 56 = 255) ∧ winOf a = .none ∧ s.tlbHit h a = none ∧
        w.asid = fld t0.csr.satp 44 16) →
      Answers (.pageTableWalk h va) s (fun t => onCore t { c with walking := c.walking.filter (fun w => !mine w) } ∧ { t with cores := s.cores } = s)) ∧
    (c.walking.find? mine = none → 2 ≤ c.walking.length → (∀ g off, winOf a ≠ .span g off) → Answers (.pageTableWalk h va) s (fun t => t = s)) ∧
    (t0.mode = .u ∨ (t0.mode = .s ∧ sv57) → c.walking.find? mine = none →
      ∀ g off cx, winOf a = .span g off → s.ctxOf h = some cx → (s.vstEntry k cx g).getLsbD 18 = false →
      Answers (.pageTableWalk h va) s (fun t => drops t ∧ t.cores = s.cores)) ∧
    (∀ w x n kind addr, s.atBoundary h = true → s.nextWord h = some w → s.accessOf h w = some (addr, n, kind) →
      s.access h addr n kind = .ok x → kind ≠ .atomic → ∀ p old new, x.ad = some (p, old, new) →
      Answers (.adUpdate h) s (fun t => ∃ r u,
        { r with cores := s.cores } = s ∧ (∀ j, r.core j = { s.core j with tlb := (r.core j).tlb, walks := (r.core j).walks }) ∧
        Performed r true 2048 none p (bytesOf 8 (BitVec.ofNat 64 (s.mem64 p 8) ||| (new &&& 0xC0#64)).toNat) u ∧
        { t with cores := u.cores } = u ∧ ∀ j, t.core j = { u.core j with tlb := (t.core j).tlb })) ∧
    (∀ ctx g, s.ctxOf h = some ctx → g < 524288 → (∀ e ∈ c.span, ¬(e.1 = ctx ∧ e.2.1 = g)) →
      Answers (.spanEntryFetch h g) s (fun t =>
        onCore t { c with span := (if 64 ≤ c.span.length then c.span.drop (c.span.length - 63) else c.span) ++
          [(ctx, g, s.dev.vst.get 0 ((k / 128 * 16 + ctx) * 524288 + g))] } ∧ { t with cores := s.cores } = s)) ∧
    (∀ n e, t0.detector[n]? = some e →
      (e.2.2 + 1024 ≤ s.dev.cy → Answers (.streamDetectorExpiry h n) s (fun t =>
        t.hart h = { t0 with detector := t0.detector.take n ++ t0.detector.drop (n + 1) } ∧ OnlyHart s t h)) ∧
      (s.dev.cy < e.2.2 + 1024 → Answers (.streamDetectorExpiry h n) s (fun t => t = s)))

/-- R58, R63, R69, R145, R165, R213, R218, R239, R242, R264, R308, R312, R314, R320: the waits of a strand end when what they wait for has come to
pass, and with no other effect than their instruction's; notices and interrupts are taken at a boundary, and a pre-emption suspends the
strand's array side (R197); a word of no row, or a fetch that fails, raises its exception. That fields W, V and N of upcause are 0 for
notices (log 32), which waits an interrupt ends (log 42), and which strands a yield waits for (log 44) are the model's readings. -/
def Obligations.WaitAndInterruptEvents : Prop :=
  ∀ (s : State) (h : Nat), let t0 := s.hart h
    let pc := t0.pc + 4
    let stops : Instr → Nat → Bool → Nat → Word → Prop := fun i lim intr code tval =>
      Answers i s (TrapTaken (s.stopVector h lim) h intr code tval)
    let all := s.allSeq h
    (∀ rd n slip, t0.wait = .vcfg rd n slip →
      (t0.vec.queue = [] → Answers (.vcfgReconfigure h) s (fun t => XHoldsAt s h rd (BitVec.ofNat 64 (t0.vec.ncode + 16 * t0.vec.slip)) t ∧
        t.hart h = { t0.retired pc with x := (t.hart h).x, vec := { t0.vec with ncode := n, slip := slip, vl := 0, v := [] } } ∧ OnlyHart s t h)) ∧
      (t0.vec.queue ≠ [] → Answers (.vcfgReconfigure h) s (fun t => t = s))) ∧
    (∀ ly, s.lyReady h ly = true →
      let becomes : Leeway → Prop := fun l => Answers (.leewayConfigApply h) s (fun t =>
        (∀ j, (t.hart h).vec.ly.get Leeway.start j = if j = ly then l else t0.vec.ly.get Leeway.start j) ∧
        t.hart h = { t0.retired pc with vec := { t0.vec with ly := (t.hart h).vec.ly } } ∧ OnlyHart s t h)
      (∀ w, t0.wait = .lycfg ly w → becomes { res := [], c := fld w 0 9, p := fld w 16 8, ns := w.getLsbD 31 }) ∧
      (t0.wait = .lyclr ly → becomes { t0.vec.ly.get Leeway.start ly with res := [] })) ∧
    (∀ ch, t0.wait = .cpReset ch → ch < 4 → let c := t0.stg.chans.get Chan.start ch
      (c.xfers = [] → Answers (.channelResetDone h) s (fun t =>
        (∀ j, (t.hart h).stg.chans.get Chan.start j = if j = ch then { c with wm := c.nextId, err := false, above := [] } else t0.stg.chans.get Chan.start j) ∧
        t.hart h = { t0.retired pc with stg := { t0.stg with chans := (t.hart h).stg.chans } } ∧ OnlyHart s t h)) ∧
      (c.xfers ≠ [] → Answers (.channelResetDone h) s (fun t => t = s))) ∧
    (∀ a b c d, t0.wait = .waitc a b c d → let n := s.counts h
      (n.1 ≤ a ∧ n.2.1 ≤ b ∧ n.2.2.1 ≤ c ∧ n.2.2.2 ≤ d → Answers (.waitcRelease h) s (RetiresAt s h)) ∧
      (¬(n.1 ≤ a ∧ n.2.1 ≤ b ∧ n.2.2.1 ≤ c ∧ n.2.2.2 ≤ d) → Answers (.waitcRelease h) s (fun t => t = s))) ∧
    (∀ sys, t0.wait = .fenceVs sys →
      let done := (∀ e ∈ t0.vec.queue, e.q = .vaq) ∧ s.acmds h = [] ∧ (sys = true → t0.remotes = [])
      (done → Answers (.fenceVsRelease h) s (RetiresAt s h)) ∧ (¬done → Answers (.fenceVsRelease h) s (fun t => t = s))) ∧
    (t0.wait = .wfi → (s.mip h ≠ 0 → Answers (.wfiWake h) s (RetiresAt s h)) ∧ (s.mip h = 0 → Answers (.wfiWake h) s (fun t => t = s))) ∧
    (∀ n, t0.wait = .pause n →
      (n ≤ s.dev.cy → Answers (.pauseEnd h) s (RetiresAt s h)) ∧ (s.dev.cy < n → Answers (.pauseEnd h) s (fun t => t = s))) ∧
    (∀ n others, t0.wait = .yield_ n others →
      let ready := ∃ j ∈ others, s.atBoundary j = true ∧ (s.hart j).arr.back = false ∧ s.loweredNow j = false
      (n ≤ s.dev.cy ∨ ¬ready → Answers (.yieldEnd h) s (fun t => t.hart h = { t0 with wait := .none } ∧ OnlyHart s t h)) ∧
      (s.dev.cy < n → ready → Answers (.yieldEnd h) s (fun t => t = s))) ∧
    (∀ tick, t0.wait = .gang tick →
      (tick.toNat ≤ s.dev.chron → Answers (.gangTick h) s (fun t => t.hart h = { t0 with wait := .none } ∧ OnlyHart s t h)) ∧
      (s.dev.chron < tick.toNat → Answers (.gangTick h) s (fun t => t = s))) ∧
    (s.noticeable h = true →
      (∀ q r, t0.stg.async = q :: r → Answers (.noticeUpcall h) s (Upcalled s h 4 (BitVec.ofNat 64 (q % 2 ^ 32)) { t0.stg with async := r })) ∧
      (t0.stg.async = [] → ∀ n ∈ t0.stg.notices, (∀ m ∈ t0.stg.notices, m = n ∨ n.tag < m.tag) →
        Answers (.noticeUpcall h) s (Upcalled s h (BitVec.ofNat 64 ((if n.starved then 3 else 5) + n.tag * 256))
          (BitVec.ofNat 64 (if n.starved then n.granules else 0))
          { t0.stg with notices := t0.stg.notices.filter (fun m => decide (m.tag ≠ n.tag)), tags := t0.stg.tags.filter (fun m => decide (m ≠ n.tag)) }))) ∧
    (s.noticeable h = false → Answers (.noticeUpcall h) s (fun t => t = s)) ∧
    (∀ i, s.takes h = some i → i < 64 → i ≠ 17 → stops (.interruptTaken h) all true i 0) ∧
    (s.takes h = some 17 → Answers (.preemptTaken h) s (fun t => ∃ u, TrapTaken (s.stopVector h 0) h true 17 0 u ∧
      t.hart h = { u.hart h with arr := (t.hart h).arr } ∧ (∀ j, j ≠ h → t.hart j = { u.hart j with arr := (t.hart j).arr }) ∧ SameMem u t ∧
      (t.cluster (clOf h)).lease.holder ≠ some h ∧ (t.hart h).arr.req = false ∧
      (t0.arr.back = true → t0.arr.req = true → s.leaseCheck (clOf h) = s → (t.hart h).arr.susp = 2))) ∧
    (s.takes h = none → Answers (.interruptTaken h) s (fun t => t = s) ∧ Answers (.preemptTaken h) s (fun t => t = s)) ∧
    (∀ w, s.mayIssue h = true → s.nextWord h = some w → assigned w = false → Answers (.illegalInstruction h w) s (fun t => ∃ u,
      TrapTaken (s.stopVector h all) h false 2 (w.setWidth 64) u ∧ Struck u h t)) ∧
    (∀ w, assigned w = true → Answers (.illegalInstruction h w) s (fun t => t = s)) ∧
    (∀ c, s.mayIssue h = true → s.fetchAt h = .stop (.exc c) → c < 64 → Answers (.instructionFetchFault h) s (fun t =>
      ∃ u v, StaleDropped s u h ∧ TrapTaken (u.stopVector h (u.allSeq h)) h false c t0.pc v ∧ Struck v h t)) ∧
    (s.fetchAt h = .stop .busy → Answers (.instructionFetchFault h) s (fun t => t = s)) ∧
    (s.mayIssue h = (s.atBoundary h && !t0.arr.back && !s.loweredNow h)) ∧
    Answers (.alarmInterrupt h) s (fun t => t = s) ∧ (s.mip h).getLsbD 18 = (decide (t0.alarm.toNat ≤ s.dev.chron) || t0.csr.mipSw.getLsbD 18)

/-- R77, R78, R91, R107 to R111, R115, R117, R164, R165, R197, R201, R203, R222, R265: the next group of a vector queue begins where nothing
keeps it back, the slip bound, older fences and array commands among it: an operation on registers takes its whole effect, a load or store
group begins its accesses, a fence.vv completes, or the group stops at the check that fails. A begun access performs at its home where its
order lets it: stores, nibbles, atomics and superblock tails each in one operation, its line coming nearer (R118, R124; log 57); a bit of a
vstfe is set once the older stores of its strand have performed; the one datum of a load group lands in its register, the same for equal
addresses of one instruction; an arithmetic entry whose groups are done leaves the queue and returns its x result. A group that has waited
2^20 cy raises FE_TIMEOUT (26). That a group waits for an older array command on its granules is log 58's reading; that a reinstated one
keeps the slip of those before it in program order, log 59's; what `Performed` says of error marks, log 52's (DEDUCED). -/
def Obligations.VectorQueueEvents : Prop :=
  ∀ (s : State) (h : Nat) (q : VQueue), let t0 := s.hart h
    let issue := Instr.vectorGroupIssue h q
    let clear : VEntry → Bool → Nat × Nat × Nat → Prop := fun e write x => let n := accBytes e.ty
      (∀ a ∈ t0.vec.queue, a.seq < e.seq → s.toCome h a x.2.2 n = false) ∧
      (∀ a, CommandBefore s h e a → ∀ r ∈ a.range, shareGranule r.1 r.2 x.2.2 n = false) ∧ s.held h e.pos x.2.1 n write = false
    let begins : VEntry → Bool → List (Nat × Nat × Nat) → (Nat × Nat × Nat → Acc) → Prop := fun e write els acc =>
      ((∀ x ∈ els, clear e write x) → els ≠ [] → Answers issue s (fun t => OnlyVec s t h ∧
        ∃ b ∈ (t.hart h).vec.queue, b.seq = e.seq ∧ b.next = e.next + 1 ∧ b.pend = e.pend ++ els.map acc)) ∧
      ((∃ x ∈ els, ¬clear e write x) → Answers issue s (fun t => t = s))
    (t0.vec.head q = none → Answers issue s (fun t => t = s)) ∧
    (∀ e, t0.vec.head q = some e → t0.vec.ordered e = false ∨ s.fenced h e = true → Answers issue s (fun t => t = s)) ∧
    (∀ e, MayBegin s h q e → (t0.vec.queue.filter (fun a => decide (a.seq < e.seq ∧ a.pos ≤ e.pos))).length ≤ e.slip ∧
      (∀ a l, CommandBefore s h e a → a.op.ly = some l → e.op.names l = false) ∧
      (e.q ≠ .vaq → ∀ a ∈ t0.vec.queue, a.seq < e.seq → ∀ sys, a.op ≠ .fence sys)) ∧
    (∀ e sys, MayBegin s h q e → e.op = .fence sys → e.q ≠ .vaq → t0.vec.queue = [e] → e.pend = [] → e.got = [] →
      let done := (∀ a, ¬CommandBefore s h e a) ∧ (sys = true → ∀ r ∈ t0.remotes, e.pos ≤ r.pos)
      (done → Answers issue s (fun t => OnlyHart s t h ∧ t.hart h = { t0 with vec := { t0.vec with queue := [] } })) ∧
      (¬done → Answers issue s (fun t => t = s))) ∧
    (∀ e, MayBegin s h q e → e.op.InRegisters → let r := e.run t0.vec e.next
      Answers issue s (fun t => OnlyHart s t h ∧ t.hart h = { t0 with vec := { r.1 with
        queue := r.1.queue.map (fun a => if a.seq = e.seq then { a with next := a.next + 1, res := r.2 } else a) } })) ∧
    (∀ e a nt v v2 k els, MayBegin s h q e → e.op = .ld a nt v v2 k → (e.actives t0.vec k e.next).all (VEntry.indexed t0.vec a v2) = true →
      s.checked h e a v2 (e.actives t0.vec k e.next) false = .ok els → begins e false els (fun x =>
        { group := e.next, idx := x.1, va := x.2.1, pa := x.2.2, width := accBytes e.ty, kind := .load, val := 0, nt := nt })) ∧
    (∀ e a nt v v2 k els, MayBegin s h q e → e.op = .st a nt v v2 k →
      s.checked h e a v2 ((e.actives t0.vec k e.next).filter (VEntry.indexed t0.vec a v2)) true = .ok els →
      let val : Nat → Word := fun i =>
        BitVec.ofNat 64 (if (t0.vec.reg v).ok (i / 32) then (t0.vec.reg v).elem (ebits e.ty) i else invalidStored e.ty)
      let kind : Nat → AccKind := fun i => if e.ty = 10 then .nibble (decide (i % 2 = 1)) else .store
      begins e true els (fun x =>
        { group := e.next, idx := x.1, va := x.2.1, pa := x.2.2, width := accBytes e.ty, kind := kind x.1, val := val x.1, nt := nt })) ∧
    (∀ e f v v2 k, MayBegin s h q e → e.op = .amo f v v2 k →
      let chk := s.checked h e .index v2 ((e.actives t0.vec k e.next).filter (fun i => (t0.vec.reg v2).ok (i / 32) && (t0.vec.reg v).ok (i / 32))) true
      (∀ els, chk = .ok els → begins e true els (fun x =>
        { group := e.next, idx := x.1, va := x.2.1, pa := x.2.2, width := accBytes e.ty, kind := .amo f e.ty e.frm,
          val := BitVec.ofNat 64 ((t0.vec.reg v).elem (ebits e.ty) x.1), nt := false })) ∧
      ∀ x va, chk = .error (x, va) → VectorStops issue s h e x va) ∧
    (∀ e nt, MayBegin s h q e → q ≠ .vaq → e.op = .pref nt → t0.vec.queue = [e] → e.pend = [] → e.got = [] → let n := (e.vl * ebits e.ty + 7) / 8
      let line : Nat → Nat := fun i => (e.x1.toNat / 256 + i) * 256 % 2 ^ 64
      let lines := (List.range ((e.x1.toNat + n - 1) / 256 - e.x1.toNat / 256 + 1)).filter (fun i =>
        match winOf (line i) with
        | .span _ _ => true
        | _ => false)
      Answers issue s (fun t => t.hart h = { t0 with vec := { t0.vec with queue := [] } } ∧ SameMem s t ∧ (∀ j, j ≠ h → t.hart j = s.hart j) ∧
        (∀ c, t.core c = { s.core c with l1 := (t.core c).l1, l1used := (t.core c).l1used, slice := (t.core c).slice }) ∧
        { t with harts := s.harts, cores := s.cores, dev := { t.dev with events := s.dev.events } } = s ∧
        t.dev.events.get 0 0 = s.dev.events.get 0 0 + BitVec.ofNat 64 (lines.filter (fun i =>
          match s.vchk h e.pos (line i) 1 1 false with
          | .ok _ => false
          | .stop _ => true)).length ∧
        ∀ i, i ≠ 0 → t.dev.events.get 0 i = s.dev.events.get 0 i)) ∧
    (∀ k e x, (t0.vec.queue.flatMap (fun e => e.pend.map (fun x => (e, x))))[k]? = some (e, x) → let perf := Instr.vectorAccessComplete h k
      let old := s.mem64 x.pa
      let stores : List Byte → Prop := fun bs => Answers perf s (fun t => ∃ r u, CachesOnly s r h ∧
        (regionOf x.pa ≠ .dram → r = s) ∧ Performed r true h (some (coreOf h)) x.pa bs u ∧ OnlyVec u t h)
      (s.accReady h e x = false → Answers perf s (fun t => t = s)) ∧
      (s.accReady h e x = true → x.kind = .store → stores (bytesOf x.width x.val.toNat)) ∧
      (s.accReady h e x = true → x.kind = .nibble true → stores (bytesOf 1 (old 1 % 16 + x.val.toNat % 16 * 16))) ∧
      (s.accReady h e x = true → x.kind = .nibble false → stores (bytesOf 1 (old 1 / 16 * 16 + x.val.toNat % 16))) ∧
      (s.accReady h e x = true → ∀ lo w, x.kind = .tail lo w → lo + w ≤ 64 →
        ∃ v : Word, (∀ i, i < 64 → v.getLsbD i = if lo ≤ i ∧ i < lo + w then x.val.getLsbD (i - lo) else (BitVec.ofNat 64 (old 8)).getLsbD i) ∧
          stores (bytesOf 8 v.toNat)) ∧
      (s.accReady h e x = true → ∀ f ty rm, x.kind = .amo f ty rm →
        let n := 8 * x.width
        let a := old x.width
        let b := x.val.toNat
        let least : Bool → Nat := fun most => if (if most then (BitVec.ofNat n a).slt (BitVec.ofNat n b) else (BitVec.ofNat n b).slt (BitVec.ofNat n a)) then b else a
        (ty = 6 → stores (bytesOf x.width (match f with
          | .add => (Fmt.f32.add rm.toNat a b).1 | .min => (Fmt.f32.minmax false a b).1 | .max => (Fmt.f32.minmax true a b).1))) ∧
        (ty ≠ 6 → ebits ty = n → stores (bytesOf x.width (match f with | .add => (a + b) % 2 ^ n | .min => least false | .max => least true)))) ∧
      (x.kind = .fill → (s.accReady h e x = true ↔ (∀ y ∈ e.pend, y.kind = .fill ∨ x.group < y.group) ∧ (∀ o ∈ t0.stores, e.entered ≤ o.pos) ∧
        StoresOut s h e.entered ∧ ∀ a ∈ t0.vec.before e.pos, a.toMemory = false)) ∧
      (s.accReady h e x = true → x.kind = .fill → Answers perf s (fun t => ∃ u, u = { s with fe := t.fe } ∧ OnlyVec u t h ∧
        t.full (x.pa / 128) = true ∧ ∀ l, l ≠ x.pa / 128 → t.full l = s.full l)) ∧
      (s.accReady h e x = true → x.kind = .load → Answers perf s (fun t =>
        t.hart h = { t0 with detector := (t.hart h).detector, vec := (t.hart h).vec } ∧ OnlyHartAnd s t h (fun t => { t with cores := s.cores }))) ∧
      (s.accReady h e x = true → x.kind = .load → t0.vec.queue = [e] → e.pend = [x] → e.got = [] →
        ∀ a nt v v2 m, e.op = .ld a nt v v2 m → e.q ≠ .vaq → e.ty.toNat ≠ 10 → 8 * x.width = ebits e.ty → ∀ val,
        (if a = .unit then none else e.seen.find x.pa) = some (BitVec.ofNat 64 val) ∧ val < 2 ^ ebits e.ty ∨
          ((if a = .unit then none else e.seen.find x.pa) = none ∧ val = s.mem64 x.pa x.width) →
        Answers perf s (fun t => ∃ w, w = { (t.hart h).vec with queue := [e] } ∧
          WroteElems t0.vec w v (ebits e.ty) (fun i => i = x.idx) (fun _ => val) (fun _ => invalidating e.ty val = false) ∧
          ((t.hart h).vec.queue = [] ↔ e.groups ≤ e.next)))) ∧
    (∀ e, t0.vec.queue.find? (fun e => decide (e.q = .vaq) && decide (e.groups ≤ e.next)) = some e →
      Answers (.vaqGroupLanded h) s (fun t => OnlyHart s t h ∧
        t.hart h = { t0 with x := (t.hart h).x, vec := { t0.vec with queue := t0.vec.queue.filter (fun a => a.seq != e.seq) } } ∧
        (∀ r v, e.op.xdest = some r → e.res = some v → XHoldsAt s h r v t) ∧ (e.op.xdest = none ∨ e.res = none → (t.hart h).x = t0.x))) ∧
    ((∀ e ∈ t0.vec.queue, e.q = .vaq → e.next < e.groups) → Answers (.vaqGroupLanded h) s (fun t => t = s)) ∧
    (∀ e n, s.issue h q (s.allSeq h) = some (e, .ext) → e.since = some n →
      let stops : Word → Prop := fun v => Answers (.feTimeout h (some q)) s (TrapTaken (s.stopVector h e.seq) h false 26 v)
      (s.dev.cy < n + 2 ^ 20 → Answers (.feTimeout h (some q)) s (fun t => t = s)) ∧
      (n + 2 ^ 20 ≤ s.dev.cy →
        (∀ v, e.op = .recv v ∨ e.op = .send v → stops e.x1) ∧
        (∀ v k els a, e.op = .ldfe v k → s.feChecked h e k false = .ok els →
          let empty := (els.filter (fun x => !s.full (x.2.2 / 128))).map (fun x => x.2.1 / 128 * 128)
          a ∈ empty → (∀ b ∈ empty, a ≤ b) → stops (BitVec.ofNat 64 a))))

/-- R107, R106, R136, R140, R143, R146, R206, R211, R314, R336, R339, Table 5-3: the checks of one element of w bytes, in order: the window
extent, with R19's page fault, alignment, the ring rules, the way, the granule absent, read-only or unbacked, the home code; where all pass,
the place that the access reaches. A group's elements are checked in index order at the addresses of Table 5-2, and the least that fails
stops it: an offline die's answer is reported too, and an absent granule raises a page fault, or becomes a request with V = 1, VL and
vetype (Table 6-7). Where an offline die's answer stands among the checks is the model's reading (log 64); that the mode and SUM are those in
force as the group begins is its choice (log 69). -/
def Obligations.VectorAccessChecks : Prop :=
  (∀ (u : State) (h pos va w : Nat) (store : Bool), h < 2048 → va < 2 ^ 64 → w ∈ [1, 2, 4, 8] →
    let t := u.hart h
    let chk := u.vchk h pos va w w store
    let fails : Nat → Prop := fun c => chk = .stop (.exc c)
    let win := winOf va
    let last := winOf ((va + w - 1) % 2 ^ 64)
    let span : (BitVec 32 → Prop) → Prop := fun P => ∀ g off, win = .span g off → ∃ e, SpanEntryIs u h g e ∧ P e
    let sum := t.mode ≠ .s ∨ t.csr.mstatus.getLsbD 18 = true
    let c2 := va % w = 0
    let c3 := RingAllows u h pos store va
    let c5 := span (fun e => e.getLsbD 18 = true)
    let c6 := span (fun e => store = false ∨ e.getLsbD 19 = true)
    let c7 := span (fun e => regionOf (fld e 0 18 * 2 ^ 21 + va % 2 ^ 21) = .dram)
    let c8 := span (fun e => u.homeOk (fld e 21 7) = true)
    (∀ k rs r, SlotBound u h k rs r → r.Legal) →
    (¬SameExtent win last → fails 30) ∧
    (SameExtent win last → ¬sum → fails (if store then 15 else 13)) ∧
    (SameExtent win last → sum → ¬c2 → fails (if store then 6 else 4)) ∧
    (SameExtent win last → sum → c2 →
      (¬c3 → fails 25) ∧ (¬c5 → chk = .stop (.absent true)) ∧ (c5 → ¬c6 → fails 15) ∧ (c5 → c6 → ¬c7 → fails 30) ∧
      (c3 → c5 → c6 → c7 → ∀ pa, WindowPlace u h va pa →
        (u.backing pa = .unbacked → fails 30) ∧ (u.backing pa = .offline → chk = .stop (.offline (if store then 7 else 5))) ∧
        (u.backing pa = .ok → store = false → u.poisoned pa w = true → fails 5) ∧
        (u.backing pa = .ok → store = true ∨ u.poisoned pa w = false →
          (¬c8 → fails (if store then 7 else 5)) ∧ (c8 → chk = .ok pa))))) ∧
  (∀ (s : State) (h : Nat) (e : VEntry) (v2 : Nat) (is : List Nat) (store : Bool),
    let v := (s.hart h).vec
    let n := accBytes e.ty
    let chk : AddrForm → Nat → VChk := fun a i => s.vchk h e.pos (e.addr v a v2 i) n n store
    (∀ i, e.addr v .unit v2 i = (e.x1.toNat + i * ebits e.ty / 8) % 2 ^ 64) ∧
    (∀ i, e.addr v .stride v2 i = (e.x1.toNat + i * e.x2.toNat) % 2 ^ 64) ∧
    (∀ i, e.addr v .index v2 i = (e.x1.toNat + (v.reg v2).elem (ebits e.ty) i) % 2 ^ 64) ∧
    (∀ a (pa : Nat → Nat), (∀ i ∈ is, chk a i = .ok (pa i)) → s.checked h e a v2 is store = .ok (is.map (fun i => (i, e.addr v a v2 i, pa i)))) ∧
    (∀ a front i back x, is = front ++ i :: back → (∀ j ∈ front, ∃ p, chk a j = .ok p) → chk a i = .stop x →
      s.checked h e a v2 is store = .error (x, e.addr v a v2 i))) ∧
  (∀ (s : State) (h : Nat) (q : VQueue) (e : VEntry) (a : AddrForm) (nt : Bool) (v v2 k va : Nat) (x : Stop), MayBegin s h q e →
    (e.op = .ld a nt v v2 k ∧ e.q = .vlq ∨ e.op = .st a nt v v2 k ∧ e.q = .vsq) →
    s.checked h e a v2 ((e.actives (s.hart h).vec k e.next).filter (VEntry.indexed (s.hart h).vec a v2)) (decide (e.q = .vsq)) = .error (x, va) →
    VectorStops (.vectorGroupIssue h q) s h e x va)

/-- R155 to R158: a group of vqld or vqst begins once its blocks pass the checks of Table 5-3, the code bytes and the tail of each, and the
address is aligned; the first run that fails stops it, the misaligned address after the window of the first run (log 43 for its trap value).
vqld reads each code byte and tail, and lands every block: element times scale, rounded once, or, where the scale is NaN or a code
invalidating, canonical NaNs with the block invalid.

R159 to R164: vqst shapes its blocks through the leeway register as the stream goes on, and stores the code bytes and, into the tail, the
scales; the register takes the residues and the position. R192: mst does the same with the 32,768 elements of a tile, in row or column
order. An l8q coordinate that is infinite is log 35's reading, and left open here; that a group waits for an older array command on its
granules is log 58's (DEDUCED). -/
def Obligations.QuantisedLoadsAndStores : Prop :=
  (∀ (s : State) (h : Nat) (q : VQueue) (e : VEntry) (fmt : Nat), fmt < 6 → e.vl % 32 = 0 → MayBegin s h q e →
    let t0 := s.hart h
    let v := t0.vec
    let a := e.x1.toNat
    let n := ebits e.ty
    let issue := Instr.vectorGroupIssue h q
    let lo := e.next * (2048 / n) / 32
    let nb := min (2048 / n) (e.vl - e.next * (2048 / n)) / 32
    let blocks := (List.range nb).map (· + lo)
    let code : Nat → Nat := fun j => (blockPlace a fmt j).2.1
    let tail : Nat → Nat := fun j => (blockPlace a fmt j).2.2
    let runs := blocks.flatMap (fun j => [(code j, codeBytes fmt), (tail j, 8)])
    let clear : Bool → Acc → Prop := fun write x =>
      (∀ b ∈ v.queue, b.seq < e.seq → s.toCome h b x.pa x.width = false) ∧
      (∀ b, CommandBefore s h e b → ∀ r ∈ b.range, shareGranule r.1 r.2 x.pa x.width = false) ∧ s.held h e.pos x.va x.width write = false
    let begins : Bool → List Acc → (Vec → Prop) → Prop := fun write accs P =>
      ((∀ x ∈ accs, clear write x) → Answers issue s (fun t => OnlyVec s t h ∧ P (t.hart h).vec ∧
        ∃ b ∈ (t.hart h).vec.queue, b.seq = e.seq ∧ b.next = e.next + 1 ∧ b.pend = e.pend ++ accs)) ∧
      ((∃ x ∈ accs, ¬clear write x) → Answers issue s (fun t => t = s))
    let placed : Bool → (Nat → Nat → Nat) → (Nat → Nat → Nat) → Prop := fun store P T => ∀ j ∈ blocks,
      RunOk s h e.pos (code j) (codeBytes fmt) store (P j) ∧ RunOk s h e.pos (tail j) 8 store (T j)
    (∀ r ly store, (e.op = .qld r fmt ∧ store = false ∨ e.op = .qst r fmt ly ∧ store = true) →
      (∀ front va w back x b, runs = front ++ (va, w) :: back → (∀ r ∈ front, ∃ P, RunOk s h e.pos r.1 r.2 store P) →
        RunStops s h e.pos va w store x b → a / 4 % 2 = 0 ∨ (front = [] ∧ ¬SameExtent (winOf va) (winOf b)) → VectorStops issue s h e x b) ∧
      (a / 4 % 2 = 1 → (∀ i, i < codeBytes fmt → SameExtent (winOf (code lo)) (winOf (code lo + i))) →
        (t0.mode ≠ .s ∨ t0.csr.mstatus.getLsbD 18 = true) → VectorStops issue s h e (.exc (if store then 6 else 4)) a)) ∧
    (∀ vd P T, e.op = .qld vd fmt → a / 4 % 2 = 0 → placed false P T →
      let acc : Nat → Nat → Nat → Nat → Nat → Acc := fun j i va pa w =>
        { group := e.next, idx := 64 * j + i, va := va, pa := pa, width := w, kind := .load, val := 0, nt := false }
      begins false (blocks.flatMap (fun j => (List.range (codeBytes fmt)).map (fun i => acc j i (code j + i) (P j i) 1) ++
        [acc j 63 (tail j) (T j 0) 8])) (fun _ => True)) ∧
    (∀ vs ly f P T, e.op = .qst vs fmt ly → fmtOf e.ty = some f → a / 4 % 2 = 0 → placed true P T → let l := v.ly.get Leeway.start ly
      ∃ bytes scale r, StreamShaped fmt l nb (fun j => (v.reg vs).ok (lo + j)) (fun i => f.val ((v.reg vs).elem n (32 * lo + i))) bytes scale r ∧
        let acc : Nat → Nat → Nat → Nat → Nat → AccKind → Word → Acc := fun j i va pa w k x =>
          { group := e.next, idx := 64 * j + i, va := va, pa := pa, width := w, kind := k, val := x, nt := false }
        begins true (blocks.flatMap (fun j =>
          (List.range (codeBytes fmt)).map (fun i => acc j i (code j + i) (P j i) 1 .store (((bytes (j - lo)).getD i 0).setWidth 64)) ++
          [acc j 63 (tail j) (T j 0) 8 (.tail (scaleField fmt (blockPlace a fmt j).1).1 (scaleField fmt (blockPlace a fmt j).1).2)
            (BitVec.ofNat 64 (scale (j - lo)))]))
          (fun w => w.ly.get Leeway.start ly = { l with res := r, p := (l.p + 32 * nb) % l.c } ∧
            (∀ k, k ≠ ly → w.ly.get Leeway.start k = v.ly.get Leeway.start k) ∧ (v.queue = [e] → e.got = [] → w.v = v.v)))) ∧
  (∀ (e : VEntry) (v : Vec) (g vd fmt : Nat) (f : Fmt) (x : Nat → Word), e.op = .qld vd fmt → fmt < 6 → fmtOf e.ty = some f → e.vl % 32 = 0 →
    e.vl * ebits e.ty ≤ 65536 → e.frm.toNat < 5 →
    let n := ebits e.ty
    let size := 2048 / n
    let mine : Nat → Prop := fun j => g * size ≤ 32 * j ∧ 32 * j < (g + 1) * size ∧ 32 * j < e.vl
    (∀ d ∈ e.got, d.group = g → d.val = x d.idx) →
    (∀ j i, mine j → i < codeBytes fmt ∨ i = 63 → ∃ d ∈ e.got, d.group = g ∧ d.idx = 64 * j + i) →
    ∃ (c : Nat → Nat) (ok : Nat → Prop), WroteElems v (e.land v g) vd n (fun i => mine (i / 32)) c (fun i => ok (i / 32)) ∧
      ∀ j, mine j → let w := scaleField fmt (blockPlace e.x1.toNat fmt j).1
        BlockLoads f e.frm.toNat fmt (fun i => (x (64 * j + i)).toNat % 256) (fld (x (64 * j + 63)) w.1 w.2) (fun i => c (32 * j + i)) (ok j)) ∧
  (∀ (s : State) (h vd fmt : Nat) (e : VEntry) (x : Acc), (s.hart h).vec.queue = [e] → e.q ≠ .vaq → e.op = .qld vd fmt → e.pend = [x] →
    x.kind = .load → (∀ d ∈ e.got, d.group = x.group) → s.accReady h e x = true →
    let datum : Got := { group := x.group, idx := x.idx, val := BitVec.ofNat 64 (s.mem64 x.pa x.width), ok := true }
    Answers (.vectorAccessComplete h 0) s (fun t =>
      { (t.hart h).vec with queue := [e] } = ({ e with got := e.got ++ [datum] } : VEntry).land (s.hart h).vec x.group ∧
      ((t.hart h).vec.queue = [] ↔ e.groups ≤ e.next))) ∧
  (∀ (s : State) (cl z fmt ly : Nat) (col : Bool) (a : ACmd), let c := s.cluster cl
    let n0 := a.x1.toNat % 4
    let size := 4 * codeBytes fmt + 8
    let at_ : Nat → Nat := fun o =>
      rangeAt a.range (o - n0 * codeBytes fmt - (if n0 ≠ 0 ∧ 256 * size + 4 * codeBytes fmt ≤ o then (4 - n0) * codeBytes fmt else 0))
    let code : Nat → Nat → Nat := fun j i => at_ ((n0 + j) / 4 * size + (n0 + j) % 4 * codeBytes fmt + i)
    let tail : Nat → Nat → Nat := fun m i => at_ (m * size + 4 * codeBytes fmt + i)
    let tails := if n0 = 0 then 256 else 257
    let l := (s.hart a.hart).vec.ly.get Leeway.start ly
    let word : State → Nat → Nat := fun u m => ((List.range 8).map (fun i => (u.byte (tail m i)).toNat * 256 ^ i)).sum
    c.executing = some a → c.lease.ending = none → a.op = .mst z fmt ly col → fmt < 6 → s.badPiece a = none →
    (∀ j i j' i', j < 1024 → i < codeBytes fmt → j' < 1024 → i' < codeBytes fmt → code j i = code j' i' → j = j' ∧ i = i') →
    (∀ m i m' i', m < tails → i < 8 → m' < tails → i' < 8 → tail m i = tail m' i' → m = m' ∧ i = i') →
    (∀ j i m i', j < 1024 → i < codeBytes fmt → m < tails → i' < 8 → code j i ≠ tail m i') →
    ∃ bytes scale r, StreamShaped fmt l 1024 (fun _ => true)
      (fun i => Fmt.f32.val (c.tileAt z (if col then i % 256 * 128 + i / 256 else i))) bytes scale r ∧
      Answers (.arrayCommandComplete cl 0) s (fun t => let b := t.hart a.hart
        t.cluster cl = { c with executing := none } ∧ (∀ j, j ≠ cl → t.cluster j = s.cluster j) ∧
        b = { s.hart a.hart with resv := b.resv, vec := { (s.hart a.hart).vec with ly := b.vec.ly } } ∧
        b.vec.ly.get Leeway.start ly = { l with res := r, p := (l.p + 32768) % l.c } ∧
        (∀ k, k ≠ ly → b.vec.ly.get Leeway.start k = (s.hart a.hart).vec.ly.get Leeway.start k) ∧
        (∀ j, j ≠ a.hart → t.hart j = { s.hart j with resv := (t.hart j).resv }) ∧
        (∀ j i, j < 1024 → i < codeBytes fmt → t.byte (code j i) = (bytes j).getD i 0) ∧
        (∀ m k j i, m < tails → k < 4 → 4 * m + k = n0 + j → j < 1024 → i < (scaleField fmt k).2 →
          (word t m).testBit ((scaleField fmt k).1 + i) = (scale j).testBit i) ∧
        (∀ m i, m < tails → i < 64 → (∀ k j, k < 4 → 4 * m + k = n0 + j → j < 1024 → i < (scaleField fmt k).1 ∨
          (scaleField fmt k).1 + (scaleField fmt k).2 ≤ i) → (word t m).testBit i = (word s m).testBit i) ∧
        (∀ p, (∀ j i, j < 1024 → i < codeBytes fmt → p ≠ code j i) → (∀ m i, m < tails → i < 8 → p ≠ tail m i) → t.byte p = s.byte p) ∧
        (∀ k, t.core k = { s.core k with l1 := (t.core k).l1, l1used := (t.core k).l1used, slice := (t.core k).slice }) ∧
        { t with mem := s.mem, harts := s.harts, cores := s.cores, clusters := s.clusters, dev := { t.dev with poison := s.dev.poison } } = s))

/-- R208, R209, R213, R215, R216: a posted release takes effect once the older accesses to its stage are done: a producer's counts an
arrival, and the stage completes where its arrivals reach its expectations and it is the lowest that is not complete; the last consumer
release of stage R moves the ring on by one, and no member has that stage acquired any more. The engine moves a piece once older stores to
its granules are done, and for what it writes older loads (R261), the leaves of both endpoints marked before its first byte moves (R131); an
address that fails ends the transfer with its channel's error flag set and a COPY_FAILED entry, a translation found stale there discarded
first (R131), and where two walks run on its core it waits (R133); a transfer whose bytes have all moved leaves its channel, and the
watermark passes contiguous completions. That a piece of at most 8 bytes moves in one operation is log 48's reading, which older loads a
copy waits for log 20's; what `Performed` says of error marks is log 52's (DEDUCED). -/
def Obligations.RingAndCopyEvents : Prop :=
  ∀ (s : State) (h k : Nat), let t0 := s.hart h
    let cl := clOf h
    let dropped : Staging := { t0.stg with releases := dropAt t0.stg.releases k }
    let event : Bool → Instr := fun p => if p then .ringArrival h k else .ringConsumerRelease h k
    (∀ l, t0.stg.releases[k]? = some l →
      (s.ring cl l.ring = none → Answers (event l.producer) s (fun t => OnlyStg s t h dropped)) ∧
      Answers (event (!l.producer)) s (fun t => t = s) ∧
      (∀ r, s.ring cl l.ring = some r → s.releaseReady h l r = false → Answers (event l.producer) s (fun t => t = s)) ∧
      (∀ r, s.ring cl l.ring = some r → s.releaseReady h l r = true → l.producer = true →
        (r.stage l.stage = none → Answers (.ringArrival h k) s (fun t => OnlyStg s t h dropped)) ∧
        (∀ g, r.stage l.stage = some g → g.complete = true → Answers (.ringArrival h k) s (fun t => OnlyStg s t h dropped)) ∧
        (∀ g, r.stage l.stage = some g → g.complete = false → Answers (.ringArrival h k) s (fun t =>
          t.hart h = { t0 with stg := dropped } ∧ (∀ j, j ≠ cl → t.cluster j = s.cluster j) ∧
          OnlyHartAnd s t h (fun t => { t with clusters := s.clusters, fe := s.fe }) ∧
          ∃ r', t.ring cl l.ring = some r' ∧ r' = { r with stages := r'.stages } ∧ ∃ g', r'.stage l.stage = some g' ∧
            g' = { g with arr := g.arr + 1, complete := g'.complete } ∧ (g'.complete = true → g.exp ≤ g.arr + 1) ∧
            (r.open_ = l.stage → g.exp ≤ g.arr + 1 → g'.complete = true)))) ∧
      (∀ r g, s.ring cl l.ring = some r → s.releaseReady h l r = true → l.producer = false → r.stage r.r = some g →
        let n := g.released + (if l.stage = r.r then 1 else 0)
        let up : List Stage := r.stages.map (fun t => if t.seq = l.stage then { t with released := t.released + 1 } else t)
        let then_ : Nat → Hart := fun j => if j = h then { t0 with stg := dropped } else s.hart j
        Answers (.ringConsumerRelease h k) s (fun t =>
          (∀ j, j ≠ cl → t.cluster j = s.cluster j) ∧ { t with harts := s.harts, clusters := s.clusters, fe := s.fe } = s ∧
          (∀ j, clOf j ≠ cl → t.hart j = then_ j) ∧
          (n < r.q → (∀ j, t.hart j = then_ j) ∧ t.fe = s.fe ∧ t.ring cl l.ring = some { r with stages := up }) ∧
          (r.q ≤ n → (∀ j, clOf j = cl →
            t.hart j = { then_ j with stg := { (then_ j).stg with rings := (t.hart j).stg.rings } } ∧
            ∀ w, (t.hart j).stg.rings.find w = ((then_ j).stg.rings.find w).map (fun rs =>
              if rs.ring = l.ring then { rs with acq := rs.acq.filter (fun y => decide (y ≠ r.r)) } else rs)) ∧
            t.ring cl l.ring = some { r with
            stages := up.filter (fun t => t.seq != r.r) ++ [{ seq := r.r + r.n, exp := r.p + r.pendExp, arr := 0, complete := false, released := 0 }],
            r := r.r + 1, pendExp := 0 } ∧
            ∀ a, t.full a = if r.vault = false ∧ (r.basePa + r.r % r.n * r.z) / 128 ≤ a ∧ a < (r.basePa + r.r % r.n * r.z) / 128 + r.z / 128
              then false else s.full a)))) ∧
    (∀ ch n x, ch < 4 → s.xfer h ch k = some x → let p := x.piece n
      let moves := Instr.copyMove h ch k n
      let from_ := s.engineRange x false p.1 p.2.2 []
      let into := s.engineRange x true p.2.1 p.2.2 []
      x.tag = none → p.2.2 ≠ 0 → n < x.runs * x.perRun → n ∉ x.moved →
      let stopsAt : Stop → Nat → Prop := fun z va =>
        (x.zero = false ∧ from_ = .error (z, va)) ∨ ((x.zero = true ∨ ∃ l, from_ = .ok l) ∧ into = .error (z, va))
      (∀ va, stopsAt .busy va → Answers moves s (fun t => t = s)) ∧
      (∀ c va, stopsAt (.exc c) va →
        Answers moves s (fun t => ∃ s1 u v g, StaleDropped s s1 x.hart ∧ OnlyStg s1 u h g ∧ g = { t0.stg with chans := g.chans } ∧
          (∀ j, j ≠ ch → g.chans.get Chan.start j = t0.stg.chans.get Chan.start j) ∧
          (let b := t0.stg.chans.get Chan.start ch
           g.chans.get Chan.start ch = { b with xfers := dropAt b.xfers k, err := true }) ∧
          FqPosted u x.ctx { kind := 1, addr := va, hart := some h, chan := ch, tile := 0, xfer := x.id.toNat, cause := c } v ∧
          OnlyStg v t h { (v.hart h).stg with detached := (v.hart h).stg.detached.filter (fun d => !d.chan.xfers.isEmpty) })) ∧
      (x.moved ≠ [] ∨ x.virt = false → s.copyLeaves x = .ok s) ∧
      (∀ froms tos y, (x.zero = false → from_ = .ok froms) → (x.zero = true → froms = []) → into = .ok tos → tos.head? = some y →
        (∀ r o, winOf p.2.1 ≠ .ring r o) →
        let waits := (∃ z ∈ froms, s.copyWaits x z.pa 1 false = true) ∨ ∃ z ∈ tos, s.copyWaits x z.pa 1 true = true
        (waits → Answers moves s (fun t => t = s)) ∧
        (¬waits → ∀ v, s.copyLeaves x = .ok v → let u0 := (froms ++ tos).foldl (fun (s : State) y => s.setAD y) v
          Answers moves s (fun t => ∃ u,
            Performed u0 true 2048 none y.pa (if x.zero then List.replicate p.2.2 0 else froms.map (fun z => u0.byte z.pa)) u ∧
            t.xfer h ch k = some { x with moved := n :: x.moved } ∧ (∀ j, j ≠ h → t.hart j = u.hart j) ∧
            t.hart h = { u.hart h with stg := { t0.stg with chans := (t.hart h).stg.chans } } ∧ { t with fe := u.fe, harts := u.harts } = u)))) ∧
    (∀ ch x, ch < 4 → s.xfer h ch k = some x → let c := t0.stg.chans.get Chan.start ch
      (x.done = false → Answers (.copyComplete h ch k) s (fun t => t = s)) ∧
      (x.done = true → Answers (.copyComplete h ch k) s (fun t => let d := (t.hart h).stg.chans.get Chan.start ch
        OnlyStg s t h (t.hart h).stg ∧ (∀ j, j ≠ ch → (t.hart h).stg.chans.get Chan.start j = t0.stg.chans.get Chan.start j) ∧
        d.xfers = dropAt c.xfers k ∧ d = { c with xfers := d.xfers, wm := d.wm, above := d.above } ∧
        (x.id = c.wm → c.above = [] → d.wm = c.wm + 1 ∧ d.above = []) ∧
        (x.id ≠ c.wm → c.wm ∉ c.above → d.wm = c.wm ∧ d.above = x.id :: c.above))))

/-- R221, R222: the next group of a vsend, with its elements and their validity, arrives at the peer's receive buffer while that has a credit;
it waits while the stream is not connected, and to a closed peer delivers nothing; one with VL = 0 sends a message of no element. A vrecv
group takes the elements of the message's next group, each block it reaches as valid as the message says, or, with other element sizes, its
bits with the validity cleared; at its last group it discards what is left of the message; with
an empty buffer it waits, or, from a closed peer, completes. A vrecv group that has waited 4,096
cy, or as long since its last probe, sends one; a probe that comes home raises STREAM_CYCLE (27) with its hops, one at a strand with a
probe of its own of a lower hart is dropped, as is one at an endpoint whose task is off its core (R223), and a strand that waits on a
stream forwards it to the peer it waits for: where it waits both ways, its vrecv's, by the model's choice (log 71). -/
def Obligations.StreamEvents : Prop :=
  ∀ (s : State) (h ep : Nat), let t0 := s.hart h
    (∀ (e : VEntry) v, e.op = .send v ∨ e.op = .recv v → e.vl = 0 → e.groups = 1) ∧
    (∀ e v x pe y, MayBegin s h .vsq e → e.op = .send v → e.x1.toNat = ep → s.endpoint h ep = some x → x.link = .joined pe →
      s.endpoint x.peer pe = some y →
      (y.skip = false → y.buf.length < 8 → Answers (.streamGroupArrival h ep) s (fun t =>
        (∃ m : MsgGroup, t.endpoint x.peer pe = some { y with buf := y.buf ++ [m] } ∧ m.vl = e.vl ∧ m.ebits = ebits e.ty ∧
          m.valid = (t0.vec.reg v).valid ∧ (m.last = true ↔ e.groups ≤ e.next + 1) ∧
          m.data.length = min 256 ((e.vl * ebits e.ty + 7) / 8 - 256 * e.next) ∧
          ∀ i, i < m.data.length → m.data.getD i 0 = (t0.vec.reg v).bits.extractLsb' (8 * (256 * e.next + i)) 8) ∧
        (∀ j i, j ≠ x.peer ∨ i ≠ pe → t.endpoint j i = s.endpoint j i) ∧ (∀ j, j ≠ h → j ≠ x.peer → t.hart j = s.hart j) ∧
        (t.hart h).pc = t0.pc ∧ (t.hart h).x = t0.x ∧ SameMem s t ∧ { t with harts := s.harts } = s ∧
        ∀ b ∈ (t.hart h).vec.queue, b.seq = e.seq → b.next = e.next + 1)) ∧
      (y.skip = false → 8 ≤ y.buf.length → Answers (.streamGroupArrival h ep) s (fun t => t = s))) ∧
    (∀ e vd x, MayBegin s h .vlq e → e.op = .recv vd → e.x1.toNat = ep → s.endpoint h ep = some x → t0.vec.queue = [e] → e.pend = [] → e.got = [] →
      let issue := Instr.vectorGroupIssue h .vlq
      let n := ebits e.ty
      let fin := e.groups ≤ e.next + 1
      (x.buf = [] → x.link = .closed → Answers issue s (fun t => OnlyHart s t h ∧ t.hart h = { t0 with vec := { t0.vec with queue := [] } })) ∧
      (x.buf = [] → x.link ≠ .closed → Answers issue s (fun t => OnlyHart s t h ∧
        t.hart h = { t0 with vec := { t0.vec with queue := [{ e with since := some (e.since.getD s.dev.cy) }] } })) ∧
      (∀ m r, x.buf = m :: r → Answers issue s (fun t => let w : Vec := { (t.hart h).vec with queue := [e] }
        OnlyHart s t h ∧ t.hart h = { t0 with vec := (t.hart h).vec, stg := { t0.stg with eps := (t.hart h).stg.eps } } ∧
        (t.hart h).vec.queue = (if fin ∨ m.last = true then [] else [{ e with next := e.next + 1, since := none, probed := none }]) ∧
        (∀ i, i ≠ ep → t.endpoint h i = s.endpoint h i) ∧
        (¬fin ∨ m.last = true → t.endpoint h ep = some { x with buf := r }) ∧
        (fin → m.last = false → (∀ z ∈ r, z.last = false) → t.endpoint h ep = some { x with buf := [], skip := true }) ∧
        (fin → m.last = false → ∀ front z back, r = front ++ z :: back → (∀ y ∈ front, y.last = false) → z.last = true →
          t.endpoint h ep = some { x with buf := back, skip := false }) ∧
        (e.vl * n ≤ 65536 → let k := min (8 * m.data.length) (min (m.vl * m.ebits) (e.vl * n) - 2048 * e.next)
          let inside : Nat → Prop := fun b => 2048 * e.next ≤ b ∧ b < 2048 * e.next + k
          w = { t0.vec with v := w.v } ∧ (∀ j, j ≠ vd → w.reg j = t0.vec.reg j) ∧
          (∀ b, b < 65536 → (w.reg vd).bits.getLsbD b =
            if 2048 * e.next ≤ b ∧ b < 2048 * e.next + k then (ofBytes m.data).testBit (b - 2048 * e.next) else (t0.vec.reg vd).bits.getLsbD b) ∧
          (∀ j, j < 256 → ((∃ b, inside b ∧ b / (32 * n) = j) → ((w.reg vd).ok j = true ↔ m.ebits = n ∧ m.valid.getLsbD j = true)) ∧
            ((∀ b, inside b → b / (32 * n) ≠ j) → (w.reg vd).ok j = (t0.vec.reg vd).ok j)) ∧
          ((∃ b, inside b) → (w.reg vd).dirty = true))))) ∧
    (∀ e v x, MayBegin s h .vsq e → e.op = .send v → e.x1.toNat = ep → s.endpoint h ep = some x → t0.vec.queue = [e] → e.pend = [] → e.got = [] →
      (x.link = .closed → Answers (.vectorGroupIssue h .vsq) s (fun t => OnlyHart s t h ∧ t.hart h = { t0 with vec := { t0.vec with queue := [] } })) ∧
      (x.link = .alone → Answers (.vectorGroupIssue h .vsq) s (fun t => OnlyHart s t h ∧
        t.hart h = { t0 with vec := { t0.vec with queue := [{ e with since := some (e.since.getD s.dev.cy) }] } }))) ∧
    (∀ e peer at_, s.recvWait h = some (e, peer, at_) → let last := e.probed.getD (e.since.getD 0)
      let sends := t0.stg.probe = none ∧ last + 4096 ≤ s.dev.cy
      (sends → Answers (.streamProbeSend h) s (fun t =>
        t.hart h = { t0 with
          stg := { t0.stg with probe := some { origin := h, at_ := peer, ep := at_, hops := 1, due := s.dev.cy + 16 } }
          vec := { t0.vec with queue := t0.vec.queue.map (fun a => if a.seq = e.seq then { a with probed := some s.dev.cy } else a) } } ∧
        OnlyHart s t h)) ∧
      (¬sends → Answers (.streamProbeSend h) s (fun t => t = s))) ∧
    (s.recvWait h = none → Answers (.streamProbeSend h) s (fun t => t = s)) ∧
    (∀ p, t0.stg.probe = some p →
      let goes : Option (Nat × Option Nat) → Prop := fun on => Answers (.streamProbeHop h) s (fun t => OnlyStg s t h { t0.stg with
        probe := on.map (fun w => { p with at_ := w.1, ep := w.2, hops := p.hops + 1, due := s.dev.cy + 16 }) })
      (s.dev.cy < p.due → Answers (.streamProbeHop h) s (fun t => t = s)) ∧
      (p.due ≤ s.dev.cy →
        (p.at_ = h → ∀ e w, s.recvWait h = some (e, w) → ∃ u, OnlyStg s u h { t0.stg with probe := none } ∧
          Answers (.streamProbeHop h) s (TrapTaken (u.stopVector h e.seq) h false 27 (BitVec.ofNat 64 p.hops))) ∧
        (p.at_ = h → s.recvWait h = none → goes none) ∧
        (p.at_ ≠ h →
          let own := ((s.hart p.at_).stg.probe ≠ none ∧ p.at_ < h) ∨
            ∃ i x, p.ep = some i ∧ s.endpoint p.at_ i = some x ∧ x.parked ≠ none
          (own → goes none) ∧
          (¬own → ∀ e w, s.recvWait p.at_ = some (e, w) → goes (some w)) ∧
          (¬own → s.recvWait p.at_ = none → goes (s.creditWait p.at_))))) ∧
    (t0.stg.probe = none → Answers (.streamProbeHop h) s (fun t => t = s))

/-- R219, R225: the oldest command of a link's FIFO starts its turn 2 µs (2,400 cy) after the last change began (Example 9-2), or leaves at once
where the split is its own already; the turn's groups drain, and after 40 ns (48 cy) the new split holds. A change of way roles takes
effect once nothing uses the ways that change: those that cached lose their lines, with every L1 copy of these, those that join or leave
the vault read as zero, and the wayset retires. -/
def Obligations.LinkAndWayEvents : Prop :=
  ∀ (s : State) (l core : Nat), let k := s.link l
    let now := s.dev.cy
    let stays : Instr → Prop := fun i => Answers i s (fun t => t = s)
    (k.fifo = [] ∨ k.turning ≠ none ∨ k.down = true → stays (.linkTurnBegin l)) ∧
    (∀ c n r, k.fifo = (c, n) :: r → k.turning = none → k.down = false →
      (n = k.out → Answers (.linkTurnBegin l) s (fun t => OnlyLink s t l { k with fifo := r })) ∧
      (n ≠ k.out → k.lastChange = none → Answers (.linkTurnBegin l) s (fun t => OnlyLink s t l { k with turning := some (n, none), lastChange := some now })) ∧
      (n ≠ k.out → ∀ b, k.lastChange = some b →
        (b + 2400 ≤ now → Answers (.linkTurnBegin l) s (fun t => OnlyLink s t l { k with turning := some (n, none), lastChange := some now })) ∧
        (now < b + 2400 → stays (.linkTurnBegin l)))) ∧
    (∀ n, k.turning = some (n, none) →
      Answers (.linkTurnDrained l) s (fun t => OnlyLink s t l { k with turning := some (n, some now) }) ∧ stays (.linkTurnDone l)) ∧
    (∀ n b, k.turning = some (n, some b) → stays (.linkTurnDrained l) ∧
      (b + 48 ≤ now → Answers (.linkTurnDone l) s (fun t =>
        OnlyLink s t l { k with out := n, fifo := k.fifo.tail, turning := none })) ∧
      (now < b + 48 → stays (.linkTurnDone l))) ∧
    (k.turning = none → stays (.linkTurnDrained l) ∧ stays (.linkTurnDone l)) ∧
    ((s.core core).waysNew = none → stays (.waysetComplete core)) ∧
    (∀ n, (s.core core).waysNew = some n →
      let changes : Nat → Prop := fun w => w < 16 ∧ fld (s.core core).ways (2 * w) 2 ≠ fld n (2 * w) 2
      let cleared : Nat → Prop := fun a => ∃ w, changes w ∧ (fld (s.core core).ways (2 * w) 2 = 1 ∨ fld n (2 * w) 2 = 1) ∧
        wayBase core w ≤ a ∧ a < wayBase core w + 0x80000
      ((∃ w, changes w ∧ s.wayBusy core w = true) → stays (.waysetComplete core)) ∧
      ((∀ w, changes w → s.wayBusy core w = false) → Answers (.waysetComplete core) s (fun t =>
        (∀ a, (cleared a → t.byte a = 0) ∧ (¬cleared a → t.byte a = s.byte a)) ∧
        (∀ c, let b := if c = core then { s.core c with ways := n, waysNew := none, slice := (t.core c).slice } else s.core c
          t.core c = { b with l1 := (t.core c).l1, l1used := (t.core c).l1used }) ∧
        (∀ x, x ∈ (t.core core).slice ↔ x ∈ (s.core core).slice ∧ ¬changes x.way) ∧
        (∀ c a, a ∈ (t.core c).l1 ↔ a ∈ (s.core c).l1 ∧ ¬∃ x ∈ (s.core core).slice, changes x.way ∧ x.addr = a / 256 * 256) ∧
        (∀ h x, s.harts.find? (fun p => decide (p.2.wait = .wayset core)) = some (h, x) →
          t.hart h = { (s.hart h).retired ((s.hart h).pc + 4) with resv := (t.hart h).resv } ∧
          ∀ j, j ≠ h → t.hart j = { s.hart j with resv := (t.hart j).resv }) ∧
        (s.harts.find? (fun p => decide (p.2.wait = .wayset core)) = none → ∀ j, t.hart j = { s.hart j with resv := (t.hart j).resv }))))

/-- R238, R241, R243 to R247, R233: the distributor takes a query, hands out NEXT and advances it, and writes the answer behind the strand's
older stores, its line full; a dispatcher launches the candidate of the one queue it considers, its tasks on the free strands in order; an
exit whose older accesses have performed posts its successors, or counts a join down, and frees its strand (log 27 for a join counter in a
remote window, whose value is free); a queue grows older, its candidate reserves a cluster,
or it becomes eligible by its batch wait; an issue lowered by an overflow returns to normal. How the dispatcher reads a block is log 23's
reading; what `Performed` says of error marks is log 52's (DEDUCED). -/
def Obligations.TaskEvents : Prop :=
  ∀ (s : State) (h k cl q : Nat), let now := s.dev.cy
    let t0 := s.hart h
    let stays : Instr → Prop := fun i => Answers i s (fun t => t = s)
    (∀ y, s.dev.queries[k]? = some y →
      let before : Query → Prop := fun p => p.hart = y.hart ∧ p.counter = y.counter ∧ p.ctx = y.ctx
      let older := s.dev.queries.take k
      let i := 64 * y.ctx + y.counter
      let next := fld (s.dev.counters.get 0 (2 * i)) 0 32
      let lim := fld (s.dev.counters.get 0 (2 * i + 1)) 0 32
      let step := fld (s.dev.counters.get 0 (2 * i + 1)) 32 16
      let took : Word → Prop := fun v => Answers (.wdqAnswer k) s (fun t =>
        t.dev = { s.dev with counters := t.dev.counters, queries := s.dev.queries.take k ++ { y with answer := some v } :: s.dev.queries.drop (k + 1) } ∧
        { t with dev := s.dev } = s ∧ (∀ j, j ≠ 2 * i → t.dev.counters.get 0 j = s.dev.counters.get 0 j) ∧
        fld (t.dev.counters.get 0 (2 * i)) 32 32 = fld (s.dev.counters.get 0 (2 * i)) 32 32 ∧
        fld (t.dev.counters.get 0 (2 * i)) 0 32 = if step = 0 ∨ lim ≤ next then next else min (next + step) lim)
      (y.answer = none → (∃ p ∈ older, before p ∧ p.answer = none) → stays (.wdqAnswer k)) ∧
      (y.answer = none → (∀ p ∈ older, before p → p.answer ≠ none) →
        took (if step = 0 then 0xFFFFFFFE#64 else if lim ≤ next then 0xFFFFFFFF#64 else BitVec.ofNat 64 next)) ∧
      let stored := (∀ x ∈ (s.hart y.hart).stores, y.pos ≤ x.pos) ∧ StoresOut s y.hart y.pos
      (∀ v, y.answer = some v → (∃ p ∈ older, before p) ∨ ¬stored → stays (.wdqAnswer k)) ∧
      (∀ v, y.answer = some v → (∀ p ∈ older, ¬before p) → stored →
        Answers (.wdqAnswer k) s (fun t => ∃ u,
          Performed { s with dev := { s.dev with queries := older ++ s.dev.queries.drop (k + 1) } } true y.hart none y.pa (bytesOf 8 v.toNat) u ∧
          t.full (y.pa / 128) = true ∧ (∀ l, l ≠ y.pa / 128 → t.full l = u.full l) ∧ t.mem = u.mem ∧ t.harts = u.harts))) ∧
    (let fs := s.freeStrands cl
      let x := s.queue q
      let c := s.ctx x.ctx
      (fs = [] ∨ (s.cluster cl).coreIsland.backed = false ∨ s.dieUp (cl / 32) = false → stays (.dispatch cl)) ∧
      ((s.cluster cl).coreIsland.backed = true → s.dieUp (cl / 32) = true → (s.cluster cl).reserved = none → s.considered cl = [q] →
        x.bound = false → (∀ r ∈ x.recs, r.overflow = false) → ∀ (i : Nat) (r : Record) (b : Block), s.candidate q = some i → x.recs[i]? = some r →
        fld r.data 128 32 = 0 → let va := fld r.data 64 64
        s.readBlock (fs.headD 0) x.ctx va = some b → fld b 128 5 ≤ fs.length →
        ∀ slots : Nat → Option Nat,
        (fld c.stks 4 28 = 0 → ∀ i, slots i = none) →
        (fld c.stks 4 28 ≠ 0 → ∃ l, c.freeSlots = some l ∧ fld b 128 5 ≤ l.length ∧ ∀ i, slots i = l[i]?) →
        Answers (.dispatch cl) s (fun t => SameMem s t ∧ (∀ j, j ∉ fs.take (fld b 128 5) → t.hart j = s.hart j) ∧
          Tracked { x with recs := x.recs.take i ++ x.recs.drop (i + 1) } (t.queue q) ∧ (∀ j, j ≠ q → t.queue j = s.queue j) ∧
          (∀ j f, j < fld b 128 5 → fs[j]? = some f → let y := t.hart f
            let coord : Word := BitVec.ofNat 64 (j + j / fld b 133 5 * 16 + c.groupSerial % 2 ^ 24 * 2 ^ 8)
            y.on = true ∧ y.mode = .u ∧ y.wait = .none ∧ y.pc = BitVec.ofNat 64 (fld b 0 64) ∧
            y.task = some { ctx := x.ctx, cls := fld b 160 2, prio := fld b 162 3, slot := slots j, coord := coord } ∧
            (∀ n, t.x f n = if n = 2 then
                (match slots j with | some m => BitVec.ofNat 64 (16 * fld c.stkb 4 53 + (m + 1) * 16 * fld c.stks 4 28) | none => 0)
              else if n = 10 then BitVec.ofNat 64 (fld b 64 64) else if n = 11 then BitVec.ofNat 64 (va + 40)
              else if n = 12 then coord else 0)) ∧
          (t.ctx x.ctx).groupSerial = c.groupSerial + 1))) ∧
    (∀ es, t0.wait = .exit es → s.drained h = false → stays (.exitPerform h)) ∧
    (let c := (s.ctxOf h).getD 16
      let ended : State → State → Prop := fun u t =>
        t.hart h = { t0 with
          on := false, task := none, wait := .none, resv := none, vec := (t.hart h).vec, stg := (t.hart h).stg, arr := (t.hart h).arr } ∧
        (∀ j, j ≠ h → t.hart j = { s.hart j with stg := (t.hart j).stg, resv := (t.hart j).resv, arr := (t.hart j).arr }) ∧
        (∀ a, t.byte a = u.byte a) ∧
        (∀ y n, t0.task = some y → y.slot = some n → n ∉ (t.ctx y.ctx).slots)
      s.drained h = true → (s.ctx c).killing = false →
      (t0.wait = .exit [] → Answers (.exitPerform h) s (fun t => ended s t ∧ t.queues = s.queues)) ∧
      (∀ e, t0.wait = .exit [e] → e.join = none → (s.queue e.queue).recs.length < (s.queue e.queue).hard →
        Answers (.exitPerform h) s (fun t => ended s t ∧ (∀ j, j ≠ e.queue → t.queue j = s.queue j) ∧
          ∃ d : BitVec 512, (let y := s.queue e.queue
            let new : Record := { data := d, at_ := now, rank := h + 1, overflow := false, serial := y.serial }
            let before := y.recs.takeWhile (fun r => decide (r.at_ < now) || decide (r.rank ≤ h + 1))
            Tracked { y with recs := y.recs.insertIdx before.length new, serial := y.serial + 1 } (t.queue e.queue)) ∧
            fld d 0 32 = e.key % 2 ^ 32 ∧ fld d 32 24 = 0 ∧ fld d 56 8 = 1 ∧ fld d 64 64 = e.block % 2 ^ 64 ∧ fld d 128 384 = 0)) ∧
      (∀ e pa, t0.wait = .exit [e] → e.join = some pa → MemoryAt pa →
        (2 ≤ s.mem64 pa 4 → Answers (.exitPerform h) s (fun t => ∃ u,
          Performed s true h (ownCore h) pa (bytesOf 4 (s.mem64 pa 4 - 1)) u ∧ ended u t ∧ t.queues = s.queues)) ∧
        (s.mem64 pa 4 = 0 → ∀ x, s.ctxOf h = some x → Answers (.exitPerform h) s (fun t => ∃ u,
          FqPosted s x { kind := 5, addr := e.block + 28, hart := some h, chan := 0, tile := 0, xfer := 0, cause := 0 } u ∧ ended u t ∧
          t.queues = s.queues))) ∧
      (∀ e pa, t0.wait = .exit [e] → e.join = some pa → isRemote pa = true → let v := (Config.lostLoad s.freeCount).toNat % 2 ^ 32
        let w := s.dev.windows.get [] (pa / 2 ^ 40 - 128)
        let qp := fld (w.getD 0 0) 1 12
        fld ((s.dev.qps.get [] qp).getD 0 0) 1 2 = 1 → Answers (.exitPerform h) s (fun t => t.freeCount = s.freeCount + 1 ∧
          (2 ≤ v → (t.hart h).on = false ∧ (t.hart h).task = none ∧ SameMem s t ∧ t.queues = s.queues ∧
            t.sent = s.sent ++ [(2, qp, bytesOf 8 (w.getD 1 0 + BitVec.ofNat 64 (pa % 2 ^ 40)).toNat ++ bytesOf 4 (fld (w.getD 2 0) 0 32) ++
            bytesOf 4 (v - 1))])))) ∧
    (∀ n, (s.queue q).eligible = some n →
      (s.eligible q = true → n + 65536 ≤ now → (s.queue q).aged < 7 →
        Answers (.queueAging q) s (fun t => OnlyQueue s t q { s.queue q with aged := (s.queue q).aged + 1, eligible := some now })) ∧
      (now < n + 65536 → stays (.queueAging q))) ∧
    (∀ id n, (s.queue q).passed.find cl = some (id, n) →
      (s.eligible q = true → s.inScope cl q = true → s.candId q = some id → n + 65536 ≤ now → (s.cluster cl).reserved = none →
        Answers (.candidateReservation cl q) s (fun t => OnlyCluster s t cl { s.cluster cl with reserved := some (q, id) })) ∧
      (now < n + 65536 ∨ s.candId q ≠ some id → stays (.candidateReservation cl q))) ∧
    ((s.queue q).bound = true → (s.queue q).eligible = none → s.eligible q = true →
      Answers (.batchWaitExpiry q) s (fun t => OnlyQueue s t q { s.queue q with eligible := some now })) ∧
    ((s.queue q).bound = false ∨ s.eligible q = false → stays (.batchWaitExpiry q)) ∧
    ((∃ l ∈ (s.core k).lowered, l.2 ≤ now) → Answers (.issueLoweringEnd k) s (fun t =>
      OnlyCore s t k { s.core k with lowered := (s.core k).lowered.filter (fun l => decide (now < l.2)) })) ∧
    ((∀ l ∈ (s.core k).lowered, now < l.2) → stays (.issueLoweringEnd k))

/-- R254, R255, R276, R278, R279, Table 10-9: a tile's unit applies a ticket as its class order allows, blending the covered pixels of a
packet into the colour buffer, and a draw with all its serials leaves; a refused post is tried again after 64 cy. A barrier phase completes
where every member of the set has arrived, with the AND or OR of their votes: an arrival is one that a core of the context has made since
its state was configured, or made before that state was released while this one stood configured (the model's reading, log 25); a waiting
wev returns evword once its wires are done, or raises BARRIER_TIMEOUT (28) at the smallest bound. -/
def Obligations.CommitAndBarrierEvents : Prop :=
  ∀ (s : State) (h core k w : Nat), let t0 := s.hart h
    let stays : Instr → Prop := fun i => Answers i s (fun t => t = s)
    (∀ (x : Ticket) (T : Tile) (d : Draw), (s.core core).tickets[k]? = some x → core = x.tile % 4 * 128 + x.tile / 4 * 37 % 128 →
      s.tile x.tile = some T → T.draws.head? = some d →
      let n := s.ticketNow x
      let base := scratchBase core + 256 * d.off
      let up : Draw → Draw := fun e => if e.serial = x.draw then
        { e with applied := e.applied + n, appliedList := e.appliedList ++ (if d.cls = 1 then [(x.prim, n)] else []) } else e
      let left := if n = x.run then (s.core core).tickets.take k ++ (s.core core).tickets.drop (k + 1)
        else (s.core core).tickets.take k ++ { x with prim := x.prim + n, run := x.run - n } :: (s.core core).tickets.drop (k + 1)
      let tiles := (s.core core).tiles.map (fun T => if T.tile = x.tile then { T with draws := T.draws.map up } else T)
      (d.serial ≠ x.draw → n = 0) ∧ (d.serial = x.draw → d.cls = 0 → n = if d.applied = x.prim then x.run else 0) ∧
      (d.serial = x.draw → d.cls = 2 → n = x.run) ∧
      (n = 0 → stays (.ticketApply core k)) ∧
      (n ≠ 0 → x.packet = none → d.applied + n < d.np →
        Answers (.ticketApply core k) s (fun t => OnlyCore s t core { s.core core with tiles := tiles, tickets := left })) ∧
      (n ≠ 0 → ∀ msk cs, x.packet = some (msk, cs) → d.applied + n < d.np → Answers (.ticketApply core k) s (fun t =>
        (t.core core).tiles = tiles ∧ (t.core core).tickets = left ∧ SameMemBut s t base 256 ∧
        (∀ i j, i < 64 → j < 4 → t.byte (base + 4 * i + j) = if msk.getLsbD i then
          BitVec.ofNat 8 (Blended d.blend (cs.getD (4 * i + j) 0).toNat (s.byte (base + 4 * i + j)).toNat (cs.getD (4 * i + 3) 0).toNat (decide (j = 3)))
          else s.byte (base + 4 * i + j)) ∧
        ∀ g, t.hart g = { s.hart g with resv := (t.hart g).resv })) ∧
      (n ≠ 0 → d.np ≤ d.applied + n → Answers (.ticketApply core k) s (fun t =>
        (∀ e ∈ (t.core core).tickets, ¬(e.tile = x.tile ∧ e.draw = d.serial)) ∧
        (T.draws.tail ≠ [] → t.tile x.tile = some { T with draws := T.draws.tail.map up }) ∧
        (d.full = true → ∀ l, l < 2 → t.full (base / 128 + l) = true) ∧ (d.full = false → t.fe = s.fe) ∧
        (∀ l, l < base / 128 ∨ base / 128 + 2 ≤ l → t.full l = s.full l)))) ∧
    (∀ wd x1 x2 retry, t0.wait = .unit wd x1 x2 retry → (s.dev.cy < retry → stays (.unitRetry h)) ∧
      (retry ≤ s.dev.cy → wd.extractLsb' 25 7 = 6#7 → let z := ticketOf ((s.ctxOf h).getD 16) x1 none
        (s.postTicket h z = .refused → Answers (.unitRetry h) s (fun t =>
          t.hart h = { t0 with wait := .unit wd x1 x2 (s.dev.cy + 64) } ∧ OnlyHart s t h)) ∧
        (∀ u, s.postTicket h z = .ok u → Answers (.unitRetry h) s (RetiresAt u h)) ∧
        (s.postTicket h z = .exc 31 → Answers (.unitRetry h) s (TrapTaken (s.stopVector h (s.allSeq h)) h false 31 x1)))) ∧
    (let x := s.wire core w
      let ms := wireMembers core w x.cols x.rows
      let heard : Nat → List (Nat × Nat × Bool) := fun m => x.heard.filter (fun a => a.1 = m ∧ a.2.1 = x.count)
      let arrived : Nat → Bool → Prop := fun m b => (heard m).head? = some (m, x.count, b) ∨
        (heard m = [] ∧ (s.wire m w).ctx = x.ctx ∧ s.arrivalAt m w x.count = some b)
      (∀ m b, s.arrivalAt m w x.count = some b ↔ (s.wire m w).votes.find x.count = some b ∨ ((s.wire m w).votes.find x.count = none ∧
        (s.wire m w).count = x.count ∧ ∃ p g, (s.wire m w).arrival = some (b, p) ∧ (s.wire m w).part = some g ∧
        ((s.wire m w).parked ≠ none ∨ let b := s.hart g
          (∀ y ∈ b.loads, p ≤ y.pos) ∧ (∀ y ∈ b.stores, p ≤ y.pos) ∧ (∀ y ∈ b.remotes, p ≤ y.pos) ∧ QueriesTaken s g p))) ∧
      (x.arrival = none ∨ s.arrivalAt core w x.count = none → stays (.barrierPhaseComplete core w)) ∧
      (x.arrival ≠ none → ∀ y, s.arrivalAt core w x.count = some y → ∀ vote : Nat → Bool,
        ((∃ m ∈ ms, ∀ b, ¬arrived m b) → stays (.barrierPhaseComplete core w)) ∧
        ((∀ m ∈ ms, arrived m (vote m)) → Answers (.barrierPhaseComplete core w) s (fun t =>
          t.wire core w = { x with
            done := true, vote := if x.or_ then ms.any vote else ms.all vote, count := x.count + 1, arrival := none, votes := x.votes.ins x.count y } ∧
          (∀ j, j ≠ w → t.wire core j = s.wire core j) ∧ OnlyCore s t core { s.core core with wires := (t.core core).wires })))) ∧
    (∀ rd mask since, t0.wait = .wev rd mask since →
      let sel : Nat → Prop := fun j => j < 3 ∧ mask / 4 ^ j % 2 = 1
      let mine : Nat → Prop := fun j => (s.wire (coreOf h) j).part = some h ∧ (s.wire (coreOf h) j).parked = none
      let ready := ∀ j, sel j → mine j → (s.wire (coreOf h) j).done = true
      (ready → Answers (.wevReturn h) s (fun t => XHoldsAt s h rd (s.evword h) t ∧
        t.hart h = { t0.retired (t0.pc + 4) with x := (t.hart h).x } ∧ OnlyHart s t h) ∧ stays (.barrierTimeout h)) ∧
      (¬ready → stays (.wevReturn h)) ∧
      (¬ready → ∀ j, sel j → mine j → (∀ i, sel i → mine i → (s.wire (coreOf h) j).bound ≤ (s.wire (coreOf h) i).bound) →
        (s.wire (coreOf h) j).bound ≤ 2 ^ 24 →
        (since + (s.wire (coreOf h) j).bound ≤ s.dev.cy → Answers (.barrierTimeout h) s (TrapTaken (s.stopVector h (s.allSeq h)) h false 28 (s.evword h))) ∧
        (s.dev.cy < since + (s.wire (coreOf h) j).bound → stays (.barrierTimeout h))))

/-- R179, R181 to R184, R187, R188, R190, R191, R193 to R195: a free lease goes to the strand with a request that comes first after the last
holder's place; one whose cy budget has run out is renewed, or ends with its tiles to park where another strand asks; parked tiles go into
their save area and come back from it. The oldest command begins where its order lets it (State.arrayReady), and its whole effect comes at
its completion, where the notice of a piece that has failed takes the place of all of it (log 40, the model's reading): its address is the
first byte that stands in error. An mmac makes of each element what R193 says of the blocks that R187 places. -/
def Obligations.ArrayEvents : Prop :=
  ∀ (s : State) (cl k : Nat), let c := s.cluster cl
    let l := c.lease
    let now := s.dev.cy
    let stays : Instr → Prop := fun i => Answers i s (fun t => t = s)
    let both : Instr → Nat → Cluster → Hart → Prop := fun i h d b => Answers i s (fun t => t.cluster cl = d ∧
      (∀ j, j ≠ cl → t.cluster j = s.cluster j) ∧ t.hart h = b ∧ OnlyHartAnd s t h (fun t => { t with clusters := s.clusters }))
    ((∀ h d, ¬LeaseDue s cl h d) → stays (.leaseGrant cl)) ∧
    (∀ h d, LeaseDue s cl h d → Answers (.leaseGrant cl) s (LeaseGranted s cl h d)) ∧
    (∀ h n, l.holder = some h → l.start = some n → let others := ∃ j, j < 16 ∧ strandAt cl j ≠ h ∧ (s.hart (strandAt cl j)).arr.req = true
      (now < n + 16384 → stays (.leaseBudgetEnd cl)) ∧
      (n + 16384 ≤ now → ¬others → Answers (.leaseBudgetEnd cl) s (fun t =>
        OnlyCluster s t cl { c with lease := { l with cmds := 256, start := some (n + (now - n) / 16384 * 16384) } })) ∧
      (n + 16384 ≤ now → others → let asks := { s.hart h with arr := (s.hart h).arr.asked (n + 16384) }
        let ended := { l with holder := none, ending := some (h, true), start := none }
        let quiet := c.cmdq = [] ∧ c.executing = none ∧ c.fills = [] ∧ l.restoring = false ∧ l.parking = none
        (c.executing ≠ none → both (.leaseBudgetEnd cl) h { c with lease := ended } asks) ∧
        (quiet → c.live = 0 → both (.leaseBudgetEnd cl) h { c with tiles := [], live := 0, lease := { ended with ending := none, freed := n + 16384 } } asks) ∧
        (quiet → c.live ≠ 0 → ∀ k, k < 32 → let vacant : Nat → Prop := fun i => 128 ≤ (c.tsave.get 0 i).toNat ∧ c.areas.find i = none
          vacant k → (∀ i, i < k → ¬vacant i) →
          both (.leaseBudgetEnd cl) h { c with lease := { ended with parking := some (h, k) } } asks))) ∧
    (l.holder = none ∨ l.start = none → stays (.leaseBudgetEnd cl)) ∧
    (l.parking = none → l.ending = none → stays (.tileParkDone cl)) ∧
    (∀ h a, l.parking = some (h, a) → both (.tileParkDone cl) h
      { c with tiles := [], live := 0, lease := { l with parking := none, ending := none, freed := now },
               areas := c.areas.ins a (c.tiles.filter (fun p => decide (c.live / 2 ^ (p.1 / 32768) % 2 = 1))) }
      { s.hart h with arr := { (s.hart h).arr with area := some a, mask := c.live } }) ∧
    (l.restoring = false → stays (.tileRestoreDone cl)) ∧
    (∀ h a saved, l.restoring = true → l.holder = some h → l.ending = none → (s.hart h).arr.area = some a → c.areas.find a = some saved →
      let b := s.hart h
      both (.tileRestoreDone cl) h
        { c with tiles := saved, live := b.arr.mask, areas := c.areas.del a, cmdq := c.cmdq ++ b.arr.resume,
                 lease := { l with restoring := false, start := some now, cmds := l.cmds - b.arr.resume.length } }
        { b with arr := { b.arr with area := none, mask := 0, resume := [], back := false } }) ∧
    (∀ h p a saved, l.restoring = true → l.holder = none → l.ending = some (h, p) → (s.hart h).arr.area = some a → c.areas.find a = some saved →
      ¬(c.cmdq = [] ∧ c.executing = none ∧ c.fills = []) → let b := s.hart h
      both (.tileRestoreDone cl) h
        { c with tiles := saved, live := b.arr.mask, areas := c.areas.del a, lease := { l with restoring := false, start := none } }
        { b with arr := { b.arr with area := none, mask := 0 } }) ∧
    (c.cmdq = [] → stays (.arrayCommandStart cl)) ∧
    (∀ a r, c.cmdq = a :: r → (s.arrayReady cl a = false → stays (.arrayCommandStart cl)) ∧
      (s.arrayReady cl a = true → a.op = .mwld → Answers (.arrayCommandStart cl) s (fun t =>
        OnlyCluster s t cl { c with cmdq := r, fills := c.fills ++ [{ a with since := now }] })) ∧
      (s.arrayReady cl a = true → a.op ≠ .mwld → Answers (.arrayCommandStart cl) s (fun t =>
        OnlyCluster s t cl { c with cmdq := r, executing := some { a with since := now } }))) ∧
    ((k = 0 → c.executing = none) → (∀ j, k = j + 1 → c.fills[j]? = none) → stays (.arrayCommandComplete cl k)) ∧
    (∀ a pa x, (k = 0 → c.executing = some a) → (∀ j, k = j + 1 → c.fills[j]? = some a) → l.ending = none → s.badPiece a = some pa →
      s.ctxOf a.hart = some x → Answers (.arrayCommandComplete cl k) s (fun t => ∃ u,
        FqPosted s x { kind := 2, addr := pa, hart := some a.hart, chan := 0, xfer := 0, tile := a.op.tile, cause := if a.op.ly = none then 5 else 7 } u ∧
        OnlyCluster u t cl (if k = 0 then { c with executing := none } else { c with fills := c.fills.take (k - 1) ++ c.fills.drop k }))) ∧
    (∀ (a : ACmd) b n p m, a.range = [(b, n)] → a.op.ly = none → s.lostIn b n = none → s.dev.poison = [(p, m)] → p < b + n → b < p + m →
      s.badPiece a = some (max p b)) ∧
    (∀ a, (k = 0 → c.executing = some a) → (∀ j, k = j + 1 → c.fills[j]? = some a) → l.ending = none → s.badPiece a = none →
      let byte : Nat → Nat := fun j => (s.byte (rangeAt a.range j)).toNat
      let does : (Cluster → Prop) → Prop := fun P => Answers (.arrayCommandComplete cl k) s (fun t => let d := t.cluster cl
        OnlyCluster s t cl d ∧ P d ∧ (k = 0 → d.executing = none ∧ d.fills = c.fills) ∧
        (∀ j, k = j + 1 → d.executing = c.executing ∧ d.fills = c.fills.take j ++ c.fills.drop (j + 1)) ∧
        d = { c with tiles := d.tiles, live := d.live, weights := d.weights, executing := d.executing, fills := d.fills })
      let tile : Nat → Bool → (Nat → Nat) → Cluster → Prop := fun z live f d => d.weights = c.weights ∧
        (∀ y i, i < 32768 → d.tileAt y i = if y = z then f i % 2 ^ 32 else c.tileAt y i) ∧
        (∀ y, d.live / 2 ^ y % 2 = if y = z then live.toNat else c.live / 2 ^ y % 2)
      (∀ z, a.op = .mzero z → does (tile z false (fun _ => 0))) ∧
      (∀ z, a.op = .mld z → does (tile z true (fun i =>
        byte (4 * i) + byte (4 * i + 1) * 256 + byte (4 * i + 2) * 65536 + byte (4 * i + 3) * 16777216))) ∧
      (∀ f z kf, a.op = .mmac f z kf → 6 ≤ f → f < 14 →
        let fmtA : Option Nat := [some 0, some 1, some 0, some 1, none, some 0, some 2, some 2].getD (f - 6) none
        let fmtB : Option Nat := [some 0, some 0, some 1, some 1, none, some 5, some 2, some 5].getD (f - 6) none
        ∃ new : Nat → Nat, does (tile z true new) ∧ ∀ i, i < 32768 →
          MmacElement fmtA fmtB (kf + 1) (i / 128) (i % 128) byte (fun j => (c.weights.get 0 (a.x2.toNat + j)).toNat) (c.tileAt z i) (new i)) ∧
      (a.op = .mwld → does (fun d => d.tiles = c.tiles ∧ d.live = c.live ∧ ∀ j, d.weights.get 0 j =
        if fld a.x2 0 21 ≤ j ∧ j < fld a.x2 0 21 + fld a.x2 22 22 then s.byte (rangeAt a.range (j - fld a.x2 0 21)) else c.weights.get 0 j))) ∧
    (c.clearing = false → stays (.weightBufferClearDone cl)) ∧
    (c.clearing = true → Answers (.weightBufferClearDone cl) s (fun t => OnlyCluster s t cl { c with clearing := false, weights := [] }))

/-- R120, R135, R139, R219, R317, R319, R323, R327: a kill ends once nothing of the context is still to perform: its strands are free, its rings,
draws and tickets are gone, and the harts held by it go on; a vstupd retires once no access to the old frame is in flight; a shootdown, a
home table write and a context's change to resident end; an image is written, field by field of Table 13-8, or loaded, or refused at its first
bad field. Where inside their areas the parts of loop and ring slots and of records lie is the model's choice (log 8), as is that a task which
a vsave with T = 1 takes off stands in State.parked under the image's address (log 14); when a vrestore's instructions take part in program
order is its reading (log 26), and that vsave waits for the answers of a remote window its presumption (log 27). Walks under way that a
shootdown may have outdated are given up. -/
def Obligations.TableAndImageEvents : Prop :=
  ∀ (s : State) (c h : Nat), let t0 := s.hart h
    let stays : Instr → Prop := fun i => Answers i s (fun t => t = s)
    let retire : Wait → State → Prop := fun w t => ∀ j, t.hart j = if (s.hart j).wait = w then (s.hart j).retired ((s.hart j).pc + 4) else s.hart j
    ((s.ctx c).killing = false ∨ s.killQuiet c = false → stays (.killComplete c)) ∧
    (Tab.rising 0 s.harts = true → (s.ctx c).killing = true → s.killQuiet c = true → Answers (.killComplete c) s (fun t =>
      (t.ctx c).killing = false ∧ (t.ctx c).killed = true ∧ (t.ctx c).slots = [] ∧
      (∀ j, s.ctxOf j = some c → (t.hart j).on = false ∧ (t.hart j).task = none) ∧
      (∀ j, s.ctxOf j ≠ some c → (t.hart j).task = (s.hart j).task ∧ (t.hart j).x = (s.hart j).x ∧
        (t.hart j).pc = (s.hart j).pc + (if (s.hart j).wait = .kill c then 4 else 0)) ∧
      (∀ j, (t.hart j).preempt = (s.hart j).preempt ∧ (t.hart j).remotes = (s.hart j).remotes.filter (fun r => decide (r.ctx ≠ some c))) ∧
      (∀ j r, r ∈ (s.hart j).remotes → r.ctx = some c → r.load = none → s.dev.qps.get [] r.qp ≠ [] →
        fld ((t.dev.qps.get [] r.qp).headD 0) 1 2 = 2) ∧
      (∀ j, (s.queue j).valid = true → (s.queue j).ctx = c → (t.queue j).recs = []) ∧
      (∀ j, ∀ r ∈ (t.cluster j).rings, r.group.1 ≠ c) ∧ (∀ j, ∀ x ∈ (t.core j).tickets, x.ctx ≠ c) ∧
      (∀ j, ∀ T ∈ (t.core j).tiles, ∀ d ∈ T.draws, d.ctx ≠ c) ∧ (∀ p ∈ t.parked, p.task.ctx ≠ c) ∧
      ((s.ctx c).fqctl.getLsbD 30 = false → SameMem s t))) ∧
    (∀ x f, t0.wait = .vstupd x f →
      (f ≠ 0 → s.rangeBusy (f - 1) 0x200000 = true → stays (.vstupdComplete h)) ∧
      (f = 0 ∨ s.rangeBusy (f - 1) 0x200000 = false → Answers (.vstupdComplete h) s (RetiresAt s h))) ∧
    (∀ a n, s.rangeBusy a n = false → (∀ j, let y := s.hart j
        (∀ x ∈ y.stores, overlap x.pa x.width a n = false) ∧ (∀ x ∈ y.loads, overlap x.pa x.width a n = false) ∧
        (∀ e ∈ y.vec.queue, ∀ x ∈ e.pend, overlap x.pa x.width a n = false) ∧
        (∀ es e p, y.wait = .exit es → e ∈ es → e.join = some p → overlap p 4 a n = false) ∧
        ∀ d ∈ y.arr.resume, ∀ r ∈ d.range, overlap r.1 r.2 a n = false) ∧
      (∀ j d, d ∈ (s.cluster j).executing.toList ++ (s.cluster j).cmdq ++ (s.cluster j).fills → ∀ r ∈ d.range, overlap r.1 r.2 a n = false) ∧
      ∀ p ∈ s.parked, p.held = true → ∀ l ∈ p.ranges, ∀ r ∈ l, overlap r.1 r.2 a n = false) ∧
    (s.dev.shoot = none ∨ s.olderInFlight s.dev.shootPos = true → stays .shootdownComplete) ∧
    (∀ w, s.dev.shoot = some w → s.olderInFlight s.dev.shootPos = false → Answers .shootdownComplete s (fun t =>
      t.dev = { s.dev with shoot := none, shootPos := [] } ∧ { t with cores := s.cores, dev := s.dev } = s ∧
      ∀ j, t.core j = { s.core j with tlb := (t.core j).tlb, walks := (t.core j).walks, walking := [] } ∧
        (∀ e, e ∈ (t.core j).tlb ↔ e ∈ (s.core j).tlb ∧
          (w.getLsbD 18 = true ∨ ¬FencedEntry (w.getLsbD 16) (w.getLsbD 17) s.dev.shootVa.toNat (fld w 0 16) e)) ∧
        ∀ e, e.level ≤ 5 → (e ∈ (t.core j).walks ↔ e ∈ (s.core j).walks ∧
          ¬FencedWalk (w.getLsbD 16) (w.getLsbD 17) s.dev.shootVa.toNat (fld w 0 16) e))) ∧
    (s.dev.homeChange = none → stays .homeTableChangeDone) ∧
    (∀ n v, Tab.rising 0 s.harts = true → Tab.rising 0 s.cores = true → s.dev.homeChange = some (n, v) → Answers .homeTableChangeDone s (fun t =>
      t.dev = { s.dev with home := t.dev.home, homeChange := none } ∧
      (∀ j, t.dev.home.get 0 j = if j = n then v else s.dev.home.get 0 j) ∧
      (∀ j, t.core j = { s.core j with
        slice := (s.core j).slice.filter (fun x => decide (x.code ≠ n)), l1 := (t.core j).l1, l1used := (t.core j).l1used }) ∧
      (∀ j l, l ∈ (t.core j).l1 ↔ l ∈ (s.core j).l1 ∧ ∀ k, ∀ x ∈ (s.core k).slice, x.code = n → l / 256 * 256 ≠ x.addr) ∧
      retire .homeStore t ∧ { t with dev := s.dev, cores := s.cores, harts := s.harts } = s)) ∧
    ((s.ctx c).entering = false → stays (.contextResidentDone c)) ∧
    (Tab.rising 0 s.harts = true → (s.ctx c).entering = true → c < 16 → Answers (.contextResidentDone c) s (fun t =>
      t.ctx c = { s.ctx c with ctl := (s.ctx c).ctl ||| 1, entering := false, killed := false, fqlost := 0, pendLoss := 0 } ∧
      (∀ j, j ≠ c → t.ctx j = s.ctx j) ∧
      (∀ d j g, g < 524288 → t.dev.vst.get 0 ((d * 16 + j % 16) * 524288 + g) =
        if j % 16 = c then 0 else s.dev.vst.get 0 ((d * 16 + j % 16) * 524288 + g)) ∧
      (∀ j e, e ∈ (t.core j).span ↔ e ∈ (s.core j).span ∧ e.1 ≠ c) ∧ retire (.ctxStore c) t ∧ SameMem s t)) ∧
    (∀ a flag, t0.wait = .vsave a flag →
      let ready := t0.vec.queue = [] ∧ t0.loads = [] ∧ t0.stores = [] ∧ QueriesTaken s h t0.pos ∧ t0.remotes = [] ∧
        (flag = true → s.arraySettled h = true)
      let free := ∀ p ∈ s.imageBytes h flag, s.held h t0.pos (a + p.1) p.2.length true = false
      (¬ready → stays (.vsaveWrite h)) ∧
      (ready → ∀ xs, s.image h (BitVec.ofNat 64 a) .store = .ok xs → ¬free → stays (.vsaveWrite h)) ∧
      (ready → free → ∀ xs, s.image h (BitVec.ofNat 64 a) .store = .ok xs → (∀ x ∈ xs, x.Plain ∧ isRemote x.pa = false) →
        let at_ : Nat → Nat := fun o => (xs.map Hit.pa).getD (o / 64) 0 + o % 64
        let v := t0.vec
        (∀ i j, i < j → j < 1280 → at_ (64 * i) + 64 ≤ at_ (64 * j) ∨ at_ (64 * j) + 64 ≤ at_ (64 * i)) →
        h < 4096 → v.ncode < 3 → v.slip < 16 → v.vl < 2 ^ 14 → v.resume.length ≤ 48 → (v.resume.filter (fun r => !r.scales.isEmpty)).length ≤ 16 →
        t0.arr.resume.length ≤ 8 → (∀ j, (v.reg j).ext ≤ regBits v.ncode / 2048) →
        Answers (.vsaveWrite h) s (fun t =>
          ImageWritten s h flag (fun o => t.byte (at_ o)) ∧
          (∀ j i, j < nregs v.ncode → 256 * v.extent j ≤ i → i < 65536 / nregs v.ncode →
            let p := at_ (16384 + j * (65536 / nregs v.ncode) + i)
            t.byte p = s.byte p) ∧
          (∀ p, (∀ o, o < 81920 → p ≠ at_ o) → t.byte p = s.byte p) ∧
          (∀ j, j ≠ h → t.hart j = { s.hart j with resv := (t.hart j).resv }) ∧
          (flag = false → t.hart h = { t0.retired (t0.pc + 4) with
              detector := (t.hart h).detector, vec := { v with resume := [], frames := [] } } ∧
            ∀ k, t.core k = { s.core k with l1 := (t.core k).l1, l1used := (t.core k).l1used, slice := (t.core k).slice }) ∧
          (flag = true → let b := t.hart h
            b.pc = t0.pc + 4 ∧ b.wait = .none ∧ b.task = none ∧ b.vec = Vec.start v.vgrant ∧ b.arr = ArraySide.start ∧
            b.stg = { Staging.start with detached := b.stg.detached, eps := b.stg.eps } ∧
            (∀ i, t.endpoint h i = (s.endpoint h i).map (fun x => if x.parked = none then { x with parked := some (at_ 0) } else x)) ∧
            (∀ d, d ∈ b.stg.detached ↔ d ∈ t0.stg.detached ∨ ∃ i c, (i, c) ∈ t0.stg.chans ∧ c.xfers ≠ [] ∧
              d = { image := at_ (6464 + 128 * i + 64), head := at_ 64, num := i, chan := c }) ∧
            ∀ k, t0.task = some k → ∃ p ∈ t.parked, p.image = at_ 0 ∧ p.task = k ∧ p.held = true)))) ∧
    (t0.wait = .remoteSave → (t0.remotes ≠ [] → stays (.vsaveWrite h)) ∧ (t0.remotes = [] → Answers (.vsaveWrite h) s (RetiresAt s h))) ∧
    (∀ a flag, t0.wait = .vrestore a flag →
      let ready := t0.vec.queue = [] ∧ t0.loads = [] ∧ t0.stores = [] ∧ QueriesTaken s h t0.pos ∧ t0.remotes = [] ∧
        s.held h t0.pos a 81920 false = false
      (¬ready → stays (.vrestoreLoad h)) ∧
      (ready → ∀ xs, s.image h (BitVec.ofNat 64 a) .load = .ok xs → (∀ x ∈ xs, x.Plain ∧ isRemote x.pa = false) →
        let pas := (xs.map Hit.pa).toArray
        let img := s.img h pas
        let good := ∀ o, ¬ImageBadField img h flag o
        let slot : Nat → Nat := fun i => img (6208 + 32 * i) 8
        let lost := ∃ i, i < 8 ∧ slot i % 2 = 1 ∧ (slot i / 2 ^ 8 % 256 ≠ clOf h ∨ s.ring (clOf h) (slot i / 2 ^ 16) = none)
        let moving := ∃ i, i < 4 ∧ img (6464 + 128 * i + 64) 8 / 2 ^ 33 % 16 ≠ 0
        (∀ o, ImageBadField img h flag o → (∀ p, ImageBadField img h flag p → o ≤ p) →
          Answers (.vrestoreLoad h) s (TrapTaken (s.stopVector h (s.allSeq h)) h false 5 (BitVec.ofNat 64 (a + o)))) ∧
        (good → flag = true → lost →
          Answers (.vrestoreLoad h) s (TrapTaken (s.stopVector h (s.allSeq h)) h false 25 (BitVec.ofNat 64 (a + 6208)))) ∧
        (good → flag = true → ¬lost → moving → stays (.vrestoreLoad h)) ∧
        (good → flag = false → Answers (.vrestoreLoad h) s (fun t => ∃ r, CachesOnly s r h ∧ OnlyHart r t h ∧ VecLoaded (t.hart h).vec img ∧
          t.hart h = { { r.hart h with pos := t0.pos + 64, imageIn := none }.retired (t0.pc + 4) with vec := (t.hart h).vec })) ∧
        (good → flag = true → ¬lost → ¬moving → Answers (.vrestoreLoad h) s (fun t => let b := t.hart h
          VecLoaded b.vec img ∧ TaskLoaded b img ∧ b.pc = t0.pc + 4 ∧ b.wait = .none ∧ b.x = t0.x ∧ b.csr = t0.csr ∧ SameMem s t ∧
          (∀ j, j ≠ h → t.hart j = s.hart j) ∧
          ∀ p, s.parked.find? (fun p => decide (p.image = pas.getD 0 0)) = some p → b.task = some p.task ∧ b.arr.susp = p.susp))))

/-- R8, R9, R62, R71, R196, R308, R324, R325, R331, R332, R335 to R339: a change of an island ends, and an island that goes off loses its
contents; the governor chooses grants and throttles; a thermal trip turns every island off; lanes, the port and links report their changes to
LINKEV; an error that cannot be corrected marks its word; a die is reset, with nothing of its state left, and re-admitted, its stacked memory
0; the part is started, or stands dark where its code is refused, its dies admitted and its device memory trained. What the governor chooses
the event says (log 15); what of a die stands through its reset, and the events that start the part, are the model's readings (logs 29, 33). -/
def Obligations.PartEvents : Prop :=
  ∀ (s : State) (cl die n : Nat) (arr up : Bool), let now := s.dev.cy
    let stays : Instr → Prop := fun i => Answers i s (fun t => t = s)
    let isl := (s.cluster cl).island arr
    let becomes : Instr → Island → (State → Prop) → Prop := fun i j P => Answers i s (fun t => P t ∧
      (t.cluster cl).island arr = { j with cyc := ((t.cluster cl).island arr).cyc } ∧
      (t.cluster cl).island (!arr) = (s.cluster cl).island (!arr) ∧ ∀ k, k ≠ cl → t.cluster k = s.cluster k)
    let scratch : Nat → Prop := fun a => ∃ q, q < 4 ∧ scratchBase (coreAt cl q) ≤ a ∧ a < scratchBase (coreAt cl q) + 0x100000
    let cleared : State → Prop := fun t =>
      (∀ a, (scratch a → t.byte a = 0) ∧ (¬scratch a → t.byte a = s.byte a)) ∧
      ∀ l, (scratch (128 * l) → t.full l = false) ∧ (¬scratch (128 * l) → t.full l = s.full l)
    let noArray : State → Prop := fun t => (t.cluster cl).weights = [] ∧ (t.cluster cl).tiles = [] ∧ (t.cluster cl).live = 0 ∧ t.harts = s.harts ∧ t.mem = s.mem
    let dark : State → Prop := fun t => ∀ k, k < 128 → (t.cluster k).coreIsland.on = false ∧ (t.cluster k).arrayIsland.on = false
    let event : Nat → Nat → Bool → State → Prop := fun kind unit b t =>
      (64 ≤ s.dev.linkev.length → t.dev.linkev = s.dev.linkev ∧ t.dev.linkevLost = true) ∧
      (s.dev.linkev.length < 64 → t.dev.linkevLost = false ∧ ∃ w : Word, t.dev.linkev = s.dev.linkev ++ [w] ∧ fld w 0 8 = kind ∧ fld w 8 8 = unit ∧
        w.getLsbD 16 = b ∧ fld w 17 6 = 0 ∧ w.getLsbD 23 = s.dev.linkevLost ∧ fld w 24 40 = s.dev.chron / 2 ^ 10 % 2 ^ 40)
    let posts : Instr → (Device → Device) → Nat → Nat → Bool → Prop := fun i f kind unit b => Answers i s (fun t =>
      event kind unit b t ∧ { t with dev := { t.dev with linkev := s.dev.linkev, linkevLost := s.dev.linkevLost } } = { s with dev := f s.dev })
    (∀ f, isl.change = some (1, f) → becomes (.islandClockDone cl arr) { isl with code := f, change := none }
      (fun t => { t with clusters := s.clusters } = s ∧ ((t.cluster cl).island arr).cyc = (isl.cycles now, now))) ∧
    ((∀ f, isl.change ≠ some (1, f)) → stays (.islandClockDone cl arr)) ∧
    (∀ f, isl.change = some (2, f) → becomes (.islandOffDone cl arr) { isl with on := false, change := none }
      (fun t => (arr = true → noArray t) ∧ (arr = false → cleared t ∧
        (∀ q, q < 4 → t.core (coreAt cl q) = { s.core (coreAt cl q) with l1 := [], l1used := [], icache := [], tiles := [], tickets := [] }) ∧
        ∀ i, i < 16 → (t.hart (strandAt cl i)).vec = Vec.start (s.hart (strandAt cl i)).vec.vgrant ∧ (t.hart (strandAt cl i)).fetchBuf = []))) ∧
    ((∀ f, isl.change ≠ some (2, f)) → stays (.islandOffDone cl arr)) ∧
    (∀ f, isl.change = some (3, f) → becomes (.islandOnDone cl arr) { isl with on := true, change := none }
      (fun t => ((t.cluster cl).island arr).cyc = (0, now) ∧ (arr = true → noArray t) ∧ (arr = false → cleared t))) ∧
    ((∀ f, isl.change ≠ some (3, f)) → stays (.islandOnDone cl arr)) ∧
    (∀ h g, h < 2048 → 1 ≤ g → g ≤ 32 → Answers (.governorSample [(h, g)] []) s (fun t =>
      t.hart h = { s.hart h with vec := { (s.hart h).vec with vgrant := g } } ∧ OnlyHart s t h)) ∧
    (cl < 128 → 1 ≤ n → n ≤ 16 → Answers (.governorSample [] [(cl, n)]) s (fun t => OnlyCluster s t cl { s.cluster cl with throttle := n })) ∧
    Answers .thermalTrip s (fun t => t.dev.tripped = true ∧ event 5 0 false t ∧
      dark t ∧ ∀ k, k < 512 → (t.core k).tiles = [] ∧ (t.core k).tickets = []) ∧
    (s.dev.tripped = true → posts .thermalClear (fun d => { d with tripped := false }) 6 0 false) ∧
    (s.dev.tripped = false → stays .thermalClear) ∧
    posts (.ethernetLinkChange none up) (fun d => { d with portUp := up }) 2 0 up ∧
    (n < 8 → ∃ v : BitVec 8, (∀ i, i < 8 → v.getLsbD i = if i = n then up else s.dev.lanes.getLsbD i) ∧
      posts (.ethernetLinkChange (some n) up) (fun d => { d with lanes := v }) 1 n up) ∧
    (8 ≤ n → stays (.ethernetLinkChange (some n) up)) ∧ stays (.linkReplay n) ∧
    (die < 4 → n < 3 → posts (.dieLinkError die n) id 4 (die * 4 + n) false) ∧
    (∀ pa, stays (.eccError pa false) ∧ (∀ k, (regionOf pa = .dram ∧ k = 32) ∨ ((∃ x w, regionOf pa = .vault x w ∨ regionOf pa = .scratch x w) ∧ k = 8) →
      Answers (.eccError pa true) s (fun t => OnlyDevice s t { s.dev with poison := s.dev.poison ++ [(pa / k * k, k)] }))) ∧
    (4 ≤ die ∨ s.dieUp die = false ∨ s.dieClear die = false → stays (.dieWarmReset die)) ∧
    (die < 4 → s.dieUp die = true → s.dieClear die = true → Answers (.dieWarmReset die) s (fun t =>
      t.dieUp die = false ∧ SameMem s t ∧
      (∀ h, t.hart h = if h < 2048 ∧ h / 512 = die then { Hart.reset s.dev.powered with alarm := (s.hart h).alarm } else s.hart h) ∧
      (∀ k, k / 128 = die → t.core k = { Core.reset with ways := (s.core k).ways }) ∧
      (∀ k, k / 128 ≠ die → t.core k = { s.core k with l1 := (t.core k).l1, l1used := (t.core k).l1used }) ∧
      (∀ k l, k / 128 ≠ die → (l ∈ (t.core k).l1 ↔ l ∈ (s.core k).l1 ∧
        ∀ j, j / 128 = die → ∀ x ∈ (s.core j).slice, l / 256 * 256 ≠ x.addr)) ∧
      (∀ q, (q / 256 = die → t.queue q = Queue.reset) ∧ (q / 256 ≠ die → t.queue q = s.queue q)) ∧
      (∀ k, k / 32 ≠ die → t.cluster k = s.cluster k) ∧
      (∀ k, k < 3 → let l := (linkOf die k).1; (t.link l).down = true ∧ (t.link l).out = (if l < 4 then 16 else 8) ∧ (t.link l).fifo = []))) ∧
    (s.dev.offline.get false die = false → stays (.dieReadmit die)) ∧
    (die < 4 → s.dev.offline.get false die = true → Answers (.dieReadmit die) s (fun t => t.dev.offline.get false die = false ∧
      (∀ a, t.byte a = if (0x010000000000 + die * 2 ^ 30 ≤ a ∧ a < 0x010000000000 + (die + 1) * 2 ^ 30) ∨
        (scratchBase (die * 128) ≤ a ∧ a < scratchBase (die * 128) + 2 ^ 27) then 0 else s.byte a) ∧
      (∀ k, k < 3 → (t.link (linkOf die k).1).down = false) ∧
      (∀ k, k / 32 = die → (t.cluster k).coreIsland.cyc = (0, now)) ∧ (∀ p ∈ t.dev.vstLate, p.1 ≠ die))) ∧
    (s.dev.powered = true ∨ s.dev.locked = true → stays (.powerGood up)) ∧
    (s.dev.powered = false → s.dev.locked = false →
      Answers (.powerGood false) s (fun t => t.dev.locked = true ∧ t.dev.powered = false ∧ dark t) ∧
      Answers (.powerGood true) s (fun t => t.dev = { s.dev with powered := true } ∧ SameMem s t ∧ ∀ h, h < 2056 →
        (t.hart h).on = (decide (2048 ≤ h) || (s.hart h).on) ∧ (t.hart h).mode = (s.hart h).mode ∧ (t.hart h).pc = (s.hart h).pc ∧
        (t.hart h).csr.medeleg = 0x00000000FF00B1FF#64 ∧ (t.hart h).csr.mideleg = 0x00000000000F0222#64 ∧ (t.hart h).csr.mie = 0x0000000000020000#64)) ∧
    (s.dev.powered = false ∨ 4 ≤ die ∨ s.dev.admitted.get false die = true → stays (.dieAdmit die)) ∧
    (s.dev.powered = false → stays .memoryTrained) ∧
    (s.dev.powered = true → (die < 4 → s.dev.admitted.get false die = false → let was : Nat → Bool := fun l => (s.link (linkOf die l).1).down
        Answers (.dieAdmit die) s (fun t => t.dev.admitted.get false die = true ∧ (∀ l, l < 3 → (t.link (linkOf die l).1).down = false) ∧
          SameMem s t ∧ t.harts = s.harts ∧ (∀ k, t.core k = { s.core k with
            slice := (t.core k).slice, l1 := (t.core k).l1, l1used := (t.core k).l1used }) ∧
          ((∀ l, l < 3 → was l = false) → t.dev = { s.dev with admitted := s.dev.admitted.ins die true }) ∧
          ((∀ l, l < 3 → was l = true) → s.dev.linkev.length + 3 ≤ 64 → ∃ w : Nat → Word,
            t.dev.linkev = s.dev.linkev ++ [w 0, w 1, w 2] ∧ ∀ l, l < 3 → fld (w l) 0 8 = 3 ∧ fld (w l) 8 8 = die * 4 + l ∧ (w l).getLsbD 16 = true))) ∧
      Answers .memoryTrained s (fun t => OnlyDevice s t { s.dev with trained := true }))

/-- R7, R215, R231, R314, R319, R328 to R330: an inbound request on a ready queue pair is taken: a WRITE or a READ that a region serves acts
on device memory and is answered, one that none serves gets a Remote Access Error; a SEND goes into the receive ring of a pair of Pilot's; a
WRITE of 64 bytes into a push region that allows writes too is a qpush. Answers complete remote accesses in the order of their pair; an
applied entry stands once nothing is in flight on it, or once what is in flight on a pair that it puts out of use is discarded and has
failed. The numbers by which `sent` names messages are the model's, and what a SEND to a pair of a context gets (log 12); that a discarded
access is reported as COPY_FAILED is its reading (log 30), as is that a READ of a word in error is refused (log 52); that answers fill the
image of a vrestore that lies in a remote window, and the words that an exit reads there, rests on logs 26 and 27. -/
def Obligations.NetworkEvents : Prop :=
  ∀ (s : State) (qp h k : Nat) (key : BitVec 32) (addr data : Word) (bs : List Byte), let n := bs.length
    let stays : Instr → Prop := fun i => Answers i s (fun t => t = s)
    let ready := s.qpReady qp = true
    let answer : Instr → Nat → List Byte → Prop := fun i kind b => Answers i s (fun t => PsnTaken s t qp ∧ t.sent = s.sent ++ [(kind, qp, b)] ∧
      { t with sent := s.sent, dev := { t.dev with qps := s.dev.qps } } = s)
    let backed : Nat → Nat → Prop := fun pa m => s.dev.trained = true ∧ pa + m ≤ 0x7735940000
    let write := Instr.rdmaWriteIn qp key addr bs
    let read := Instr.rdmaReadIn qp key addr k
    let push := Instr.remoteQpush qp key addr bs
    (¬ready ∨ s.pushKey key = true → stays write) ∧
    (ready → s.pushKey key = false → s.regionFor qp key addr n 2 = none → answer write 6 []) ∧
    (ready → s.pushKey key = false → ∀ r, s.regionFor qp key addr n 2 = some r →
      let pa := fld (r.getD 2 0) 0 48 + (addr.toNat - (r.getD 1 0).toNat)
      (¬backed pa n → answer write 6 []) ∧
      (backed pa n → Answers write s (fun t => PsnTaken s t qp ∧ t.sent = s.sent ++ [(4, qp, [])] ∧
        (∀ i (hi : i < n), t.byte (pa + i) = bs[i]) ∧ SameMemBut s t pa n ∧ ∀ j, t.hart j = { s.hart j with resv := (t.hart j).resv }))) ∧
    (¬ready → stays read) ∧ (ready → s.regionFor qp key addr k 1 = none → answer read 6 []) ∧
    (ready → ∀ r, s.regionFor qp key addr k 1 = some r → let pa := fld (r.getD 2 0) 0 48 + (addr.toNat - (r.getD 1 0).toNat)
      let serves := (r.getD 0 0).getLsbD 3 = false ∧ backed pa k ∧ s.poisoned pa k = false
      (serves → answer read 3 ((List.range k).map (fun i => s.byte (pa + i)))) ∧ (¬serves → answer read 6 [])) ∧
    (¬ready → stays (.rdmaSendIn qp bs)) ∧ (ready → s.qpPilot qp = false → answer (.rdmaSendIn qp bs) 7 []) ∧
    (ready → s.qpPilot qp = true → let w := s.qpWord qp 6
      let size := 2 ^ (fld w 48 4 + 6)
      let m := (n + 63) / 64
      let pos := s.dev.recvPos.get 0 qp
      m ≤ size → Answers (.rdmaSendIn qp bs) s (fun t => PsnTaken s t qp ∧ t.sent = s.sent ++ [(4, qp, [])] ∧ t.dev.recvPos.get 0 qp = pos + m ∧
        (∀ i j, i < m → j < 64 → t.byte (fld w 6 42 * 64 + 64 * ((pos + i) % size) + j) = bs.getD (64 * i + j) 0) ∧
        SameMemBut s t (fld w 6 42 * 64) (64 * size))) ∧
    (¬ready ∨ s.pushKey key = false → stays push) ∧
    (ready → s.pushKey key = true → n ≠ 64 ∨ addr.toNat % 64 ≠ 0 → answer push 7 []) ∧
    (ready → s.pushKey key = true → n = 64 → addr.toNat % 64 = 0 → s.regionFor qp key addr 64 3 = none → answer push 6 []) ∧
    (ready → s.pushKey key = true → n = 64 → addr.toNat % 64 = 0 → ∀ r, s.regionFor qp key addr 64 3 = some r →
      let q := (addr.toNat - (r.getD 1 0).toNat) / 64
      let x := s.queue q
      ∀ d : BitVec 512, (∀ i, i < 512 → d.getLsbD i = if i = 57 then false else (bs.getD (i / 8) 0).getLsbD (i % 8)) →
      let bad := x.valid = false ∨ x.ctx ≠ s.qpCtx qp ∨ (d.getLsbD 56 = true ∧ s.qpPilot qp = false) ∨ s.dieUp (q / 256) = false
      let pushes : Nat → Queue → Prop := fun kind y => Answers push s (fun t => PsnTaken s t qp ∧ t.sent = s.sent ++ [(kind, qp, [])] ∧
        Tracked y (t.queue q) ∧ (∀ j, j ≠ q → t.queue j = s.queue j) ∧ SameMem s t ∧ t.harts = s.harts)
      let before := x.recs.takeWhile (fun r => decide (r.at_ < s.dev.cy) || decide (r.rank ≤ 0))
      let new : Record := { data := d, at_ := s.dev.cy, rank := 0, overflow := false, serial := x.serial }
      let may := (r.getD 0 0).getLsbD 2 = true
      (¬may ∨ bad → answer push 6 []) ∧ (may → ¬bad → x.wmark ≤ x.recs.length → pushes 5 x) ∧
      (may → ¬bad → x.recs.length < x.wmark → pushes 4 { x with recs := x.recs.insertIdx before.length new, serial := x.serial + 1 })) ∧
    (∀ r, (s.hart h).remotes[k]? = some r → let rest := (s.hart h).remotes.take k ++ (s.hart h).remotes.drop (k + 1)
      let first := ∀ x ∈ (s.hart h).remotes.take k, x.qp ≠ r.qp
      (¬first → stays (.remoteResponse h k data)) ∧
      (first → r.load = none → r.img = none →
        Answers (.remoteResponse h k data) s (fun t => t.hart h = { s.hart h with remotes := rest } ∧ OnlyHart s t h)) ∧
      (first → ∀ o, r.img = some o → Answers (.remoteResponse h k data) s (fun t => OnlyHart s t h ∧
        t.hart h = { s.hart h with remotes := rest, imageIn := (s.hart h).imageIn.map (fun im => im.ins o data) })) ∧
      (first → r.img = none → ∀ l, r.load = some l → l.isF = false → 0 < l.width → l.width ≤ 8 → ∀ v,
        Extends l.width l.signed (fun j => (data >>> (8 * j)).setWidth 8) v →
        Answers (.remoteResponse h k data) s (fun t => XHoldsAt s h l.rd v t ∧
          t.hart h = { s.hart h with remotes := rest, x := (t.hart h).x } ∧ OnlyHart s t h))) ∧
    ((s.hart h).remotes[k]? = none → stays (.remoteResponse h k data)) ∧
    (let waits := ∃ p ∈ s.harts, ∃ r ∈ p.2.remotes, r.qp = qp;
      (ready → waits → Answers (.qpAckTimeout qp) s (fun t => t = { s with sent := s.sent ++ [(8, qp, [])] })) ∧
      (¬ready ∨ ¬waits → stays (.qpAckTimeout qp))) ∧
    stays (.ptpMessage k) ∧ (¬ready → stays (.invalidRequestNak qp)) ∧
    (ready → Answers (.invalidRequestNak qp) s (fun t => t = { s with sent := s.sent ++ [(7, qp, [])] })) ∧
    (s.dev.qpBusy = none → stays .qpcmdApplyDone) ∧
    (∀ idx im, s.dev.qpBusy = some (idx, im) → let i := fld idx 0 12
      let table := fld idx 12 2
      let drop := table = 0 ∧ fld (im.getD 0 0) 1 2 ≠ 1
      let used := ∃ p ∈ s.harts, ∃ r ∈ p.2.remotes, (table = 0 ∧ r.qp = i) ∨ (table = 1 ∧ r.window = i)
      (¬drop → used → stays .qpcmdApplyDone) ∧
      (¬drop → ¬used → Answers .qpcmdApplyDone s (fun t => OnlyDevice s t
        (if table = 0 then { s.dev with qps := s.dev.qps.ins i im, qpBusy := none }
          else if table = 1 then { s.dev with windows := s.dev.windows.ins i im, qpBusy := none }
          else { s.dev with regions := s.dev.regions.ins i im, qpBusy := none }))) ∧
      (drop → (∀ j, ∀ r ∈ (s.hart j).remotes, r.qp ≠ i) → Answers .qpcmdApplyDone s (fun t =>
        t.dev = { s.dev with qps := s.dev.qps.ins i im, qpBusy := none } ∧ (∀ j, t.hart j = s.hart j) ∧ SameMem s t)) ∧
      (drop → ∀ r c, (s.hart h).remotes = [r] → r.qp = i → r.load = none → r.ctx = some c →
        (∀ j, j ≠ h → ∀ r ∈ (s.hart j).remotes, r.qp ≠ i) → Answers .qpcmdApplyDone s (fun t => ∃ u v : State,
          (∀ j, u.hart j = if j = h then { s.hart h with remotes := [] } else s.hart j) ∧ { u with harts := s.harts } = s ∧
          FqPosted u c { kind := 1, addr := r.va, hart := some h, chan := 0, tile := 0, xfer := 0, cause := 7 } v ∧
          (∀ j, t.hart j = v.hart j) ∧ t.dev = { v.dev with qps := v.dev.qps.ins i im, qpBusy := none } ∧
          { t with dev := v.dev, harts := v.harts } = v)))

/-- R120, R135, R145, R179, R184, R230, R320, R326, R327, R330, R332 to R334, R351: a store of 8 bytes to a device register by a hart that may
write it has the effect its register gives it and retires, or holds the hart until a change is done; a management hart in S-mode or M-mode
owns most of them, S-mode or M-mode the rest, and another's store raises a store access fault. A load of LINKEV takes its oldest event. That a
second PGDONE for a tag takes the place of a notice not yet delivered is the model's reading (log 63). -/
def Obligations.RegisterEvents : Prop :=
  ∀ (s : State) (h : Nat) (va v : Word), let t0 := s.hart h
    let pilot := 2048 ≤ h ∧ t0.mode ≠ .u
    let smode := t0.mode ≠ .u
    let st : DevReg → Prop := fun r => StoresReg s h r va v
    let stays : Instr → Prop := fun i => Answers i s (fun t => t = s)
    let does : Instr → (State → Prop) → Prop := fun i P => Answers i s (Issues s h P)
    let fault : Instr → Prop := fun i => does i (TrapTaken (s.stopVector h (s.allSeq h)) h false 7 va)
    let dev : Instr → Device → Prop := fun i d => does i (fun t => t.hart h = t0.retired (t0.pc + 4) ∧ t.dev = d ∧
      OnlyHartAnd s t h (fun t => { t with dev := s.dev }))
    let cluster : Instr → Nat → (Cluster → Prop) → Prop := fun i m P => does i (fun t => t.hart h = t0.retired (t0.pc + 4) ∧
      P (t.cluster m) ∧ (∀ j, j ≠ m → t.cluster j = s.cluster j) ∧ OnlyHartAnd s t h (fun t => { t with clusters := s.clusters }))
    let other : Instr → Nat → (Hart → Hart) → Prop := fun i j f => does i (fun t => (t.hart j = if j = h then (f t0).retired (t0.pc + 4) else f (s.hart j)) ∧
      (j ≠ h → t.hart h = t0.retired (t0.pc + 4)) ∧ (∀ g, g ≠ h → g ≠ j → t.hart g = s.hart g) ∧ SameMem s t ∧ { t with harts := s.harts } = s)
    (∀ c, st (.home c) → (¬pilot → fault (.homeTableWrite h)) ∧ (pilot → s.dev.homeChange ≠ none → stays (.homeTableWrite h)) ∧
      (pilot → s.dev.homeChange = none → does (.homeTableWrite h) (fun t => t.hart h = { t0 with wait := .homeStore } ∧
        t.dev = { s.dev with homeChange := some (c, v) } ∧ OnlyHartAnd s t h (fun t => { t with dev := s.dev })))) ∧
    (st .shootCmd → (¬smode ∨ fld v 19 45 ≠ 0 → fault (.shootCmdWrite h)) ∧
      (smode → fld v 19 45 = 0 → s.dev.shoot ≠ none → stays (.shootCmdWrite h)) ∧
      (smode → fld v 19 45 = 0 → s.dev.shoot = none → does (.shootCmdWrite h) (fun t => t.hart h = t0.retired (t0.pc + 4) ∧
        t.dev = { s.dev with shoot := some v, shootPos := s.harts.map (fun p => (p.1, p.2.pos)) } ∧
        OnlyHartAnd s t h (fun t => { t with dev := s.dev, cores := s.cores }) ∧ ∀ j,
          t.core j = { s.core j with tlb := (t.core j).tlb, walks := (t.core j).walks, walking := [] } ∧
          (∀ e, e ∈ (t.core j).tlb ↔ e ∈ (s.core j).tlb ∧
            (v.getLsbD 18 = true ∨ ¬FencedEntry (v.getLsbD 16) (v.getLsbD 17) s.dev.shootVa.toNat (fld v 0 16) e)) ∧
          ∀ e, e.level ≤ 5 → (e ∈ (t.core j).walks ↔ e ∈ (s.core j).walks ∧
            ¬FencedWalk (v.getLsbD 16) (v.getLsbD 17) s.dev.shootVa.toNat (fld v 0 16) e)))) ∧
    (st .pgdone → let j := fld v 0 12
      let tag := fld v 12 4
      let ok := smode ∧ fld v 24 40 = 0 ∧ j < 2048 ∧ fld v 17 7 ≤ 64 ∧ tag ∈ (s.hart j).stg.tags
      (¬ok → fault (.pgdoneWrite h)) ∧
      let holds : Nat → Nat → Xfer → Prop := fun ch k x => ch < 4 ∧ ∃ c a, (s.hart j).chanAt ch = some c ∧ c.xfers[k]? = some x ∧ x.tag = some (tag, a)
      (ok → (∀ ch k x, ¬holds ch k x) → other (.pgdoneWrite h) j (fun b =>
        let notice : Notice := ⟨tag, v.getLsbD 16, fld v 17 7⟩
        { b with stg := { b.stg with notices := b.stg.notices.filter (fun n => n.tag != tag) ++ [notice] } })) ∧
      (ok → v.getLsbD 16 = false → ∀ ch k x, holds ch k x → (∀ ch' k' y, holds ch' k' y → ch' = ch ∧ k' = k) →
        does (.pgdoneWrite h) (fun t => (∀ n, n ∈ (t.hart j).stg.tags ↔ n ∈ (s.hart j).stg.tags ∧ n ≠ tag) ∧
          (t.hart j).stg.notices = (s.hart j).stg.notices ∧ (∃ c, (t.hart j).chanAt ch = some c ∧ c.xfers[k]? = some { x with tag := none }) ∧
          (t.hart h).pc = t0.pc + 4 ∧ SameMem s t))) ∧
    (∀ m, st (.arrbind m) → (¬pilot ∨ fld v 5 59 ≠ 0 → fault (.arrbindWrite h)) ∧
      (pilot → fld v 5 59 = 0 → v.setWidth 5 = (s.cluster m).arrbind → cluster (.arrbindWrite h) m (fun d => d = s.cluster m)) ∧
      (pilot → fld v 5 59 = 0 → v.setWidth 5 ≠ (s.cluster m).arrbind → (s.cluster m).arrbind.getLsbD 4 = false →
        cluster (.arrbindWrite h) m (fun d => d = { s.cluster m with arrbind := v.setWidth 5, clearing := true })) ∧
      (pilot → fld v 5 59 = 0 → (s.cluster m).arrbind.getLsbD 4 = true → (s.cluster m).lease.holder ≠ none →
        cluster (.arrbindWrite h) m (fun d => d = s.cluster m))) ∧
    (∀ m w, st (.tsave m w) → let c := s.cluster m
      let ok := ∀ i, i < 8 → let n := fld v (8 * i) 8
        n = (c.tsave.get 0 (8 * w + i)).toNat ∨ (n / 64 % 2 = 0 ∧ (128 ≤ n → fld (s.core (coreAt m (n % 4))).ways (2 * (n / 4 % 16)) 2 = 2) ∧
          c.areas.find (8 * w + i) = none ∧ c.lease.parking.map Prod.snd ≠ some (8 * w + i))
      (¬pilot ∨ ¬ok → fault (.tsaveWrite h)) ∧
      (pilot → ok → cluster (.tsaveWrite h) m (fun d => d = { c with tsave := d.tsave } ∧ ∀ j, d.tsave.get 0 j =
        if 8 * w ≤ j ∧ j < 8 * w + 8 then (v >>> (8 * (j - 8 * w))).setWidth 8 else c.tsave.get 0 j))) ∧
    (∀ q, st (.queue q 0) → let x := s.queue q
      let i := Instr.qctlWrite h
      let ok := fld v 23 41 = 0 ∧ fld v 8 2 ≠ 3
      let home := q / 256 * 128 + q % 256 / 2
      let room := fld (s.core home).ways (2 * fld x.qbat 32 4) 2 = 2 ∧ fld x.qbat 36 13 + x.hard ≤ 8192
      let puts : Queue → Nat → Prop := fun y n => does i (fun t => t.hart h = t0.retired (t0.pc + 4) ∧ t.queue q = y ∧
        (∀ j, j ≠ q → t.queue j = s.queue j) ∧ t.dev.events.get 0 2 = s.dev.events.get 0 2 + BitVec.ofNat 64 n ∧
        OnlyHartAnd s t h (fun t => { t with queues := s.queues, dev := { t.dev with events := s.dev.events } }))
      (¬pilot ∨ ¬ok → fault i) ∧ (pilot → ok → v.getLsbD 4 = true → x.valid = true → puts { x with qctl := v } 0) ∧
      (pilot → ok → v.getLsbD 4 = true → x.valid = false → ¬room → fault i) ∧
      (pilot → ok → v.getLsbD 4 = true → x.valid = false → room → puts { x with qctl := v, eligible := none, aged := 0, passed := [] } 0) ∧
      (pilot → ok → v.getLsbD 4 = false → puts { x with qctl := v, recs := [], ovPos := 0, eligible := none, aged := 0, passed := [] } x.recs.length)) ∧
    (st .preempt → let j := fld v 0 12
      let i := if v.getLsbD 12 then Instr.preemptCancel h else .preemptRequest h
      (¬pilot ∨ fld v 13 51 ≠ 0 → fault i) ∧
      (pilot → fld v 13 51 = 0 → 2048 ≤ j ∨ ((s.hart j).task = none ∧ v.getLsbD 12 = false) → does i (RetiresAt s h)) ∧
      (pilot → fld v 13 51 = 0 → j < 2048 → (s.hart j).task ≠ none ∨ v.getLsbD 12 = true → other i j (fun b => { b with preempt := !v.getLsbD 12 }))) ∧
    (∀ n, st (.event n) → v = 0 → (¬smode → fault (.eventCounterClear h)) ∧ (smode → does (.eventCounterClear h) (fun t =>
      t.hart h = t0.retired (t0.pc + 4) ∧ (∀ j, t.dev.events.get 0 j = if j = n then 0 else s.dev.events.get 0 j) ∧
      OnlyHartAnd s t h (fun t => { t with dev := { t.dev with events := s.dev.events } })))) ∧
    (st .chronAdj → (¬pilot ∨ fld v 32 32 ≠ 0 → fault (.chronadjWrite h)) ∧ (pilot → fld v 32 32 = 0 → let a := (v.setWidth 32).toInt
      dev (.chronadjWrite h) { s.dev with chronAdj := BitVec.ofInt 32 (if 500000000 < a then 500000000 else if a < -500000000 then -500000000 else a) })) ∧
    (st .chronStep → (¬pilot → fault (.chronstepWrite h)) ∧
      (pilot → v.getLsbD 63 = true ∨ 2 ^ 64 ≤ s.dev.chron + v.toNat → does (.chronstepWrite h) (RetiresAt s h)) ∧
      (pilot → v.getLsbD 63 = false → s.dev.chron + v.toNat < 2 ^ 64 → dev (.chronstepWrite h) { s.dev with chron := s.dev.chron + v.toNat })) ∧
    (∀ op off x, s.nextReg h = some (op, off, .linkev) → op.store = false → op.bytes = 8 → off % 8 = 0 → s.access h op.va 8 .load = .ok x → x.Plain →
      does (.linkevRead h) (fun t => XHoldsAt s h op.reg (s.dev.linkev.headD 0) t ∧ t.dev = { s.dev with linkev := s.dev.linkev.tail } ∧
        t.hart h = { t0.retired (t0.pc + 4) with x := (t.hart h).x } ∧ OnlyHartAnd s t h (fun t => { t with dev := s.dev }))) ∧
    (∀ c, st (.ctx c 0) → fld v 2 62 = 0 → let x := s.ctx c
      let ways : Nat → List (Nat × Nat) := fun d => (List.range 4).map (fun j =>
        (d * 128 + fld (x.vst.get 0 d) (11 * j + 4) 7, fld (x.vst.get 0 d) (11 * j) 4))
      let ok := ∀ d, d < 4 → (ways d).Nodup ∧ ∀ p ∈ ways d, fld (s.core p.1).ways (2 * p.2) 2 = 2
      let busy := (∃ p ∈ s.harts, p.2.task.map Task.ctx = some c) ∨ (∃ p ∈ s.parked, p.held = true ∧ p.task.ctx = c) ∨
        (∃ p ∈ s.queues, p.2.valid = true ∧ p.2.ctx = c) ∨ (∃ p ∈ s.clusters, p.2.arrbind.getLsbD 4 = true ∧ fld p.2.arrbind 0 4 = c)
      let puts : Instr → Hart → Context → Prop := fun i b y => does i (fun t => t.hart h = b ∧ t.ctx c = y ∧
        (∀ j, j ≠ c → t.ctx j = s.ctx j) ∧ OnlyHartAnd s t h (fun t => { t with ctxs := s.ctxs }))
      (v.getLsbD 0 = true → x.ctl.getLsbD 0 = false → (¬pilot → fault (.contextMakeResident h)) ∧
        (pilot → x.entering = true → stays (.contextMakeResident h)) ∧ (pilot → x.entering = false → ¬ok → fault (.contextMakeResident h)) ∧
        (pilot → x.entering = false → ok → puts (.contextMakeResident h) { t0 with wait := .ctxStore c } { x with ctl := v &&& ~~~1#64, entering := true })) ∧
      (v.getLsbD 0 = false → x.ctl.getLsbD 0 = true → (¬pilot ∨ busy → fault (.contextRelease h)) ∧
        (pilot → ¬busy → puts (.contextRelease h) (t0.retired (t0.pc + 4)) { x with ctl := v }))) ∧
    (∀ j, st (.alarm j) → (¬smode → fault (.alarmWrite h)) ∧ (smode → other (.alarmWrite h) j (fun b => { b with alarm := v }))) ∧
    (st .qpcmd → let i := if v = 1 then Instr.qpcmdApply h else if v = 2 then .qpcmdFetch h else .deviceRegisterWrite h
      let image := (List.range 8).map (fun j => s.dev.qpwin.get 0 j)
      let refused := ApplyRefused s s.dev.qpidx (fun j => s.dev.qpwin.get 0 j)
      (¬pilot → fault i) ∧ (pilot → s.dev.qpBusy ≠ none → stays i) ∧ (pilot → s.dev.qpBusy = none → v ≠ 1 → v ≠ 2 → fault i) ∧
      (pilot → s.dev.qpBusy = none → v = 1 → ¬refused → dev i { s.dev with qpBusy := some (s.dev.qpidx, image), qpRefused := false }) ∧
      (pilot → s.dev.qpBusy = none → v = 1 → refused → dev i { s.dev with qpRefused := true }) ∧
      (pilot → s.dev.qpBusy = none → v = 2 → does i (fun t => t.hart h = t0.retired (t0.pc + 4) ∧ t.dev.qpRefused = false ∧
        (∀ j, j < 8 → t.dev.qpwin.get 0 j = (s.dev.tableEntry s.dev.qpidx).getD j 0) ∧
        OnlyHartAnd s t h (fun t => { t with dev := { t.dev with qpwin := s.dev.qpwin, qpRefused := s.dev.qpRefused } })))) ∧
    (∀ c, st (.fq c 0) → let ok := fld v 0 12 = 0 ∧ fld v 48 16 = 0 ∧ regionOf v.toNat = .dram
      (¬pilot ∨ ¬ok → fault (.deviceRegisterWrite h)) ∧ (pilot → ok → does (.deviceRegisterWrite h) (fun t => t.hart h = t0.retired (t0.pc + 4) ∧
        t.ctx c = { s.ctx c with fqbase := v } ∧ (∀ j, j ≠ c → t.ctx j = s.ctx j) ∧ OnlyHartAnd s t h (fun t => { t with ctxs := s.ctxs })))) ∧
    (∀ q, st (.queue q 2) → let ok := fld v 0 8 = 0 ∧ fld v 48 16 = 0 ∧ regionOf v.toNat = .dram
      (¬pilot ∨ ¬ok → fault (.deviceRegisterWrite h)) ∧ (pilot → ok → does (.deviceRegisterWrite h) (fun t => t.hart h = t0.retired (t0.pc + 4) ∧
        t.queue q = { s.queue q with qovf := v } ∧ (∀ j, j ≠ q → t.queue j = s.queue j) ∧ OnlyHartAnd s t h (fun t => { t with queues := s.queues })))) ∧
    (st .pwrcap → (¬pilot ∨ 1400 < v.toNat → fault (.deviceRegisterWrite h)) ∧
      (pilot → v.toNat ≤ 1400 → dev (.deviceRegisterWrite h) { s.dev with pwrcap := v })) ∧
    (∀ q, st (.queue q 4) → pilot → does (.deviceRegisterWrite h) (fun t => t.hart h = t0.retired (t0.pc + 4) ∧
      t.queue q = { s.queue q with qcons := v } ∧ (∀ j, j ≠ q → t.queue j = s.queue j) ∧ OnlyHartAnd s t h (fun t => { t with queues := s.queues }))) ∧
    (s.nextReg h = none → ∀ i ∈ [Instr.homeTableWrite h, .shootCmdWrite h, .pgdoneWrite h, .arrbindWrite h, .tsaveWrite h, .qctlWrite h,
      .preemptRequest h, .preemptCancel h, .eventCounterClear h, .chronadjWrite h, .chronstepWrite h, .linkevRead h, .contextMakeResident h,
      .contextRelease h, .alarmWrite h, .qpcmdApply h, .qpcmdFetch h, .deviceRegisterWrite h], stays i)
end

