-- ==== Sys2Proof/Laws/Bits.lean ====
section
/-!
SUPPORT. The bits of a word after a field of it is replaced, and of a field of it.
-/
namespace Sys2Proof.Machine

/-- The bits of a word with a field replaced. -/
theorem getLsbD_setFld {w : Nat} (v : BitVec w) (lo n x i : Nat) :
    (setFld v lo n x).getLsbD i = if lo ≤ i ∧ i < lo + n ∧ i < w then x.testBit (i - lo) else v.getLsbD i := by
  unfold setFld
  simp only [BitVec.getLsbD_or, BitVec.getLsbD_and, BitVec.getLsbD_not, BitVec.getLsbD_ofNat, Nat.testBit_shiftLeft,
    Nat.testBit_two_pow_sub_one, Nat.testBit_mod_two_pow]
  by_cases hw : i < w
  · by_cases h1 : lo ≤ i
    · by_cases h2 : i < lo + n
      · have : i - lo < n := by omega
        simp [hw, h1, h2, this]
      · have : ¬ i - lo < n := by omega
        simp [hw, h1, h2, this]
    · simp [hw, h1]
  · simp [hw, BitVec.getLsbD_of_ge v i (by omega)]

/-- The bits of a word with one bit replaced. -/
theorem getLsbD_setBit {w : Nat} (v : BitVec w) (j i : Nat) (b : Bool) :
    (setBit v j b).getLsbD i = if i = j ∧ i < w then b else v.getLsbD i := by
  unfold setBit; rw [getLsbD_setFld]
  by_cases h : i = j
  · subst h; by_cases hw : i < w
    · simp only [hw]; cases b <;> simp
    · simp [hw]
  · rw [if_neg (by omega), if_neg (by tauto)]

theorem bit_setBit {w : Nat} (v : BitVec w) (j i : Nat) (b : Bool) :
    bit (setBit v j b) i = if i = j ∧ i < w then b else bit v i := getLsbD_setBit v j i b

theorem testBit_fld {w : Nat} (v : BitVec w) (lo n i : Nat) :
    (fld v lo n).testBit i = (decide (i < n) && v.getLsbD (lo + i)) := by
  unfold fld; rw [Nat.testBit_mod_two_pow, Nat.testBit_shiftRight]; rfl

/-- A field is the number of its bits. -/
theorem fld_congr {w : Nat} {v u : BitVec w} {lo n : Nat} (h : ∀ i, lo ≤ i → i < lo + n → v.getLsbD i = u.getLsbD i) :
    fld v lo n = fld u lo n := by
  apply Nat.eq_of_testBit_eq; intro i
  rw [testBit_fld, testBit_fld]
  by_cases hi : i < n
  · simp [hi, h (lo + i) (by omega) (by omega)]
  · simp [hi]

/-- A field read after it was replaced. -/
theorem fld_setFld {w : Nat} (v : BitVec w) (lo n x : Nat) (h : lo + n ≤ w) : fld (setFld v lo n x) lo n = x % 2 ^ n := by
  apply Nat.eq_of_testBit_eq; intro i
  rw [testBit_fld, Nat.testBit_mod_two_pow, getLsbD_setFld]
  by_cases hi : i < n
  · rw [if_pos (by omega)]; simp
  · simp [hi]

end Sys2Proof.Machine
end

