-- ==== Sys2Proof/Laws/Tab.lean ====
section
/-!
SUPPORT. Sparse tables: reading after writing, and that every change keeps the canonical form.
-/
namespace Sys2Proof.Machine

variable {α : Type}

@[simp] theorem Tab.get_nil (d : α) (k : Nat) : Tab.get d [] k = d := rfl

@[simp] theorem Tab.find_nil (k : Nat) : Tab.find ([] : Tab α) k = none := rfl

theorem Tab.get_eq_find (d : α) (t : Tab α) (k : Nat) : t.get d k = (t.find k).getD d := by
  induction t with
  | nil => rfl
  | cons p r ih => obtain ⟨j, v⟩ := p; simp only [Tab.get, Tab.find]; split <;> simp [ih]

/-- Listing a value at a key makes that key read it and leaves the others. -/
@[simp] theorem Tab.find_ins (t : Tab α) (k j : Nat) (v : α) :
    (t.ins k v).find j = if j = k then some v else t.find j := by
  induction t with
  | nil => simp [Tab.ins, Tab.find, eq_comm]
  | cons p r ih =>
    obtain ⟨i, u⟩ := p
    simp only [Tab.ins]
    split
    · simp only [Tab.find, eq_comm (a := k)]
    · split
      · subst_vars; simp only [Tab.find, eq_comm (a := i)]; split <;> simp_all
      · simp only [Tab.find, ih]; split
        · subst_vars; simp_all [eq_comm]
        · rfl

@[simp] theorem Tab.get_ins (d : α) (t : Tab α) (k j : Nat) (v : α) :
    (t.ins k v).get d j = if j = k then v else t.get d j := by
  simp only [Tab.get_eq_find, Tab.find_ins]; split <;> rfl

@[simp] theorem Tab.find_del (t : Tab α) (k j : Nat) : (t.del k).find j = if j = k then none else t.find j := by
  induction t with
  | nil => simp [Tab.del]
  | cons p r ih =>
    obtain ⟨i, u⟩ := p
    simp only [Tab.del, Tab.find]
    split
    · subst_vars; rw [ih]; split
      · rfl
      · rw [if_neg (fun h => ‹¬_› h.symm)]
    · simp only [Tab.find, ih]; split
      · subst_vars; simp_all
      · rfl

@[simp] theorem Tab.get_del (d : α) (t : Tab α) (k j : Nat) : (t.del k).get d j = if j = k then d else t.get d j := by
  simp only [Tab.get_eq_find, Tab.find_del]; split <;> rfl

/-- Putting a value at a key makes that key read it and leaves the others. -/
@[simp] theorem Tab.get_put [DecidableEq α] (d : α) (t : Tab α) (k j : Nat) (v : α) :
    (t.put d k v).get d j = if j = k then v else t.get d j := by
  unfold Tab.put; split
  · subst_vars; simp
  · simp

theorem Tab.rising_mono {t : Tab α} {m n : Nat} (h : m ≤ n) (r : Tab.rising n t = true) : Tab.rising m t = true := by
  cases t with
  | nil => rfl
  | cons p r => simp only [Tab.rising, Bool.and_eq_true, decide_eq_true_eq] at *; exact ⟨by omega, r.2⟩

theorem Tab.rising_ins {t : Tab α} {n k : Nat} {v : α} (h : n ≤ k) (r : Tab.rising n t = true) :
    Tab.rising n (t.ins k v) = true := by
  induction t generalizing n with
  | nil => simpa [Tab.ins, Tab.rising]
  | cons p q ih =>
    obtain ⟨i, u⟩ := p
    simp only [Tab.rising, Bool.and_eq_true, decide_eq_true_eq] at r
    simp only [Tab.ins]
    split
    · simp only [Tab.rising, Bool.and_eq_true, decide_eq_true_eq]; exact ⟨h, by omega, r.2⟩
    · split
      · subst_vars; simp only [Tab.rising, Bool.and_eq_true, decide_eq_true_eq]; exact ⟨h, r.2⟩
      · simp only [Tab.rising, Bool.and_eq_true, decide_eq_true_eq]
        exact ⟨r.1, ih (by omega) r.2⟩

theorem Tab.rising_del {t : Tab α} {n k : Nat} (r : Tab.rising n t = true) : Tab.rising n (t.del k) = true := by
  induction t generalizing n with
  | nil => rfl
  | cons p q ih =>
    obtain ⟨i, u⟩ := p
    simp only [Tab.rising, Bool.and_eq_true, decide_eq_true_eq] at r
    simp only [Tab.del]
    split
    · exact Tab.rising_mono (by omega) (ih r.2)
    · simp only [Tab.rising, Bool.and_eq_true, decide_eq_true_eq]; exact ⟨r.1, ih r.2⟩

/-- Cells taken out of a rising list leave it rising. -/
theorem Tab.rising_filter {t : Tab α} {n : Nat} (f : Nat × α → Bool) (r : Tab.rising n t = true) :
    Tab.rising n (t.filter f) = true := by
  induction t generalizing n with
  | nil => rfl
  | cons p q ih =>
    obtain ⟨i, u⟩ := p
    simp only [Tab.rising, Bool.and_eq_true, decide_eq_true_eq] at r
    simp only [List.filter_cons]
    split
    · simp only [Tab.rising, Bool.and_eq_true, decide_eq_true_eq]; exact ⟨r.1, ih r.2⟩
    · exact Tab.rising_mono (by omega) (ih r.2)

theorem Tab.mem_ins {t : Tab α} {k : Nat} {v : α} {p : Nat × α} (h : p ∈ t.ins k v) : p = (k, v) ∨ p ∈ t := by
  induction t with
  | nil => simpa [Tab.ins] using h
  | cons q r ih =>
    obtain ⟨i, u⟩ := q
    simp only [Tab.ins] at h
    split at h
    · simpa using h
    · split at h
      · simp only [List.mem_cons] at h ⊢; tauto
      · simp only [List.mem_cons] at h ⊢
        rcases h with h | h
        · exact .inr (.inl h)
        · rcases ih h with h | h <;> tauto

theorem Tab.mem_del {t : Tab α} {k : Nat} {p : Nat × α} (h : p ∈ t.del k) : p ∈ t := by
  induction t with
  | nil => simp [Tab.del] at h
  | cons q r ih =>
    obtain ⟨i, u⟩ := q
    simp only [Tab.del] at h
    split at h
    · exact List.mem_cons_of_mem _ (ih h)
    · simp only [List.mem_cons] at h ⊢; exact h.imp id ih

/-- Putting a value keeps the canonical form. -/
theorem Tab.wf_put [DecidableEq α] {d : α} {t : Tab α} (k : Nat) (v : α) (h : t.wf d = true) :
    (t.put d k v).wf d = true := by
  simp only [Tab.wf, Bool.and_eq_true, List.all_eq_true, decide_eq_true_eq] at *
  unfold Tab.put; split
  · exact ⟨Tab.rising_del h.1, fun p hp => h.2 p (Tab.mem_del hp)⟩
  · refine ⟨Tab.rising_ins (Nat.zero_le _) h.1, fun p hp => ?_⟩
    rcases Tab.mem_ins hp with rfl | hp
    · assumption
    · exact h.2 p hp

/-- Cells taken out keep the canonical form. -/
theorem Tab.wf_filter [DecidableEq α] {d : α} {t : Tab α} (f : Nat × α → Bool) (h : t.wf d = true) :
    Tab.wf d (t.filter f) = true := by
  simp only [Tab.wf, Bool.and_eq_true, List.all_eq_true, decide_eq_true_eq] at *
  exact ⟨Tab.rising_filter f h.1, fun p hp => h.2 p (List.mem_of_mem_filter hp)⟩

/-- A listed key of a canonical table is at or above the bound it rises from. -/
theorem Tab.find_of_lt {t : Tab α} {n k : Nat} (r : Tab.rising n t = true) (h : k < n) : t.find k = none := by
  induction t generalizing n with
  | nil => rfl
  | cons p q ih =>
    obtain ⟨i, u⟩ := p
    simp only [Tab.rising, Bool.and_eq_true, decide_eq_true_eq] at r
    simp only [Tab.find]
    rw [if_neg (by omega)]
    exact ih r.2 (by omega)

end Sys2Proof.Machine
end

