-- ==== Sys2Proof/Laws/State.lean ====
section
/-!
SUPPORT. What each update of the state leaves in each part of it: one lemma for each update and field, and what reading a
part after an update of it gives.
-/
namespace Sys2Proof.Machine

/-! ## Fields -/

@[simp] theorem State.setHart_agenda (s : State) (h : Nat) (v : Hart) : (s.setHart h v).agenda = s.agenda := rfl
@[simp] theorem State.setHart_cur (s : State) (h : Nat) (v : Hart) : (s.setHart h v).cur = s.cur := rfl
@[simp] theorem State.setHart_mem (s : State) (h : Nat) (v : Hart) : (s.setHart h v).mem = s.mem := rfl
@[simp] theorem State.setHart_fe (s : State) (h : Nat) (v : Hart) : (s.setHart h v).fe = s.fe := rfl
@[simp] theorem State.setHart_cores (s : State) (h : Nat) (v : Hart) : (s.setHart h v).cores = s.cores := rfl
@[simp] theorem State.setHart_clusters (s : State) (h : Nat) (v : Hart) : (s.setHart h v).clusters = s.clusters := rfl
@[simp] theorem State.setHart_queues (s : State) (h : Nat) (v : Hart) : (s.setHart h v).queues = s.queues := rfl
@[simp] theorem State.setHart_ctxs (s : State) (h : Nat) (v : Hart) : (s.setHart h v).ctxs = s.ctxs := rfl
@[simp] theorem State.setHart_dev (s : State) (h : Nat) (v : Hart) : (s.setHart h v).dev = s.dev := rfl
@[simp] theorem State.setHart_parked (s : State) (h : Nat) (v : Hart) : (s.setHart h v).parked = s.parked := rfl
@[simp] theorem State.setHart_sent (s : State) (h : Nat) (v : Hart) : (s.setHart h v).sent = s.sent := rfl
@[simp] theorem State.setHart_freeCount (s : State) (h : Nat) (v : Hart) : (s.setHart h v).freeCount = s.freeCount := rfl

@[simp] theorem State.onHart_agenda (s : State) (h : Nat) (f : Hart → Hart) : (s.onHart h f).agenda = s.agenda := rfl
@[simp] theorem State.onHart_cur (s : State) (h : Nat) (f : Hart → Hart) : (s.onHart h f).cur = s.cur := rfl
@[simp] theorem State.onHart_mem (s : State) (h : Nat) (f : Hart → Hart) : (s.onHart h f).mem = s.mem := rfl
@[simp] theorem State.onHart_fe (s : State) (h : Nat) (f : Hart → Hart) : (s.onHart h f).fe = s.fe := rfl
@[simp] theorem State.onHart_cores (s : State) (h : Nat) (f : Hart → Hart) : (s.onHart h f).cores = s.cores := rfl
@[simp] theorem State.onHart_clusters (s : State) (h : Nat) (f : Hart → Hart) : (s.onHart h f).clusters = s.clusters := rfl
@[simp] theorem State.onHart_queues (s : State) (h : Nat) (f : Hart → Hart) : (s.onHart h f).queues = s.queues := rfl
@[simp] theorem State.onHart_ctxs (s : State) (h : Nat) (f : Hart → Hart) : (s.onHart h f).ctxs = s.ctxs := rfl
@[simp] theorem State.onHart_dev (s : State) (h : Nat) (f : Hart → Hart) : (s.onHart h f).dev = s.dev := rfl
@[simp] theorem State.onHart_parked (s : State) (h : Nat) (f : Hart → Hart) : (s.onHart h f).parked = s.parked := rfl
@[simp] theorem State.onHart_sent (s : State) (h : Nat) (f : Hart → Hart) : (s.onHart h f).sent = s.sent := rfl
@[simp] theorem State.onHart_freeCount (s : State) (h : Nat) (f : Hart → Hart) : (s.onHart h f).freeCount = s.freeCount := rfl

@[simp] theorem State.onCore_agenda (s : State) (c : Nat) (f : Core → Core) : (s.onCore c f).agenda = s.agenda := rfl
@[simp] theorem State.onCore_cur (s : State) (c : Nat) (f : Core → Core) : (s.onCore c f).cur = s.cur := rfl
@[simp] theorem State.onCore_mem (s : State) (c : Nat) (f : Core → Core) : (s.onCore c f).mem = s.mem := rfl
@[simp] theorem State.onCore_fe (s : State) (c : Nat) (f : Core → Core) : (s.onCore c f).fe = s.fe := rfl
@[simp] theorem State.onCore_harts (s : State) (c : Nat) (f : Core → Core) : (s.onCore c f).harts = s.harts := rfl
@[simp] theorem State.onCore_clusters (s : State) (c : Nat) (f : Core → Core) : (s.onCore c f).clusters = s.clusters := rfl
@[simp] theorem State.onCore_queues (s : State) (c : Nat) (f : Core → Core) : (s.onCore c f).queues = s.queues := rfl
@[simp] theorem State.onCore_ctxs (s : State) (c : Nat) (f : Core → Core) : (s.onCore c f).ctxs = s.ctxs := rfl
@[simp] theorem State.onCore_dev (s : State) (c : Nat) (f : Core → Core) : (s.onCore c f).dev = s.dev := rfl
@[simp] theorem State.onCore_parked (s : State) (c : Nat) (f : Core → Core) : (s.onCore c f).parked = s.parked := rfl
@[simp] theorem State.onCore_sent (s : State) (c : Nat) (f : Core → Core) : (s.onCore c f).sent = s.sent := rfl
@[simp] theorem State.onCore_freeCount (s : State) (c : Nat) (f : Core → Core) : (s.onCore c f).freeCount = s.freeCount := rfl

@[simp] theorem State.onCluster_agenda (s : State) (c : Nat) (f : Cluster → Cluster) : (s.onCluster c f).agenda = s.agenda := rfl
@[simp] theorem State.onCluster_cur (s : State) (c : Nat) (f : Cluster → Cluster) : (s.onCluster c f).cur = s.cur := rfl
@[simp] theorem State.onCluster_mem (s : State) (c : Nat) (f : Cluster → Cluster) : (s.onCluster c f).mem = s.mem := rfl
@[simp] theorem State.onCluster_fe (s : State) (c : Nat) (f : Cluster → Cluster) : (s.onCluster c f).fe = s.fe := rfl
@[simp] theorem State.onCluster_harts (s : State) (c : Nat) (f : Cluster → Cluster) : (s.onCluster c f).harts = s.harts := rfl
@[simp] theorem State.onCluster_cores (s : State) (c : Nat) (f : Cluster → Cluster) : (s.onCluster c f).cores = s.cores := rfl
@[simp] theorem State.onCluster_queues (s : State) (c : Nat) (f : Cluster → Cluster) : (s.onCluster c f).queues = s.queues := rfl
@[simp] theorem State.onCluster_ctxs (s : State) (c : Nat) (f : Cluster → Cluster) : (s.onCluster c f).ctxs = s.ctxs := rfl
@[simp] theorem State.onCluster_dev (s : State) (c : Nat) (f : Cluster → Cluster) : (s.onCluster c f).dev = s.dev := rfl
@[simp] theorem State.onCluster_parked (s : State) (c : Nat) (f : Cluster → Cluster) : (s.onCluster c f).parked = s.parked := rfl
@[simp] theorem State.onCluster_sent (s : State) (c : Nat) (f : Cluster → Cluster) : (s.onCluster c f).sent = s.sent := rfl
@[simp] theorem State.onCluster_freeCount (s : State) (c : Nat) (f : Cluster → Cluster) : (s.onCluster c f).freeCount = s.freeCount := rfl

@[simp] theorem State.onQueue_agenda (s : State) (q : Nat) (f : Queue → Queue) : (s.onQueue q f).agenda = s.agenda := rfl
@[simp] theorem State.onQueue_cur (s : State) (q : Nat) (f : Queue → Queue) : (s.onQueue q f).cur = s.cur := rfl
@[simp] theorem State.onQueue_mem (s : State) (q : Nat) (f : Queue → Queue) : (s.onQueue q f).mem = s.mem := rfl
@[simp] theorem State.onQueue_fe (s : State) (q : Nat) (f : Queue → Queue) : (s.onQueue q f).fe = s.fe := rfl
@[simp] theorem State.onQueue_harts (s : State) (q : Nat) (f : Queue → Queue) : (s.onQueue q f).harts = s.harts := rfl
@[simp] theorem State.onQueue_cores (s : State) (q : Nat) (f : Queue → Queue) : (s.onQueue q f).cores = s.cores := rfl
@[simp] theorem State.onQueue_clusters (s : State) (q : Nat) (f : Queue → Queue) : (s.onQueue q f).clusters = s.clusters := rfl
@[simp] theorem State.onQueue_ctxs (s : State) (q : Nat) (f : Queue → Queue) : (s.onQueue q f).ctxs = s.ctxs := rfl
@[simp] theorem State.onQueue_dev (s : State) (q : Nat) (f : Queue → Queue) : (s.onQueue q f).dev = s.dev := rfl
@[simp] theorem State.onQueue_parked (s : State) (q : Nat) (f : Queue → Queue) : (s.onQueue q f).parked = s.parked := rfl
@[simp] theorem State.onQueue_sent (s : State) (q : Nat) (f : Queue → Queue) : (s.onQueue q f).sent = s.sent := rfl
@[simp] theorem State.onQueue_freeCount (s : State) (q : Nat) (f : Queue → Queue) : (s.onQueue q f).freeCount = s.freeCount := rfl

@[simp] theorem State.onCtx_agenda (s : State) (c : Nat) (f : Context → Context) : (s.onCtx c f).agenda = s.agenda := rfl
@[simp] theorem State.onCtx_cur (s : State) (c : Nat) (f : Context → Context) : (s.onCtx c f).cur = s.cur := rfl
@[simp] theorem State.onCtx_mem (s : State) (c : Nat) (f : Context → Context) : (s.onCtx c f).mem = s.mem := rfl
@[simp] theorem State.onCtx_fe (s : State) (c : Nat) (f : Context → Context) : (s.onCtx c f).fe = s.fe := rfl
@[simp] theorem State.onCtx_harts (s : State) (c : Nat) (f : Context → Context) : (s.onCtx c f).harts = s.harts := rfl
@[simp] theorem State.onCtx_cores (s : State) (c : Nat) (f : Context → Context) : (s.onCtx c f).cores = s.cores := rfl
@[simp] theorem State.onCtx_clusters (s : State) (c : Nat) (f : Context → Context) : (s.onCtx c f).clusters = s.clusters := rfl
@[simp] theorem State.onCtx_queues (s : State) (c : Nat) (f : Context → Context) : (s.onCtx c f).queues = s.queues := rfl
@[simp] theorem State.onCtx_dev (s : State) (c : Nat) (f : Context → Context) : (s.onCtx c f).dev = s.dev := rfl
@[simp] theorem State.onCtx_parked (s : State) (c : Nat) (f : Context → Context) : (s.onCtx c f).parked = s.parked := rfl
@[simp] theorem State.onCtx_sent (s : State) (c : Nat) (f : Context → Context) : (s.onCtx c f).sent = s.sent := rfl
@[simp] theorem State.onCtx_freeCount (s : State) (c : Nat) (f : Context → Context) : (s.onCtx c f).freeCount = s.freeCount := rfl

@[simp] theorem State.onDev_agenda (s : State) (f : Device → Device) : (s.onDev f).agenda = s.agenda := rfl
@[simp] theorem State.onDev_cur (s : State) (f : Device → Device) : (s.onDev f).cur = s.cur := rfl
@[simp] theorem State.onDev_mem (s : State) (f : Device → Device) : (s.onDev f).mem = s.mem := rfl
@[simp] theorem State.onDev_fe (s : State) (f : Device → Device) : (s.onDev f).fe = s.fe := rfl
@[simp] theorem State.onDev_harts (s : State) (f : Device → Device) : (s.onDev f).harts = s.harts := rfl
@[simp] theorem State.onDev_cores (s : State) (f : Device → Device) : (s.onDev f).cores = s.cores := rfl
@[simp] theorem State.onDev_clusters (s : State) (f : Device → Device) : (s.onDev f).clusters = s.clusters := rfl
@[simp] theorem State.onDev_queues (s : State) (f : Device → Device) : (s.onDev f).queues = s.queues := rfl
@[simp] theorem State.onDev_ctxs (s : State) (f : Device → Device) : (s.onDev f).ctxs = s.ctxs := rfl
@[simp] theorem State.onDev_parked (s : State) (f : Device → Device) : (s.onDev f).parked = s.parked := rfl
@[simp] theorem State.onDev_sent (s : State) (f : Device → Device) : (s.onDev f).sent = s.sent := rfl
@[simp] theorem State.onDev_freeCount (s : State) (f : Device → Device) : (s.onDev f).freeCount = s.freeCount := rfl

@[simp] theorem State.onVec_agenda (s : State) (h : Nat) (f : Vec → Vec) : (s.onVec h f).agenda = s.agenda := rfl
@[simp] theorem State.onVec_cur (s : State) (h : Nat) (f : Vec → Vec) : (s.onVec h f).cur = s.cur := rfl
@[simp] theorem State.onVec_mem (s : State) (h : Nat) (f : Vec → Vec) : (s.onVec h f).mem = s.mem := rfl
@[simp] theorem State.onVec_fe (s : State) (h : Nat) (f : Vec → Vec) : (s.onVec h f).fe = s.fe := rfl
@[simp] theorem State.onVec_cores (s : State) (h : Nat) (f : Vec → Vec) : (s.onVec h f).cores = s.cores := rfl
@[simp] theorem State.onVec_clusters (s : State) (h : Nat) (f : Vec → Vec) : (s.onVec h f).clusters = s.clusters := rfl
@[simp] theorem State.onVec_queues (s : State) (h : Nat) (f : Vec → Vec) : (s.onVec h f).queues = s.queues := rfl
@[simp] theorem State.onVec_ctxs (s : State) (h : Nat) (f : Vec → Vec) : (s.onVec h f).ctxs = s.ctxs := rfl
@[simp] theorem State.onVec_dev (s : State) (h : Nat) (f : Vec → Vec) : (s.onVec h f).dev = s.dev := rfl
@[simp] theorem State.onVec_parked (s : State) (h : Nat) (f : Vec → Vec) : (s.onVec h f).parked = s.parked := rfl
@[simp] theorem State.onVec_sent (s : State) (h : Nat) (f : Vec → Vec) : (s.onVec h f).sent = s.sent := rfl
@[simp] theorem State.onVec_freeCount (s : State) (h : Nat) (f : Vec → Vec) : (s.onVec h f).freeCount = s.freeCount := rfl

@[simp] theorem State.onStg_agenda (s : State) (h : Nat) (f : Staging → Staging) : (s.onStg h f).agenda = s.agenda := rfl
@[simp] theorem State.onStg_cur (s : State) (h : Nat) (f : Staging → Staging) : (s.onStg h f).cur = s.cur := rfl
@[simp] theorem State.onStg_mem (s : State) (h : Nat) (f : Staging → Staging) : (s.onStg h f).mem = s.mem := rfl
@[simp] theorem State.onStg_fe (s : State) (h : Nat) (f : Staging → Staging) : (s.onStg h f).fe = s.fe := rfl
@[simp] theorem State.onStg_cores (s : State) (h : Nat) (f : Staging → Staging) : (s.onStg h f).cores = s.cores := rfl
@[simp] theorem State.onStg_clusters (s : State) (h : Nat) (f : Staging → Staging) : (s.onStg h f).clusters = s.clusters := rfl
@[simp] theorem State.onStg_queues (s : State) (h : Nat) (f : Staging → Staging) : (s.onStg h f).queues = s.queues := rfl
@[simp] theorem State.onStg_ctxs (s : State) (h : Nat) (f : Staging → Staging) : (s.onStg h f).ctxs = s.ctxs := rfl
@[simp] theorem State.onStg_dev (s : State) (h : Nat) (f : Staging → Staging) : (s.onStg h f).dev = s.dev := rfl
@[simp] theorem State.onStg_parked (s : State) (h : Nat) (f : Staging → Staging) : (s.onStg h f).parked = s.parked := rfl
@[simp] theorem State.onStg_sent (s : State) (h : Nat) (f : Staging → Staging) : (s.onStg h f).sent = s.sent := rfl
@[simp] theorem State.onStg_freeCount (s : State) (h : Nat) (f : Staging → Staging) : (s.onStg h f).freeCount = s.freeCount := rfl

@[simp] theorem State.onCsr_agenda (s : State) (h : Nat) (f : Csrs → Csrs) : (s.onCsr h f).agenda = s.agenda := rfl
@[simp] theorem State.onCsr_cur (s : State) (h : Nat) (f : Csrs → Csrs) : (s.onCsr h f).cur = s.cur := rfl
@[simp] theorem State.onCsr_mem (s : State) (h : Nat) (f : Csrs → Csrs) : (s.onCsr h f).mem = s.mem := rfl
@[simp] theorem State.onCsr_fe (s : State) (h : Nat) (f : Csrs → Csrs) : (s.onCsr h f).fe = s.fe := rfl
@[simp] theorem State.onCsr_cores (s : State) (h : Nat) (f : Csrs → Csrs) : (s.onCsr h f).cores = s.cores := rfl
@[simp] theorem State.onCsr_clusters (s : State) (h : Nat) (f : Csrs → Csrs) : (s.onCsr h f).clusters = s.clusters := rfl
@[simp] theorem State.onCsr_queues (s : State) (h : Nat) (f : Csrs → Csrs) : (s.onCsr h f).queues = s.queues := rfl
@[simp] theorem State.onCsr_ctxs (s : State) (h : Nat) (f : Csrs → Csrs) : (s.onCsr h f).ctxs = s.ctxs := rfl
@[simp] theorem State.onCsr_dev (s : State) (h : Nat) (f : Csrs → Csrs) : (s.onCsr h f).dev = s.dev := rfl
@[simp] theorem State.onCsr_parked (s : State) (h : Nat) (f : Csrs → Csrs) : (s.onCsr h f).parked = s.parked := rfl
@[simp] theorem State.onCsr_sent (s : State) (h : Nat) (f : Csrs → Csrs) : (s.onCsr h f).sent = s.sent := rfl
@[simp] theorem State.onCsr_freeCount (s : State) (h : Nat) (f : Csrs → Csrs) : (s.onCsr h f).freeCount = s.freeCount := rfl

@[simp] theorem State.onLink_agenda (s : State) (l : Nat) (f : Link → Link) : (s.onLink l f).agenda = s.agenda := rfl
@[simp] theorem State.onLink_cur (s : State) (l : Nat) (f : Link → Link) : (s.onLink l f).cur = s.cur := rfl
@[simp] theorem State.onLink_mem (s : State) (l : Nat) (f : Link → Link) : (s.onLink l f).mem = s.mem := rfl
@[simp] theorem State.onLink_fe (s : State) (l : Nat) (f : Link → Link) : (s.onLink l f).fe = s.fe := rfl
@[simp] theorem State.onLink_harts (s : State) (l : Nat) (f : Link → Link) : (s.onLink l f).harts = s.harts := rfl
@[simp] theorem State.onLink_cores (s : State) (l : Nat) (f : Link → Link) : (s.onLink l f).cores = s.cores := rfl
@[simp] theorem State.onLink_clusters (s : State) (l : Nat) (f : Link → Link) : (s.onLink l f).clusters = s.clusters := rfl
@[simp] theorem State.onLink_queues (s : State) (l : Nat) (f : Link → Link) : (s.onLink l f).queues = s.queues := rfl
@[simp] theorem State.onLink_ctxs (s : State) (l : Nat) (f : Link → Link) : (s.onLink l f).ctxs = s.ctxs := rfl
@[simp] theorem State.onLink_parked (s : State) (l : Nat) (f : Link → Link) : (s.onLink l f).parked = s.parked := rfl
@[simp] theorem State.onLink_sent (s : State) (l : Nat) (f : Link → Link) : (s.onLink l f).sent = s.sent := rfl
@[simp] theorem State.onLink_freeCount (s : State) (l : Nat) (f : Link → Link) : (s.onLink l f).freeCount = s.freeCount := rfl

@[simp] theorem State.setWire_agenda (s : State) (c w : Nat) (v : Wire) : (s.setWire c w v).agenda = s.agenda := rfl
@[simp] theorem State.setWire_cur (s : State) (c w : Nat) (v : Wire) : (s.setWire c w v).cur = s.cur := rfl
@[simp] theorem State.setWire_mem (s : State) (c w : Nat) (v : Wire) : (s.setWire c w v).mem = s.mem := rfl
@[simp] theorem State.setWire_fe (s : State) (c w : Nat) (v : Wire) : (s.setWire c w v).fe = s.fe := rfl
@[simp] theorem State.setWire_harts (s : State) (c w : Nat) (v : Wire) : (s.setWire c w v).harts = s.harts := rfl
@[simp] theorem State.setWire_clusters (s : State) (c w : Nat) (v : Wire) : (s.setWire c w v).clusters = s.clusters := rfl
@[simp] theorem State.setWire_queues (s : State) (c w : Nat) (v : Wire) : (s.setWire c w v).queues = s.queues := rfl
@[simp] theorem State.setWire_ctxs (s : State) (c w : Nat) (v : Wire) : (s.setWire c w v).ctxs = s.ctxs := rfl
@[simp] theorem State.setWire_dev (s : State) (c w : Nat) (v : Wire) : (s.setWire c w v).dev = s.dev := rfl
@[simp] theorem State.setWire_parked (s : State) (c w : Nat) (v : Wire) : (s.setWire c w v).parked = s.parked := rfl
@[simp] theorem State.setWire_sent (s : State) (c w : Nat) (v : Wire) : (s.setWire c w v).sent = s.sent := rfl
@[simp] theorem State.setWire_freeCount (s : State) (c w : Nat) (v : Wire) : (s.setWire c w v).freeCount = s.freeCount := rfl

@[simp] theorem State.setByte_agenda (s : State) (a : Nat) (b : Byte) : (s.setByte a b).agenda = s.agenda := rfl
@[simp] theorem State.setByte_cur (s : State) (a : Nat) (b : Byte) : (s.setByte a b).cur = s.cur := rfl
@[simp] theorem State.setByte_fe (s : State) (a : Nat) (b : Byte) : (s.setByte a b).fe = s.fe := rfl
@[simp] theorem State.setByte_harts (s : State) (a : Nat) (b : Byte) : (s.setByte a b).harts = s.harts := rfl
@[simp] theorem State.setByte_cores (s : State) (a : Nat) (b : Byte) : (s.setByte a b).cores = s.cores := rfl
@[simp] theorem State.setByte_clusters (s : State) (a : Nat) (b : Byte) : (s.setByte a b).clusters = s.clusters := rfl
@[simp] theorem State.setByte_queues (s : State) (a : Nat) (b : Byte) : (s.setByte a b).queues = s.queues := rfl
@[simp] theorem State.setByte_ctxs (s : State) (a : Nat) (b : Byte) : (s.setByte a b).ctxs = s.ctxs := rfl
@[simp] theorem State.setByte_dev (s : State) (a : Nat) (b : Byte) : (s.setByte a b).dev = s.dev := rfl
@[simp] theorem State.setByte_parked (s : State) (a : Nat) (b : Byte) : (s.setByte a b).parked = s.parked := rfl
@[simp] theorem State.setByte_sent (s : State) (a : Nat) (b : Byte) : (s.setByte a b).sent = s.sent := rfl
@[simp] theorem State.setByte_freeCount (s : State) (a : Nat) (b : Byte) : (s.setByte a b).freeCount = s.freeCount := rfl

@[simp] theorem State.setFull_agenda (s : State) (l : Nat) (b : Bool) : (s.setFull l b).agenda = s.agenda := rfl
@[simp] theorem State.setFull_cur (s : State) (l : Nat) (b : Bool) : (s.setFull l b).cur = s.cur := rfl
@[simp] theorem State.setFull_mem (s : State) (l : Nat) (b : Bool) : (s.setFull l b).mem = s.mem := rfl
@[simp] theorem State.setFull_harts (s : State) (l : Nat) (b : Bool) : (s.setFull l b).harts = s.harts := rfl
@[simp] theorem State.setFull_cores (s : State) (l : Nat) (b : Bool) : (s.setFull l b).cores = s.cores := rfl
@[simp] theorem State.setFull_clusters (s : State) (l : Nat) (b : Bool) : (s.setFull l b).clusters = s.clusters := rfl
@[simp] theorem State.setFull_queues (s : State) (l : Nat) (b : Bool) : (s.setFull l b).queues = s.queues := rfl
@[simp] theorem State.setFull_ctxs (s : State) (l : Nat) (b : Bool) : (s.setFull l b).ctxs = s.ctxs := rfl
@[simp] theorem State.setFull_dev (s : State) (l : Nat) (b : Bool) : (s.setFull l b).dev = s.dev := rfl
@[simp] theorem State.setFull_parked (s : State) (l : Nat) (b : Bool) : (s.setFull l b).parked = s.parked := rfl
@[simp] theorem State.setFull_sent (s : State) (l : Nat) (b : Bool) : (s.setFull l b).sent = s.sent := rfl
@[simp] theorem State.setFull_freeCount (s : State) (l : Nat) (b : Bool) : (s.setFull l b).freeCount = s.freeCount := rfl

@[simp] theorem State.setF_agenda (s : State) (h n : Nat) (v : Half) : (s.setF h n v).agenda = s.agenda := rfl
@[simp] theorem State.setF_cur (s : State) (h n : Nat) (v : Half) : (s.setF h n v).cur = s.cur := rfl
@[simp] theorem State.setF_mem (s : State) (h n : Nat) (v : Half) : (s.setF h n v).mem = s.mem := rfl
@[simp] theorem State.setF_fe (s : State) (h n : Nat) (v : Half) : (s.setF h n v).fe = s.fe := rfl
@[simp] theorem State.setF_cores (s : State) (h n : Nat) (v : Half) : (s.setF h n v).cores = s.cores := rfl
@[simp] theorem State.setF_clusters (s : State) (h n : Nat) (v : Half) : (s.setF h n v).clusters = s.clusters := rfl
@[simp] theorem State.setF_queues (s : State) (h n : Nat) (v : Half) : (s.setF h n v).queues = s.queues := rfl
@[simp] theorem State.setF_ctxs (s : State) (h n : Nat) (v : Half) : (s.setF h n v).ctxs = s.ctxs := rfl
@[simp] theorem State.setF_dev (s : State) (h n : Nat) (v : Half) : (s.setF h n v).dev = s.dev := rfl
@[simp] theorem State.setF_parked (s : State) (h n : Nat) (v : Half) : (s.setF h n v).parked = s.parked := rfl
@[simp] theorem State.setF_sent (s : State) (h n : Nat) (v : Half) : (s.setF h n v).sent = s.sent := rfl
@[simp] theorem State.setF_freeCount (s : State) (h n : Nat) (v : Half) : (s.setF h n v).freeCount = s.freeCount := rfl

@[simp] theorem State.setPc_agenda (s : State) (h : Nat) (v : Word) : (s.setPc h v).agenda = s.agenda := rfl
@[simp] theorem State.setPc_cur (s : State) (h : Nat) (v : Word) : (s.setPc h v).cur = s.cur := rfl
@[simp] theorem State.setPc_mem (s : State) (h : Nat) (v : Word) : (s.setPc h v).mem = s.mem := rfl
@[simp] theorem State.setPc_fe (s : State) (h : Nat) (v : Word) : (s.setPc h v).fe = s.fe := rfl
@[simp] theorem State.setPc_cores (s : State) (h : Nat) (v : Word) : (s.setPc h v).cores = s.cores := rfl
@[simp] theorem State.setPc_clusters (s : State) (h : Nat) (v : Word) : (s.setPc h v).clusters = s.clusters := rfl
@[simp] theorem State.setPc_queues (s : State) (h : Nat) (v : Word) : (s.setPc h v).queues = s.queues := rfl
@[simp] theorem State.setPc_ctxs (s : State) (h : Nat) (v : Word) : (s.setPc h v).ctxs = s.ctxs := rfl
@[simp] theorem State.setPc_dev (s : State) (h : Nat) (v : Word) : (s.setPc h v).dev = s.dev := rfl
@[simp] theorem State.setPc_parked (s : State) (h : Nat) (v : Word) : (s.setPc h v).parked = s.parked := rfl
@[simp] theorem State.setPc_sent (s : State) (h : Nat) (v : Word) : (s.setPc h v).sent = s.sent := rfl
@[simp] theorem State.setPc_freeCount (s : State) (h : Nat) (v : Word) : (s.setPc h v).freeCount = s.freeCount := rfl

@[simp] theorem State.retireTo_agenda (s : State) (h : Nat) (v : Word) : (s.retireTo h v).agenda = s.agenda := rfl
@[simp] theorem State.retireTo_cur (s : State) (h : Nat) (v : Word) : (s.retireTo h v).cur = s.cur := rfl
@[simp] theorem State.retireTo_mem (s : State) (h : Nat) (v : Word) : (s.retireTo h v).mem = s.mem := rfl
@[simp] theorem State.retireTo_fe (s : State) (h : Nat) (v : Word) : (s.retireTo h v).fe = s.fe := rfl
@[simp] theorem State.retireTo_cores (s : State) (h : Nat) (v : Word) : (s.retireTo h v).cores = s.cores := rfl
@[simp] theorem State.retireTo_clusters (s : State) (h : Nat) (v : Word) : (s.retireTo h v).clusters = s.clusters := rfl
@[simp] theorem State.retireTo_queues (s : State) (h : Nat) (v : Word) : (s.retireTo h v).queues = s.queues := rfl
@[simp] theorem State.retireTo_ctxs (s : State) (h : Nat) (v : Word) : (s.retireTo h v).ctxs = s.ctxs := rfl
@[simp] theorem State.retireTo_dev (s : State) (h : Nat) (v : Word) : (s.retireTo h v).dev = s.dev := rfl
@[simp] theorem State.retireTo_parked (s : State) (h : Nat) (v : Word) : (s.retireTo h v).parked = s.parked := rfl
@[simp] theorem State.retireTo_sent (s : State) (h : Nat) (v : Word) : (s.retireTo h v).sent = s.sent := rfl
@[simp] theorem State.retireTo_freeCount (s : State) (h : Nat) (v : Word) : (s.retireTo h v).freeCount = s.freeCount := rfl

@[simp] theorem State.retire_agenda (s : State) (h : Nat) : (s.retire h).agenda = s.agenda := rfl
@[simp] theorem State.retire_cur (s : State) (h : Nat) : (s.retire h).cur = s.cur := rfl
@[simp] theorem State.retire_mem (s : State) (h : Nat) : (s.retire h).mem = s.mem := rfl
@[simp] theorem State.retire_fe (s : State) (h : Nat) : (s.retire h).fe = s.fe := rfl
@[simp] theorem State.retire_cores (s : State) (h : Nat) : (s.retire h).cores = s.cores := rfl
@[simp] theorem State.retire_clusters (s : State) (h : Nat) : (s.retire h).clusters = s.clusters := rfl
@[simp] theorem State.retire_queues (s : State) (h : Nat) : (s.retire h).queues = s.queues := rfl
@[simp] theorem State.retire_ctxs (s : State) (h : Nat) : (s.retire h).ctxs = s.ctxs := rfl
@[simp] theorem State.retire_dev (s : State) (h : Nat) : (s.retire h).dev = s.dev := rfl
@[simp] theorem State.retire_parked (s : State) (h : Nat) : (s.retire h).parked = s.parked := rfl
@[simp] theorem State.retire_sent (s : State) (h : Nat) : (s.retire h).sent = s.sent := rfl
@[simp] theorem State.retire_freeCount (s : State) (h : Nat) : (s.retire h).freeCount = s.freeCount := rfl

@[simp] theorem State.hold_agenda (s : State) (h : Nat) (w : Wait) : (s.hold h w).agenda = s.agenda := rfl
@[simp] theorem State.hold_cur (s : State) (h : Nat) (w : Wait) : (s.hold h w).cur = s.cur := rfl
@[simp] theorem State.hold_mem (s : State) (h : Nat) (w : Wait) : (s.hold h w).mem = s.mem := rfl
@[simp] theorem State.hold_fe (s : State) (h : Nat) (w : Wait) : (s.hold h w).fe = s.fe := rfl
@[simp] theorem State.hold_cores (s : State) (h : Nat) (w : Wait) : (s.hold h w).cores = s.cores := rfl
@[simp] theorem State.hold_clusters (s : State) (h : Nat) (w : Wait) : (s.hold h w).clusters = s.clusters := rfl
@[simp] theorem State.hold_queues (s : State) (h : Nat) (w : Wait) : (s.hold h w).queues = s.queues := rfl
@[simp] theorem State.hold_ctxs (s : State) (h : Nat) (w : Wait) : (s.hold h w).ctxs = s.ctxs := rfl
@[simp] theorem State.hold_dev (s : State) (h : Nat) (w : Wait) : (s.hold h w).dev = s.dev := rfl
@[simp] theorem State.hold_parked (s : State) (h : Nat) (w : Wait) : (s.hold h w).parked = s.parked := rfl
@[simp] theorem State.hold_sent (s : State) (h : Nat) (w : Wait) : (s.hold h w).sent = s.sent := rfl
@[simp] theorem State.hold_freeCount (s : State) (h : Nat) (w : Wait) : (s.hold h w).freeCount = s.freeCount := rfl

@[simp] theorem State.dropL1_agenda (s : State) (c : Option Nat) (pa n : Nat) : (s.dropL1 c pa n).agenda = s.agenda := rfl
@[simp] theorem State.dropL1_cur (s : State) (c : Option Nat) (pa n : Nat) : (s.dropL1 c pa n).cur = s.cur := rfl
@[simp] theorem State.dropL1_mem (s : State) (c : Option Nat) (pa n : Nat) : (s.dropL1 c pa n).mem = s.mem := rfl
@[simp] theorem State.dropL1_fe (s : State) (c : Option Nat) (pa n : Nat) : (s.dropL1 c pa n).fe = s.fe := rfl
@[simp] theorem State.dropL1_harts (s : State) (c : Option Nat) (pa n : Nat) : (s.dropL1 c pa n).harts = s.harts := rfl
@[simp] theorem State.dropL1_clusters (s : State) (c : Option Nat) (pa n : Nat) : (s.dropL1 c pa n).clusters = s.clusters := rfl
@[simp] theorem State.dropL1_queues (s : State) (c : Option Nat) (pa n : Nat) : (s.dropL1 c pa n).queues = s.queues := rfl
@[simp] theorem State.dropL1_ctxs (s : State) (c : Option Nat) (pa n : Nat) : (s.dropL1 c pa n).ctxs = s.ctxs := rfl
@[simp] theorem State.dropL1_dev (s : State) (c : Option Nat) (pa n : Nat) : (s.dropL1 c pa n).dev = s.dev := rfl
@[simp] theorem State.dropL1_parked (s : State) (c : Option Nat) (pa n : Nat) : (s.dropL1 c pa n).parked = s.parked := rfl
@[simp] theorem State.dropL1_sent (s : State) (c : Option Nat) (pa n : Nat) : (s.dropL1 c pa n).sent = s.sent := rfl
@[simp] theorem State.dropL1_freeCount (s : State) (c : Option Nat) (pa n : Nat) : (s.dropL1 c pa n).freeCount = s.freeCount := rfl

@[simp] theorem State.breakResv_agenda (s : State) (also : Bool) (h pa n : Nat) : (s.breakResv also h pa n).agenda = s.agenda := rfl
@[simp] theorem State.breakResv_cur (s : State) (also : Bool) (h pa n : Nat) : (s.breakResv also h pa n).cur = s.cur := rfl
@[simp] theorem State.breakResv_mem (s : State) (also : Bool) (h pa n : Nat) : (s.breakResv also h pa n).mem = s.mem := rfl
@[simp] theorem State.breakResv_fe (s : State) (also : Bool) (h pa n : Nat) : (s.breakResv also h pa n).fe = s.fe := rfl
@[simp] theorem State.breakResv_cores (s : State) (also : Bool) (h pa n : Nat) : (s.breakResv also h pa n).cores = s.cores := rfl
@[simp] theorem State.breakResv_clusters (s : State) (also : Bool) (h pa n : Nat) : (s.breakResv also h pa n).clusters = s.clusters := rfl
@[simp] theorem State.breakResv_queues (s : State) (also : Bool) (h pa n : Nat) : (s.breakResv also h pa n).queues = s.queues := rfl
@[simp] theorem State.breakResv_ctxs (s : State) (also : Bool) (h pa n : Nat) : (s.breakResv also h pa n).ctxs = s.ctxs := rfl
@[simp] theorem State.breakResv_dev (s : State) (also : Bool) (h pa n : Nat) : (s.breakResv also h pa n).dev = s.dev := rfl
@[simp] theorem State.breakResv_parked (s : State) (also : Bool) (h pa n : Nat) : (s.breakResv also h pa n).parked = s.parked := rfl
@[simp] theorem State.breakResv_sent (s : State) (also : Bool) (h pa n : Nat) : (s.breakResv also h pa n).sent = s.sent := rfl
@[simp] theorem State.breakResv_freeCount (s : State) (also : Bool) (h pa n : Nat) : (s.breakResv also h pa n).freeCount = s.freeCount := rfl

@[simp] theorem State.count_agenda (s : State) (e n : Nat) : (s.count e n).agenda = s.agenda := rfl
@[simp] theorem State.count_cur (s : State) (e n : Nat) : (s.count e n).cur = s.cur := rfl
@[simp] theorem State.count_mem (s : State) (e n : Nat) : (s.count e n).mem = s.mem := rfl
@[simp] theorem State.count_fe (s : State) (e n : Nat) : (s.count e n).fe = s.fe := rfl
@[simp] theorem State.count_harts (s : State) (e n : Nat) : (s.count e n).harts = s.harts := rfl
@[simp] theorem State.count_cores (s : State) (e n : Nat) : (s.count e n).cores = s.cores := rfl
@[simp] theorem State.count_clusters (s : State) (e n : Nat) : (s.count e n).clusters = s.clusters := rfl
@[simp] theorem State.count_queues (s : State) (e n : Nat) : (s.count e n).queues = s.queues := rfl
@[simp] theorem State.count_ctxs (s : State) (e n : Nat) : (s.count e n).ctxs = s.ctxs := rfl
@[simp] theorem State.count_parked (s : State) (e n : Nat) : (s.count e n).parked = s.parked := rfl
@[simp] theorem State.count_sent (s : State) (e n : Nat) : (s.count e n).sent = s.sent := rfl
@[simp] theorem State.count_freeCount (s : State) (e n : Nat) : (s.count e n).freeCount = s.freeCount := rfl

@[simp] theorem State.linkevPost_agenda (s : State) (kind unit : Nat) (up : Bool) : (s.linkevPost kind unit up).agenda = s.agenda := rfl
@[simp] theorem State.linkevPost_cur (s : State) (kind unit : Nat) (up : Bool) : (s.linkevPost kind unit up).cur = s.cur := rfl
@[simp] theorem State.linkevPost_mem (s : State) (kind unit : Nat) (up : Bool) : (s.linkevPost kind unit up).mem = s.mem := rfl
@[simp] theorem State.linkevPost_fe (s : State) (kind unit : Nat) (up : Bool) : (s.linkevPost kind unit up).fe = s.fe := rfl
@[simp] theorem State.linkevPost_harts (s : State) (kind unit : Nat) (up : Bool) : (s.linkevPost kind unit up).harts = s.harts := rfl
@[simp] theorem State.linkevPost_cores (s : State) (kind unit : Nat) (up : Bool) : (s.linkevPost kind unit up).cores = s.cores := rfl
@[simp] theorem State.linkevPost_clusters (s : State) (kind unit : Nat) (up : Bool) : (s.linkevPost kind unit up).clusters = s.clusters := rfl
@[simp] theorem State.linkevPost_queues (s : State) (kind unit : Nat) (up : Bool) : (s.linkevPost kind unit up).queues = s.queues := rfl
@[simp] theorem State.linkevPost_ctxs (s : State) (kind unit : Nat) (up : Bool) : (s.linkevPost kind unit up).ctxs = s.ctxs := rfl
@[simp] theorem State.linkevPost_parked (s : State) (kind unit : Nat) (up : Bool) : (s.linkevPost kind unit up).parked = s.parked := rfl
@[simp] theorem State.linkevPost_sent (s : State) (kind unit : Nat) (up : Bool) : (s.linkevPost kind unit up).sent = s.sent := rfl
@[simp] theorem State.linkevPost_freeCount (s : State) (kind unit : Nat) (up : Bool) : (s.linkevPost kind unit up).freeCount = s.freeCount := rfl

@[simp] theorem State.trapEntry_agenda (s : State) (h : Nat) (intr : Bool) (code : Nat) (tval : Word) : (s.trapEntry h intr code tval).agenda = s.agenda := rfl
@[simp] theorem State.trapEntry_cur (s : State) (h : Nat) (intr : Bool) (code : Nat) (tval : Word) : (s.trapEntry h intr code tval).cur = s.cur := rfl
@[simp] theorem State.trapEntry_mem (s : State) (h : Nat) (intr : Bool) (code : Nat) (tval : Word) : (s.trapEntry h intr code tval).mem = s.mem := rfl
@[simp] theorem State.trapEntry_fe (s : State) (h : Nat) (intr : Bool) (code : Nat) (tval : Word) : (s.trapEntry h intr code tval).fe = s.fe := rfl
@[simp] theorem State.trapEntry_cores (s : State) (h : Nat) (intr : Bool) (code : Nat) (tval : Word) : (s.trapEntry h intr code tval).cores = s.cores := rfl
@[simp] theorem State.trapEntry_clusters (s : State) (h : Nat) (intr : Bool) (code : Nat) (tval : Word) : (s.trapEntry h intr code tval).clusters = s.clusters := rfl
@[simp] theorem State.trapEntry_queues (s : State) (h : Nat) (intr : Bool) (code : Nat) (tval : Word) : (s.trapEntry h intr code tval).queues = s.queues := rfl
@[simp] theorem State.trapEntry_ctxs (s : State) (h : Nat) (intr : Bool) (code : Nat) (tval : Word) : (s.trapEntry h intr code tval).ctxs = s.ctxs := rfl
@[simp] theorem State.trapEntry_dev (s : State) (h : Nat) (intr : Bool) (code : Nat) (tval : Word) : (s.trapEntry h intr code tval).dev = s.dev := rfl
@[simp] theorem State.trapEntry_parked (s : State) (h : Nat) (intr : Bool) (code : Nat) (tval : Word) : (s.trapEntry h intr code tval).parked = s.parked := rfl
@[simp] theorem State.trapEntry_sent (s : State) (h : Nat) (intr : Bool) (code : Nat) (tval : Word) : (s.trapEntry h intr code tval).sent = s.sent := rfl
@[simp] theorem State.trapEntry_freeCount (s : State) (h : Nat) (intr : Bool) (code : Nat) (tval : Word) : (s.trapEntry h intr code tval).freeCount = s.freeCount := rfl

@[simp] theorem State.setX_agenda (s : State) (h n : Nat) (v : Word) : (s.setX h n v).agenda = s.agenda := by
  unfold State.setX; split <;> rfl
@[simp] theorem State.setX_cur (s : State) (h n : Nat) (v : Word) : (s.setX h n v).cur = s.cur := by
  unfold State.setX; split <;> rfl
@[simp] theorem State.setX_mem (s : State) (h n : Nat) (v : Word) : (s.setX h n v).mem = s.mem := by
  unfold State.setX; split <;> rfl
@[simp] theorem State.setX_fe (s : State) (h n : Nat) (v : Word) : (s.setX h n v).fe = s.fe := by
  unfold State.setX; split <;> rfl
@[simp] theorem State.setX_cores (s : State) (h n : Nat) (v : Word) : (s.setX h n v).cores = s.cores := by
  unfold State.setX; split <;> rfl
@[simp] theorem State.setX_clusters (s : State) (h n : Nat) (v : Word) : (s.setX h n v).clusters = s.clusters := by
  unfold State.setX; split <;> rfl
@[simp] theorem State.setX_queues (s : State) (h n : Nat) (v : Word) : (s.setX h n v).queues = s.queues := by
  unfold State.setX; split <;> rfl
@[simp] theorem State.setX_ctxs (s : State) (h n : Nat) (v : Word) : (s.setX h n v).ctxs = s.ctxs := by
  unfold State.setX; split <;> rfl
@[simp] theorem State.setX_dev (s : State) (h n : Nat) (v : Word) : (s.setX h n v).dev = s.dev := by
  unfold State.setX; split <;> rfl
@[simp] theorem State.setX_parked (s : State) (h n : Nat) (v : Word) : (s.setX h n v).parked = s.parked := by
  unfold State.setX; split <;> rfl
@[simp] theorem State.setX_sent (s : State) (h n : Nat) (v : Word) : (s.setX h n v).sent = s.sent := by
  unfold State.setX; split <;> rfl
@[simp] theorem State.setX_freeCount (s : State) (h n : Nat) (v : Word) : (s.setX h n v).freeCount = s.freeCount := by
  unfold State.setX; split <;> rfl

@[simp] theorem State.accrue_agenda (s : State) (h : Nat) (fl : FFlags) : (s.accrue h fl).agenda = s.agenda := by
  unfold State.accrue; split <;> rfl
@[simp] theorem State.accrue_cur (s : State) (h : Nat) (fl : FFlags) : (s.accrue h fl).cur = s.cur := by
  unfold State.accrue; split <;> rfl
@[simp] theorem State.accrue_mem (s : State) (h : Nat) (fl : FFlags) : (s.accrue h fl).mem = s.mem := by
  unfold State.accrue; split <;> rfl
@[simp] theorem State.accrue_fe (s : State) (h : Nat) (fl : FFlags) : (s.accrue h fl).fe = s.fe := by
  unfold State.accrue; split <;> rfl
@[simp] theorem State.accrue_cores (s : State) (h : Nat) (fl : FFlags) : (s.accrue h fl).cores = s.cores := by
  unfold State.accrue; split <;> rfl
@[simp] theorem State.accrue_clusters (s : State) (h : Nat) (fl : FFlags) : (s.accrue h fl).clusters = s.clusters := by
  unfold State.accrue; split <;> rfl
@[simp] theorem State.accrue_queues (s : State) (h : Nat) (fl : FFlags) : (s.accrue h fl).queues = s.queues := by
  unfold State.accrue; split <;> rfl
@[simp] theorem State.accrue_ctxs (s : State) (h : Nat) (fl : FFlags) : (s.accrue h fl).ctxs = s.ctxs := by
  unfold State.accrue; split <;> rfl
@[simp] theorem State.accrue_dev (s : State) (h : Nat) (fl : FFlags) : (s.accrue h fl).dev = s.dev := by
  unfold State.accrue; split <;> rfl
@[simp] theorem State.accrue_parked (s : State) (h : Nat) (fl : FFlags) : (s.accrue h fl).parked = s.parked := by
  unfold State.accrue; split <;> rfl
@[simp] theorem State.accrue_sent (s : State) (h : Nat) (fl : FFlags) : (s.accrue h fl).sent = s.sent := by
  unfold State.accrue; split <;> rfl
@[simp] theorem State.accrue_freeCount (s : State) (h : Nat) (fl : FFlags) : (s.accrue h fl).freeCount = s.freeCount := by
  unfold State.accrue; split <;> rfl

@[simp] theorem State.putX_agenda (s : State) (h : Nat) (rd : BitVec 5) (v : Word) : (s.putX h rd v).agenda = s.agenda := by
  simp [State.putX]
@[simp] theorem State.putX_cur (s : State) (h : Nat) (rd : BitVec 5) (v : Word) : (s.putX h rd v).cur = s.cur := by
  simp [State.putX]
@[simp] theorem State.putX_mem (s : State) (h : Nat) (rd : BitVec 5) (v : Word) : (s.putX h rd v).mem = s.mem := by
  simp [State.putX]
@[simp] theorem State.putX_fe (s : State) (h : Nat) (rd : BitVec 5) (v : Word) : (s.putX h rd v).fe = s.fe := by
  simp [State.putX]
@[simp] theorem State.putX_cores (s : State) (h : Nat) (rd : BitVec 5) (v : Word) : (s.putX h rd v).cores = s.cores := by
  simp [State.putX]
@[simp] theorem State.putX_clusters (s : State) (h : Nat) (rd : BitVec 5) (v : Word) : (s.putX h rd v).clusters = s.clusters := by
  simp [State.putX]
@[simp] theorem State.putX_queues (s : State) (h : Nat) (rd : BitVec 5) (v : Word) : (s.putX h rd v).queues = s.queues := by
  simp [State.putX]
@[simp] theorem State.putX_ctxs (s : State) (h : Nat) (rd : BitVec 5) (v : Word) : (s.putX h rd v).ctxs = s.ctxs := by
  simp [State.putX]
@[simp] theorem State.putX_dev (s : State) (h : Nat) (rd : BitVec 5) (v : Word) : (s.putX h rd v).dev = s.dev := by
  simp [State.putX]
@[simp] theorem State.putX_parked (s : State) (h : Nat) (rd : BitVec 5) (v : Word) : (s.putX h rd v).parked = s.parked := by
  simp [State.putX]
@[simp] theorem State.putX_sent (s : State) (h : Nat) (rd : BitVec 5) (v : Word) : (s.putX h rd v).sent = s.sent := by
  simp [State.putX]
@[simp] theorem State.putX_freeCount (s : State) (h : Nat) (rd : BitVec 5) (v : Word) : (s.putX h rd v).freeCount = s.freeCount := by
  simp [State.putX]

@[simp] theorem State.putF_agenda (s : State) (h : Nat) (rd : BitVec 5) (r : Nat × FFlags) : (s.putF h rd r).agenda = s.agenda := by
  simp [State.putF]
@[simp] theorem State.putF_cur (s : State) (h : Nat) (rd : BitVec 5) (r : Nat × FFlags) : (s.putF h rd r).cur = s.cur := by
  simp [State.putF]
@[simp] theorem State.putF_mem (s : State) (h : Nat) (rd : BitVec 5) (r : Nat × FFlags) : (s.putF h rd r).mem = s.mem := by
  simp [State.putF]
@[simp] theorem State.putF_fe (s : State) (h : Nat) (rd : BitVec 5) (r : Nat × FFlags) : (s.putF h rd r).fe = s.fe := by
  simp [State.putF]
@[simp] theorem State.putF_cores (s : State) (h : Nat) (rd : BitVec 5) (r : Nat × FFlags) : (s.putF h rd r).cores = s.cores := by
  simp [State.putF]
@[simp] theorem State.putF_clusters (s : State) (h : Nat) (rd : BitVec 5) (r : Nat × FFlags) : (s.putF h rd r).clusters = s.clusters := by
  simp [State.putF]
@[simp] theorem State.putF_queues (s : State) (h : Nat) (rd : BitVec 5) (r : Nat × FFlags) : (s.putF h rd r).queues = s.queues := by
  simp [State.putF]
@[simp] theorem State.putF_ctxs (s : State) (h : Nat) (rd : BitVec 5) (r : Nat × FFlags) : (s.putF h rd r).ctxs = s.ctxs := by
  simp [State.putF]
@[simp] theorem State.putF_dev (s : State) (h : Nat) (rd : BitVec 5) (r : Nat × FFlags) : (s.putF h rd r).dev = s.dev := by
  simp [State.putF]
@[simp] theorem State.putF_parked (s : State) (h : Nat) (rd : BitVec 5) (r : Nat × FFlags) : (s.putF h rd r).parked = s.parked := by
  simp [State.putF]
@[simp] theorem State.putF_sent (s : State) (h : Nat) (rd : BitVec 5) (r : Nat × FFlags) : (s.putF h rd r).sent = s.sent := by
  simp [State.putF]
@[simp] theorem State.putF_freeCount (s : State) (h : Nat) (rd : BitVec 5) (r : Nat × FFlags) : (s.putF h rd r).freeCount = s.freeCount := by
  simp [State.putF]

@[simp] theorem State.putXF_agenda (s : State) (h : Nat) (rd : BitVec 5) (v : Word) (fl : FFlags) : (s.putXF h rd v fl).agenda = s.agenda := by
  simp [State.putXF]
@[simp] theorem State.putXF_cur (s : State) (h : Nat) (rd : BitVec 5) (v : Word) (fl : FFlags) : (s.putXF h rd v fl).cur = s.cur := by
  simp [State.putXF]
@[simp] theorem State.putXF_mem (s : State) (h : Nat) (rd : BitVec 5) (v : Word) (fl : FFlags) : (s.putXF h rd v fl).mem = s.mem := by
  simp [State.putXF]
@[simp] theorem State.putXF_fe (s : State) (h : Nat) (rd : BitVec 5) (v : Word) (fl : FFlags) : (s.putXF h rd v fl).fe = s.fe := by
  simp [State.putXF]
@[simp] theorem State.putXF_cores (s : State) (h : Nat) (rd : BitVec 5) (v : Word) (fl : FFlags) : (s.putXF h rd v fl).cores = s.cores := by
  simp [State.putXF]
@[simp] theorem State.putXF_clusters (s : State) (h : Nat) (rd : BitVec 5) (v : Word) (fl : FFlags) : (s.putXF h rd v fl).clusters = s.clusters := by
  simp [State.putXF]
@[simp] theorem State.putXF_queues (s : State) (h : Nat) (rd : BitVec 5) (v : Word) (fl : FFlags) : (s.putXF h rd v fl).queues = s.queues := by
  simp [State.putXF]
@[simp] theorem State.putXF_ctxs (s : State) (h : Nat) (rd : BitVec 5) (v : Word) (fl : FFlags) : (s.putXF h rd v fl).ctxs = s.ctxs := by
  simp [State.putXF]
@[simp] theorem State.putXF_dev (s : State) (h : Nat) (rd : BitVec 5) (v : Word) (fl : FFlags) : (s.putXF h rd v fl).dev = s.dev := by
  simp [State.putXF]
@[simp] theorem State.putXF_parked (s : State) (h : Nat) (rd : BitVec 5) (v : Word) (fl : FFlags) : (s.putXF h rd v fl).parked = s.parked := by
  simp [State.putXF]
@[simp] theorem State.putXF_sent (s : State) (h : Nat) (rd : BitVec 5) (v : Word) (fl : FFlags) : (s.putXF h rd v fl).sent = s.sent := by
  simp [State.putXF]
@[simp] theorem State.putXF_freeCount (s : State) (h : Nat) (rd : BitVec 5) (v : Word) (fl : FFlags) : (s.putXF h rd v fl).freeCount = s.freeCount := by
  simp [State.putXF]

@[simp] theorem State.heal_agenda (s : State) (pa n : Nat) : (s.heal pa n).agenda = s.agenda := by
  unfold State.heal; split <;> rfl
@[simp] theorem State.heal_cur (s : State) (pa n : Nat) : (s.heal pa n).cur = s.cur := by
  unfold State.heal; split <;> rfl
@[simp] theorem State.heal_mem (s : State) (pa n : Nat) : (s.heal pa n).mem = s.mem := by
  unfold State.heal; split <;> rfl
@[simp] theorem State.heal_fe (s : State) (pa n : Nat) : (s.heal pa n).fe = s.fe := by
  unfold State.heal; split <;> rfl
@[simp] theorem State.heal_harts (s : State) (pa n : Nat) : (s.heal pa n).harts = s.harts := by
  unfold State.heal; split <;> rfl
@[simp] theorem State.heal_cores (s : State) (pa n : Nat) : (s.heal pa n).cores = s.cores := by
  unfold State.heal; split <;> rfl
@[simp] theorem State.heal_clusters (s : State) (pa n : Nat) : (s.heal pa n).clusters = s.clusters := by
  unfold State.heal; split <;> rfl
@[simp] theorem State.heal_queues (s : State) (pa n : Nat) : (s.heal pa n).queues = s.queues := by
  unfold State.heal; split <;> rfl
@[simp] theorem State.heal_ctxs (s : State) (pa n : Nat) : (s.heal pa n).ctxs = s.ctxs := by
  unfold State.heal; split <;> rfl
@[simp] theorem State.heal_parked (s : State) (pa n : Nat) : (s.heal pa n).parked = s.parked := by
  unfold State.heal; split <;> rfl
@[simp] theorem State.heal_sent (s : State) (pa n : Nat) : (s.heal pa n).sent = s.sent := by
  unfold State.heal; split <;> rfl
@[simp] theorem State.heal_freeCount (s : State) (pa n : Nat) : (s.heal pa n).freeCount = s.freeCount := by
  unfold State.heal; split <;> rfl
@[simp] theorem State.setBytes_agenda (s : State) (a : Nat) (bs : List Byte) : (s.setBytes a bs).agenda = s.agenda := by
  induction bs generalizing s a with
  | nil => rfl
  | cons b r ih => simp [State.setBytes, ih]
@[simp] theorem State.setBytes_cur (s : State) (a : Nat) (bs : List Byte) : (s.setBytes a bs).cur = s.cur := by
  induction bs generalizing s a with
  | nil => rfl
  | cons b r ih => simp [State.setBytes, ih]
@[simp] theorem State.setBytes_fe (s : State) (a : Nat) (bs : List Byte) : (s.setBytes a bs).fe = s.fe := by
  induction bs generalizing s a with
  | nil => rfl
  | cons b r ih => simp [State.setBytes, ih]
@[simp] theorem State.setBytes_harts (s : State) (a : Nat) (bs : List Byte) : (s.setBytes a bs).harts = s.harts := by
  induction bs generalizing s a with
  | nil => rfl
  | cons b r ih => simp [State.setBytes, ih]
@[simp] theorem State.setBytes_cores (s : State) (a : Nat) (bs : List Byte) : (s.setBytes a bs).cores = s.cores := by
  induction bs generalizing s a with
  | nil => rfl
  | cons b r ih => simp [State.setBytes, ih]
@[simp] theorem State.setBytes_clusters (s : State) (a : Nat) (bs : List Byte) : (s.setBytes a bs).clusters = s.clusters := by
  induction bs generalizing s a with
  | nil => rfl
  | cons b r ih => simp [State.setBytes, ih]
@[simp] theorem State.setBytes_queues (s : State) (a : Nat) (bs : List Byte) : (s.setBytes a bs).queues = s.queues := by
  induction bs generalizing s a with
  | nil => rfl
  | cons b r ih => simp [State.setBytes, ih]
@[simp] theorem State.setBytes_ctxs (s : State) (a : Nat) (bs : List Byte) : (s.setBytes a bs).ctxs = s.ctxs := by
  induction bs generalizing s a with
  | nil => rfl
  | cons b r ih => simp [State.setBytes, ih]
@[simp] theorem State.setBytes_dev (s : State) (a : Nat) (bs : List Byte) : (s.setBytes a bs).dev = s.dev := by
  induction bs generalizing s a with
  | nil => rfl
  | cons b r ih => simp [State.setBytes, ih]
@[simp] theorem State.setBytes_parked (s : State) (a : Nat) (bs : List Byte) : (s.setBytes a bs).parked = s.parked := by
  induction bs generalizing s a with
  | nil => rfl
  | cons b r ih => simp [State.setBytes, ih]
@[simp] theorem State.setBytes_sent (s : State) (a : Nat) (bs : List Byte) : (s.setBytes a bs).sent = s.sent := by
  induction bs generalizing s a with
  | nil => rfl
  | cons b r ih => simp [State.setBytes, ih]
@[simp] theorem State.setBytes_freeCount (s : State) (a : Nat) (bs : List Byte) : (s.setBytes a bs).freeCount = s.freeCount := by
  induction bs generalizing s a with
  | nil => rfl
  | cons b r ih => simp [State.setBytes, ih]
@[simp] theorem State.setLines_agenda (s : State) (l n : Nat) (b : Bool) : (s.setLines l n b).agenda = s.agenda := by
  induction n generalizing s l with
  | zero => rfl
  | succ n ih => simp [State.setLines, ih]
@[simp] theorem State.setLines_cur (s : State) (l n : Nat) (b : Bool) : (s.setLines l n b).cur = s.cur := by
  induction n generalizing s l with
  | zero => rfl
  | succ n ih => simp [State.setLines, ih]
@[simp] theorem State.setLines_mem (s : State) (l n : Nat) (b : Bool) : (s.setLines l n b).mem = s.mem := by
  induction n generalizing s l with
  | zero => rfl
  | succ n ih => simp [State.setLines, ih]
@[simp] theorem State.setLines_harts (s : State) (l n : Nat) (b : Bool) : (s.setLines l n b).harts = s.harts := by
  induction n generalizing s l with
  | zero => rfl
  | succ n ih => simp [State.setLines, ih]
@[simp] theorem State.setLines_cores (s : State) (l n : Nat) (b : Bool) : (s.setLines l n b).cores = s.cores := by
  induction n generalizing s l with
  | zero => rfl
  | succ n ih => simp [State.setLines, ih]
@[simp] theorem State.setLines_clusters (s : State) (l n : Nat) (b : Bool) : (s.setLines l n b).clusters = s.clusters := by
  induction n generalizing s l with
  | zero => rfl
  | succ n ih => simp [State.setLines, ih]
@[simp] theorem State.setLines_queues (s : State) (l n : Nat) (b : Bool) : (s.setLines l n b).queues = s.queues := by
  induction n generalizing s l with
  | zero => rfl
  | succ n ih => simp [State.setLines, ih]
@[simp] theorem State.setLines_ctxs (s : State) (l n : Nat) (b : Bool) : (s.setLines l n b).ctxs = s.ctxs := by
  induction n generalizing s l with
  | zero => rfl
  | succ n ih => simp [State.setLines, ih]
@[simp] theorem State.setLines_dev (s : State) (l n : Nat) (b : Bool) : (s.setLines l n b).dev = s.dev := by
  induction n generalizing s l with
  | zero => rfl
  | succ n ih => simp [State.setLines, ih]
@[simp] theorem State.setLines_parked (s : State) (l n : Nat) (b : Bool) : (s.setLines l n b).parked = s.parked := by
  induction n generalizing s l with
  | zero => rfl
  | succ n ih => simp [State.setLines, ih]
@[simp] theorem State.setLines_sent (s : State) (l n : Nat) (b : Bool) : (s.setLines l n b).sent = s.sent := by
  induction n generalizing s l with
  | zero => rfl
  | succ n ih => simp [State.setLines, ih]
@[simp] theorem State.setLines_freeCount (s : State) (l n : Nat) (b : Bool) : (s.setLines l n b).freeCount = s.freeCount := by
  induction n generalizing s l with
  | zero => rfl
  | succ n ih => simp [State.setLines, ih]
@[simp] theorem State.fill_agenda (s : State) (l : Nat) : (s.fill l).agenda = s.agenda := by
  unfold State.fill; split <;> rfl
@[simp] theorem State.fill_cur (s : State) (l : Nat) : (s.fill l).cur = s.cur := by
  unfold State.fill; split <;> rfl
@[simp] theorem State.fill_mem (s : State) (l : Nat) : (s.fill l).mem = s.mem := by
  unfold State.fill; split <;> rfl
@[simp] theorem State.fill_harts (s : State) (l : Nat) : (s.fill l).harts = s.harts := by
  unfold State.fill; split <;> rfl
@[simp] theorem State.fill_cores (s : State) (l : Nat) : (s.fill l).cores = s.cores := by
  unfold State.fill; split <;> rfl
@[simp] theorem State.fill_clusters (s : State) (l : Nat) : (s.fill l).clusters = s.clusters := by
  unfold State.fill; split <;> rfl
@[simp] theorem State.fill_queues (s : State) (l : Nat) : (s.fill l).queues = s.queues := by
  unfold State.fill; split <;> rfl
@[simp] theorem State.fill_ctxs (s : State) (l : Nat) : (s.fill l).ctxs = s.ctxs := by
  unfold State.fill; split <;> rfl
@[simp] theorem State.fill_parked (s : State) (l : Nat) : (s.fill l).parked = s.parked := by
  unfold State.fill; split <;> rfl
@[simp] theorem State.fill_sent (s : State) (l : Nat) : (s.fill l).sent = s.sent := by
  unfold State.fill; split <;> rfl
@[simp] theorem State.fill_freeCount (s : State) (l : Nat) : (s.fill l).freeCount = s.freeCount := by
  unfold State.fill; split <;> rfl
@[simp] theorem State.writeSlices_agenda (s : State) (pa n : Nat) : (s.writeSlices pa n).agenda = s.agenda := rfl
@[simp] theorem State.writeSlices_cur (s : State) (pa n : Nat) : (s.writeSlices pa n).cur = s.cur := rfl
@[simp] theorem State.writeSlices_mem (s : State) (pa n : Nat) : (s.writeSlices pa n).mem = s.mem := rfl
@[simp] theorem State.writeSlices_fe (s : State) (pa n : Nat) : (s.writeSlices pa n).fe = s.fe := rfl
@[simp] theorem State.writeSlices_harts (s : State) (pa n : Nat) : (s.writeSlices pa n).harts = s.harts := rfl
@[simp] theorem State.writeSlices_clusters (s : State) (pa n : Nat) : (s.writeSlices pa n).clusters = s.clusters := rfl
@[simp] theorem State.writeSlices_queues (s : State) (pa n : Nat) : (s.writeSlices pa n).queues = s.queues := rfl
@[simp] theorem State.writeSlices_ctxs (s : State) (pa n : Nat) : (s.writeSlices pa n).ctxs = s.ctxs := rfl
@[simp] theorem State.writeSlices_dev (s : State) (pa n : Nat) : (s.writeSlices pa n).dev = s.dev := rfl
@[simp] theorem State.writeSlices_parked (s : State) (pa n : Nat) : (s.writeSlices pa n).parked = s.parked := rfl
@[simp] theorem State.writeSlices_sent (s : State) (pa n : Nat) : (s.writeSlices pa n).sent = s.sent := rfl
@[simp] theorem State.writeSlices_freeCount (s : State) (pa n : Nat) : (s.writeSlices pa n).freeCount = s.freeCount := rfl
@[simp] theorem State.perform_agenda (s : State) (also : Bool) (h : Nat) (c : Option Nat) (pa : Nat) (bs : List Byte) :
    (s.perform also h c pa bs).agenda = s.agenda := by simp [State.perform]
@[simp] theorem State.perform_cur (s : State) (also : Bool) (h : Nat) (c : Option Nat) (pa : Nat) (bs : List Byte) :
    (s.perform also h c pa bs).cur = s.cur := by simp [State.perform]
@[simp] theorem State.perform_fe (s : State) (also : Bool) (h : Nat) (c : Option Nat) (pa : Nat) (bs : List Byte) :
    (s.perform also h c pa bs).fe = s.fe := by simp [State.perform]
@[simp] theorem State.perform_clusters (s : State) (also : Bool) (h : Nat) (c : Option Nat) (pa : Nat) (bs : List Byte) :
    (s.perform also h c pa bs).clusters = s.clusters := by simp [State.perform]
@[simp] theorem State.perform_queues (s : State) (also : Bool) (h : Nat) (c : Option Nat) (pa : Nat) (bs : List Byte) :
    (s.perform also h c pa bs).queues = s.queues := by simp [State.perform]
@[simp] theorem State.perform_ctxs (s : State) (also : Bool) (h : Nat) (c : Option Nat) (pa : Nat) (bs : List Byte) :
    (s.perform also h c pa bs).ctxs = s.ctxs := by simp [State.perform]
@[simp] theorem State.perform_parked (s : State) (also : Bool) (h : Nat) (c : Option Nat) (pa : Nat) (bs : List Byte) :
    (s.perform also h c pa bs).parked = s.parked := by simp [State.perform]
@[simp] theorem State.perform_sent (s : State) (also : Bool) (h : Nat) (c : Option Nat) (pa : Nat) (bs : List Byte) :
    (s.perform also h c pa bs).sent = s.sent := by simp [State.perform]
@[simp] theorem State.perform_freeCount (s : State) (also : Bool) (h : Nat) (c : Option Nat) (pa : Nat) (bs : List Byte) :
    (s.perform also h c pa bs).freeCount = s.freeCount := by simp [State.perform]
@[simp] theorem State.perform_mem (s : State) (also : Bool) (h : Nat) (c : Option Nat) (pa : Nat) (bs : List Byte) :
    (s.perform also h c pa bs).mem = (s.setBytes pa bs).mem := by simp [State.perform]

/-! ## Parts -/

@[simp] theorem State.hart_setHart (s : State) (h k : Nat) (v : Hart) :
    (s.setHart h v).hart k = if k = h then v else s.hart k := by
  simp only [State.hart, State.setHart, Tab.find_ins]; split <;> rfl

@[simp] theorem State.hart_onHart (s : State) (h k : Nat) (f : Hart → Hart) :
    (s.onHart h f).hart k = if k = h then f (s.hart h) else s.hart k := by simp [State.onHart]

@[simp] theorem State.core_onCore (s : State) (c k : Nat) (f : Core → Core) :
    (s.onCore c f).core k = if k = c then f (s.core c) else s.core k := by simp [State.onCore, State.core]

@[simp] theorem State.cluster_onCluster (s : State) (c k : Nat) (f : Cluster → Cluster) :
    (s.onCluster c f).cluster k = if k = c then f (s.cluster c) else s.cluster k := by
  simp [State.onCluster, State.cluster]

@[simp] theorem State.queue_onQueue (s : State) (q k : Nat) (f : Queue → Queue) :
    (s.onQueue q f).queue k = if k = q then f (s.queue q) else s.queue k := by simp [State.onQueue, State.queue]

@[simp] theorem State.ctx_onCtx (s : State) (c k : Nat) (f : Context → Context) :
    (s.onCtx c f).ctx k = if k = c then f (s.ctx c) else s.ctx k := by simp [State.onCtx, State.ctx]

@[simp] theorem State.dev_onDev (s : State) (f : Device → Device) : (s.onDev f).dev = f s.dev := rfl

@[simp] theorem State.wire_setWire (s : State) (c w k j : Nat) (v : Wire) :
    (s.setWire c w v).wire k j = if k = c ∧ j = w then v else s.wire k j := by
  by_cases hk : k = c <;> simp [State.setWire, State.wire, hk]

@[simp] theorem State.full_setFull (s : State) (l k : Nat) (b : Bool) :
    (s.setFull l b).full k = if k = l then b else s.full k := by simp [State.setFull, State.full]

/-- A part reads the same in a state with the same table. -/
theorem State.hart_congr {s t : State} (h : t.harts = s.harts) (d : t.dev.powered = s.dev.powered) (k : Nat) :
    t.hart k = s.hart k := by simp [State.hart, h, d]

theorem State.core_congr {s t : State} (h : t.cores = s.cores) (k : Nat) : t.core k = s.core k := by
  simp [State.core, h]

theorem State.cluster_congr {s t : State} (h : t.clusters = s.clusters) (k : Nat) : t.cluster k = s.cluster k := by
  simp [State.cluster, h]

theorem State.queue_congr {s t : State} (h : t.queues = s.queues) (k : Nat) : t.queue k = s.queue k := by
  simp [State.queue, h]

theorem State.ctx_congr {s t : State} (h : t.ctxs = s.ctxs) (k : Nat) : t.ctx k = s.ctx k := by
  simp [State.ctx, h]

theorem State.byte_congr {s t : State} (h : t.mem = s.mem) (a : Nat) : t.byte a = s.byte a := by
  simp [State.byte, h]

/-! ## The registers of a hart -/

theorem State.hart_onVec (s : State) (h k : Nat) (f : Vec → Vec) :
    (s.onVec h f).hart k = if k = h then { s.hart h with vec := f (s.hart h).vec } else s.hart k := by
  simp [State.onVec]

theorem State.hart_retireTo (s : State) (h k : Nat) (v : Word) :
    (s.retireTo h v).hart k =
      if k = h then
        { s.hart h with pc := v, instret := (s.hart h).instret + 1, pos := (s.hart h).pos + 1, wait := .none }
      else s.hart k := by simp [State.retireTo]

theorem State.hart_setX (s : State) (h n k : Nat) (v : Word) :
    (s.setX h n v).hart k =
      if k = h ∧ n ≠ 0 then { s.hart h with x := (s.hart h).x.put 0 n v } else s.hart k := by
  unfold State.setX; split
  · simp_all
  · by_cases hk : k = h <;> simp_all

/-- Reading X after a write of X (R24, R30). -/
@[simp] theorem State.x_setX (s : State) (h n k j : Nat) (v : Word) :
    (s.setX h n v).x k j = if k = h ∧ j = n ∧ n ≠ 0 then v else s.x k j := by
  simp only [State.x, State.hart_setX]
  by_cases hj : j = 0
  · subst hj; simp; intro _ h1 h2; exact absurd h1.symm h2
  · by_cases hk : k = h ∧ n ≠ 0
    · simp [hk, hj]
    · simp only [hk, hj, if_false]
      rw [if_neg (by tauto)]

@[simp] theorem State.x_zero (s : State) (h : Nat) : s.x h 0 = 0 := rfl

/-! ## Memory -/

@[simp] theorem State.byte_setByte (s : State) (a b : Nat) (v : Byte) :
    (s.setByte a v).byte b = if b = a then v else s.byte b := by simp [State.byte, State.setByte]

/-- A byte after storing a list of bytes. -/
theorem State.byte_setBytes (s : State) (a b : Nat) (bs : List Byte) :
    (s.setBytes a bs).byte b = if h : a ≤ b ∧ b - a < bs.length then bs[b - a]'h.2 else s.byte b := by
  induction bs generalizing s a with
  | nil => simp [State.setBytes]
  | cons c r ih =>
    simp only [State.setBytes, ih, State.byte_setByte, List.length_cons]
    by_cases h1 : b = a
    · subst h1; simp
    · by_cases h2 : a + 1 ≤ b
      · have e : b - a = (b - (a + 1)) + 1 := by omega
        by_cases h3 : b - (a + 1) < r.length
        · rw [dif_pos ⟨h2, h3⟩, dif_pos ⟨by omega, by omega⟩]; simp [e]
        · rw [dif_neg (by omega), dif_neg (by omega), if_neg h1]
      · rw [dif_neg (by omega), dif_neg (by omega), if_neg h1]

/-- Bytes outside those stored read as before. -/
theorem State.byte_setBytes_out (s : State) (a b : Nat) (bs : List Byte) (h : b < a ∨ a + bs.length ≤ b) :
    (s.setBytes a bs).byte b = s.byte b := by
  rw [State.byte_setBytes, dif_neg (by omega)]

@[simp] theorem State.length_bytes (s : State) (a n : Nat) : (s.bytes a n).length = n := by
  induction n generalizing a with
  | zero => rfl
  | succ n ih => simp [State.bytes, ih]

theorem State.getElem_bytes (s : State) (a n i : Nat) (h : i < (s.bytes a n).length) :
    (s.bytes a n)[i] = s.byte (a + i) := by
  induction n generalizing a i with
  | zero => simp [State.bytes] at h
  | succ n ih =>
    cases i with
    | zero => rfl
    | succ i => simp only [State.bytes, List.getElem_cons_succ, ih]; congr 1; omega

/-- Bytes read after storing them. -/
theorem State.bytes_setBytes (s : State) (a : Nat) (bs : List Byte) : (s.setBytes a bs).bytes a bs.length = bs := by
  apply List.ext_getElem
  · simp
  · intro i h1 h2
    rw [State.getElem_bytes, State.byte_setBytes, dif_pos ⟨by omega, by omega⟩]
    congr 1; omega

@[simp] theorem length_bytesOf (n v : Nat) : (bytesOf n v).length = n := by
  induction n generalizing v with
  | zero => rfl
  | succ n ih => simp [bytesOf, ih]

/-- A number goes to bytes and back (R2). -/
@[simp] theorem ofBytes_bytesOf (n v : Nat) : ofBytes (bytesOf n v) = v % 2 ^ (8 * n) := by
  induction n generalizing v with
  | zero => simp [bytesOf, ofBytes, Nat.mod_one]
  | succ n ih =>
    simp only [bytesOf, ofBytes, ih, BitVec.toNat_ofNat]
    rw [show 8 * (n + 1) = 8 + 8 * n by ring, pow_add, Nat.mod_mul]; norm_num

/-- A number read after it was stored. -/
theorem State.mem64_setBytes (s : State) (a n v : Nat) : (s.setBytes a (bytesOf n v)).mem64 a n = v % 2 ^ (8 * n) := by
  have h := s.bytes_setBytes a (bytesOf n v)
  rw [length_bytesOf] at h
  rw [State.mem64, h, ofBytes_bytesOf]

@[simp] theorem State.byte_perform (s : State) (also : Bool) (h : Nat) (c : Option Nat) (pa b : Nat) (bs : List Byte) :
    (s.perform also h c pa bs).byte b = (s.setBytes pa bs).byte b := State.byte_congr (by simp) b

/-! ## The canonical form of memory -/

theorem Memory.wf_congr {s t : State} (h : t.mem = s.mem) : Memory.wf t = Memory.wf s := by
  unfold Memory.wf; rw [h]

theorem Memory.wf_reset : Memory.wf State.reset = true := rfl

theorem Memory.wf_setByte {s : State} (a : Nat) (b : Byte) (h : Memory.wf s = true) : Memory.wf (s.setByte a b) = true :=
  Tab.wf_put a b h

theorem Memory.wf_setBytes {s : State} (a : Nat) (bs : List Byte) (h : Memory.wf s = true) :
    Memory.wf (s.setBytes a bs) = true := by
  induction bs generalizing s a with
  | nil => exact h
  | cons b r ih => exact ih _ (Memory.wf_setByte a b h)

theorem Memory.wf_perform {s : State} (also : Bool) (h : Nat) (c : Option Nat) (pa : Nat) (bs : List Byte)
    (w : Memory.wf s = true) : Memory.wf (s.perform also h c pa bs) = true := by
  rw [Memory.wf_congr (State.perform_mem s also h c pa bs)]; exact Memory.wf_setBytes pa bs w

end Sys2Proof.Machine
end

