-- ==== Sys2Proof/Laws/Claims.lean ====
section
/-!
SUPPORT. What the shared operations of the machine give in the terms that claims use: one lemma for each operation.
-/
namespace Sys2Proof.Machine

/-! ## What a change of one hart leaves alone -/

theorem OnlyHart.refl (s : State) (h : Nat) : OnlyHart s s h := ⟨fun _ _ => rfl, fun _ => rfl, rfl⟩

theorem OnlyHart.trans {s t u : State} {h : Nat} (a : OnlyHart s t h) (b : OnlyHart t u h) : OnlyHart s u h := by
  refine ⟨fun k hk => (b.1 k hk).trans (a.1 k hk), fun x => (b.2.1 x).trans (a.2.1 x), ?_⟩
  rw [b.2.2, a.2.2]

theorem onlyHart_onHart (s : State) (h : Nat) (f : Hart → Hart) : OnlyHart s (s.onHart h f) h :=
  ⟨fun k hk => by rw [State.hart_onHart, if_neg hk], fun a => State.byte_congr (by simp) a, rfl⟩

theorem onlyHart_setX (s : State) (h n : Nat) (v : Word) : OnlyHart s (s.setX h n v) h := by
  unfold State.setX; split
  · exact OnlyHart.refl s h
  · exact onlyHart_onHart s h _

theorem onlyHart_retireTo (s : State) (h : Nat) (v : Word) : OnlyHart s (s.retireTo h v) h := onlyHart_onHart s h _

theorem onlyHart_retire (s : State) (h : Nat) : OnlyHart s (s.retire h) h := onlyHart_onHart s h _

theorem onlyHart_hold (s : State) (h : Nat) (w : Wait) : OnlyHart s (s.hold h w) h := onlyHart_onHart s h _

theorem onlyHart_onVec (s : State) (h : Nat) (f : Vec → Vec) : OnlyHart s (s.onVec h f) h := onlyHart_onHart s h _

theorem onlyHart_onStg (s : State) (h : Nat) (f : Staging → Staging) : OnlyHart s (s.onStg h f) h := onlyHart_onHart s h _

theorem onlyHart_setF (s : State) (h n : Nat) (v : Half) : OnlyHart s (s.setF h n v) h := onlyHart_onHart s h _

theorem onlyHart_accrue (s : State) (h : Nat) (fl : FFlags) : OnlyHart s (s.accrue h fl) h := by
  unfold State.accrue; split
  · exact OnlyHart.refl s h
  · exact onlyHart_onHart s h _

/-! ## Retiring -/

theorem State.hart_retireTo_self (s : State) (h : Nat) (v : Word) : (s.retireTo h v).hart h = (s.hart h).retired v := by
  rw [State.hart_retireTo, if_pos rfl]; rfl

theorem State.hart_retire_self (s : State) (h : Nat) : (s.retire h).hart h = (s.hart h).retired ((s.hart h).pc + 4) :=
  State.hart_retireTo_self s h _

theorem State.x_congr {s t : State} {h : Nat} (e : (t.hart h).x = (s.hart h).x) (n : Nat) : t.x h n = s.x h n := by
  simp only [State.x, e]

@[simp] theorem State.x_retireTo (s : State) (h k n : Nat) (v : Word) : (s.retireTo h v).x k n = s.x k n := by
  refine State.x_congr ?_ n; rw [State.hart_retireTo]; split
  · subst_vars; rfl
  · rfl

theorem retires_retire (s : State) : Retires s s.nextPc (s.retire s.cur) :=
  ⟨State.hart_retire_self s s.cur, onlyHart_retire s s.cur⟩

theorem retires_retireTo (s : State) (v : Word) : Retires s v (s.retireTo s.cur v) :=
  ⟨State.hart_retireTo_self s s.cur v, onlyHart_retireTo s s.cur v⟩

theorem xHolds_setX (s : State) (rd : BitVec 5) (v : Word) : XHolds s rd v (s.setX s.cur rd.toNat v) := by
  intro n; rw [State.x_setX]; by_cases h : n = rd.toNat <;> simp [h]

theorem State.hart_setX_self (s : State) (h n : Nat) (v : Word) :
    (s.setX h n v).hart h = { s.hart h with x := ((s.setX h n v).hart h).x } := by
  rw [State.hart_setX]; split <;> rfl

/-- Writing X[rd] and going on to an address. -/
theorem writesX_retireTo (s : State) (rd : BitVec 5) (v pc : Word) :
    WritesX s rd v pc ((s.setX s.cur rd.toNat v).retireTo s.cur pc) := by
  refine ⟨fun n => ?_, ?_, (onlyHart_setX _ _ _ _).trans (onlyHart_retireTo _ _ _)⟩
  · rw [State.x_retireTo]; exact xHolds_setX s rd v n
  · rw [State.hart_retireTo_self, State.hart_setX_self]; rfl

theorem State.pc_setX (s : State) (h k n : Nat) (v : Word) : ((s.setX h n v).hart k).pc = (s.hart k).pc := by
  rw [State.hart_setX]; split
  · simp_all
  · rfl

/-- Writing X[rd] and going on to the next word. -/
theorem writesX_putX (s : State) (rd : BitVec 5) (v : Word) : WritesX s rd v s.nextPc (s.putX s.cur rd v) := by
  unfold State.putX State.retire; rw [State.pc_setX]; exact writesX_retireTo s rd v _

theorem answers_putX {s : State} {i : Instr} {rd : BitVec 5} {v w : Word} (h : exec i s = .next (s.putX s.cur rd v))
    (e : v = w) : Answers i s (WritesX s rd w s.nextPc) := ⟨_, h, e ▸ writesX_putX s rd v⟩

theorem answers_retire {s : State} {i : Instr} (h : exec i s = .next (s.retire s.cur)) :
    Answers i s (Retires s s.nextPc) := ⟨_, h, retires_retire s⟩

/-! ## Floating-point results -/

theorem fsDirty_dirtyFs (c : Csrs) : FsDirty c.mstatus c.dirtyFs.mstatus := by
  unfold Csrs.dirtyFs
  refine ⟨?_, ?_, ?_, fun i h1 h2 h3 => ?_⟩
  · rw [getLsbD_setBit, if_neg (by omega), getLsbD_setFld, if_pos (by omega)]; rfl
  · rw [getLsbD_setBit, if_neg (by omega), getLsbD_setFld, if_pos (by omega)]; rfl
  · rw [getLsbD_setBit, if_pos (by omega)]
  · rw [getLsbD_setBit, if_neg (by omega), getLsbD_setFld, if_neg (by omega)]

theorem FsDirty.trans {a b c : Word} (h : FsDirty a b) (k : FsDirty b c) : FsDirty a c :=
  ⟨k.1, k.2.1, k.2.2.1, fun i h1 h2 h3 => (k.2.2.2 i h1 h2 h3).trans (h.2.2.2 i h1 h2 h3)⟩

theorem State.hart_accrue (s : State) (h : Nat) (fl : FFlags) :
    (s.accrue h fl).hart h = { s.hart h with
      fflags := (s.hart h).fflags ||| fl,
      csr := { (s.hart h).csr with mstatus := ((s.accrue h fl).hart h).csr.mstatus } } ∧
    (if fl = 0 then ((s.accrue h fl).hart h).csr.mstatus = (s.hart h).csr.mstatus
      else FsDirty (s.hart h).csr.mstatus ((s.accrue h fl).hart h).csr.mstatus) := by
  unfold State.accrue
  by_cases e : fl = 0
  · subst e; simp
  · rw [if_neg e, if_neg e]
    simp only [State.hart_onHart, if_true]
    exact ⟨rfl, fsDirty_dirtyFs _⟩

/-- Writing F[rd] with its flags and going on to the next word (R61). -/
theorem writesF_putF (s : State) (rd : BitVec 5) (r : Nat × FFlags) :
    WritesF s rd (BitVec.ofNat 32 r.1) r.2 s.nextPc (s.putF s.cur rd r) := by
  have hf : (s.setF s.cur rd.toNat (BitVec.ofNat 32 r.1)).hart s.cur =
      { s.hart s.cur with f := (s.hart s.cur).f.put 0 rd.toNat (BitVec.ofNat 32 r.1), csr := (s.hart s.cur).csr.dirtyFs } := by
    unfold State.setF; rw [State.hart_onHart, if_pos rfl]
  obtain ⟨ha, hm⟩ := State.hart_accrue (s.setF s.cur rd.toNat (BitVec.ofNat 32 r.1)) s.cur r.2
  have hx : (s.putF s.cur rd r).hart s.cur =
      (((s.setF s.cur rd.toNat (BitVec.ofNat 32 r.1)).accrue s.cur r.2).hart s.cur).retired s.nextPc := by
    unfold State.putF; rw [State.hart_retire_self, ha, hf]; rfl
  refine ⟨fun n => ?_, ?_, ?_, ?_⟩
  · simp only [State.f, hx]
    rw [ha, hf]
    show (Tab.put 0 (s.hart s.cur).f rd.toNat _).get 0 n = _
    rw [Tab.get_put]
  · rw [hx]
    show FsDirty _ (((s.setF s.cur rd.toNat (BitVec.ofNat 32 r.1)).accrue s.cur r.2).hart s.cur).csr.mstatus
    have h0 : FsDirty (s.hart s.cur).csr.mstatus ((s.setF s.cur rd.toNat (BitVec.ofNat 32 r.1)).hart s.cur).csr.mstatus := by
      rw [hf]; exact fsDirty_dirtyFs _
    by_cases e : r.2 = 0
    · rw [if_pos e] at hm; rw [hm]; exact h0
    · rw [if_neg e] at hm; exact h0.trans hm
  · rw [hx, ha, hf]; rfl
  · exact ((onlyHart_setF _ _ _ _).trans (onlyHart_accrue _ _ _)).trans (onlyHart_retire _ _)

/-- Writing X[rd] with flags and going on to the next word (R61). -/
theorem writesXF_putXF (s : State) (rd : BitVec 5) (v : Word) (fl : FFlags) :
    WritesXF s rd v fl s.nextPc (s.putXF s.cur rd v fl) := by
  have hf := State.hart_setX_self s s.cur rd.toNat v
  obtain ⟨ha, hm⟩ := State.hart_accrue (s.setX s.cur rd.toNat v) s.cur fl
  have hx : (s.putXF s.cur rd v fl).hart s.cur = (((s.setX s.cur rd.toNat v).accrue s.cur fl).hart s.cur).retired s.nextPc := by
    unfold State.putXF; rw [State.hart_retire_self, ha, hf]; rfl
  refine ⟨fun n => ?_, ?_, ?_, ?_⟩
  · rw [← xHolds_setX s rd v n]
    refine State.x_congr ?_ n
    rw [hx, ha]; rfl
  · rw [hx]
    rw [show ((s.setX s.cur rd.toNat v).hart s.cur).csr = (s.hart s.cur).csr by rw [hf]] at hm
    exact hm
  · rw [hx, ha, hf]; rfl
  · exact ((onlyHart_setX _ _ _ _).trans (onlyHart_accrue _ _ _)).trans (onlyHart_retire _ _)

theorem writesXF_putX (s : State) (rd : BitVec 5) (v : Word) : WritesXF s rd v 0 s.nextPc (s.putX s.cur rd v) :=
  writesXF_putXF s rd v 0

/-! ## Traps -/

theorem causeWord_eq (intr : Bool) (code : Nat) (h : code < 64) :
    causeWord intr code = BitVec.ofNat 64 code ||| (if intr then 1#64 <<< 63 else 0) := by
  apply BitVec.eq_of_getLsbD_eq; intro i hi
  simp only [causeWord, getLsbD_setBit, word, BitVec.getLsbD_or]
  by_cases h63 : i = 63
  · subst h63
    have : (BitVec.ofNat 64 code).getLsbD 63 = false := by
      rw [BitVec.getLsbD_ofNat, Nat.testBit_lt_two_pow (by omega)]; rfl
    rw [this]; cases intr <;> rfl
  · cases intr
    · simp [h63]
    · simp only [h63, false_and, if_false, if_true, BitVec.getLsbD_shiftLeft]
      have : i < 63 := by omega
      simp [this]

theorem handlerAt_handlerPc (tvec : Word) (intr : Bool) (code : Nat) :
    HandlerAt tvec intr code (handlerPc tvec intr code) := by
  have hb : setFld tvec 0 2 0 = tvec &&& ~~~3#64 := by simp [setFld]
  have hf : decide (fld tvec 0 2 = 1) = (tvec.getLsbD 0 && !tvec.getLsbD 1) := by
    have e0 := testBit_fld tvec 0 2 0
    have e1 := testBit_fld tvec 0 2 1
    have hl : fld tvec 0 2 < 4 := Nat.mod_lt _ (by decide)
    simp only [Nat.zero_add, show decide (0 < 2) = true from rfl, show decide (1 < 2) = true from rfl,
      Bool.true_and] at e0 e1
    rw [← e0, ← e1]
    generalize fld tvec 0 2 = n at hl
    interval_cases n <;> rfl
  unfold HandlerAt handlerPc
  simp only [hb, hf, word]
  cases intr <;> cases tvec.getLsbD 0 <;> cases tvec.getLsbD 1 <;> simp

theorem pushedS_trap (st : Word) (b : Bool) :
    PushedS st (setBit (setBit (setBit st 5 (bit st 1)) 1 false) 8 b) b := by
  refine ⟨?_, ?_, ?_, fun i h1 h5 h8 => ?_⟩
  · rw [getLsbD_setBit, if_pos (by omega)]
  · rw [getLsbD_setBit, if_neg (by omega), getLsbD_setBit, if_neg (by omega), getLsbD_setBit, if_pos (by omega)]; rfl
  · rw [getLsbD_setBit, if_neg (by omega), getLsbD_setBit, if_pos (by omega)]
  · rw [getLsbD_setBit, if_neg (by omega), getLsbD_setBit, if_neg (by omega), getLsbD_setBit, if_neg (by omega)]

theorem pushedM_trap (st : Word) (md : Mode) :
    PushedM st (setFld (setBit (setBit st 7 (bit st 3)) 3 false) 11 2 md.code) md := by
  refine ⟨?_, ?_, ?_, fun i h3 h7 h11 h12 => ?_⟩
  · rw [fld_setFld _ _ _ _ (by decide)]; cases md <;> rfl
  · rw [getLsbD_setFld, if_neg (by omega), getLsbD_setBit, if_neg (by omega), getLsbD_setBit, if_pos (by omega)]; rfl
  · rw [getLsbD_setFld, if_neg (by omega), getLsbD_setBit, if_pos (by omega)]
  · rw [getLsbD_setFld, if_neg (by omega), getLsbD_setBit, if_neg (by omega), getLsbD_setBit, if_neg (by omega)]

/-- What a trap or an upcall keeps of itself (R101). -/
theorem Vec.leave_eq (v : Vec) (f : Frame) : v.leave f = { v with frames := (if v.resume = [] then [] else [f]) ++ v.frames } := by
  unfold Vec.leave; split
  · rename_i h; rw [if_pos (List.isEmpty_iff.mp h)]; rfl
  · rename_i h; rw [if_neg (fun e => h (List.isEmpty_iff.mpr e))]; rfl

/-- Taking an exception or an interrupt (R65, R308). -/
theorem trapTaken_trapEntry (u : State) (h : Nat) (intr : Bool) (code : Nat) (tval : Word) (hc : code < 64) :
    TrapTaken u h intr code tval (u.trapEntry h intr code tval) := by
  have ht : (decide ((u.hart h).mode ≠ .m) && (if intr then (u.hart h).csr.mideleg else (u.hart h).csr.medeleg).getLsbD code) =
      (u.hart h).csr.toS (u.hart h).mode intr code := rfl
  have hh : (u.trapEntry h intr code tval).hart h =
      { (u.hart h).trap intr code tval with
        vec := (u.hart h).vec.leave
          { kind := if (u.hart h).csr.toS (u.hart h).mode intr code then 1 else 2, mode := (u.hart h).mode, pc := (u.hart h).pc } } := by
    unfold State.trapEntry; rw [State.hart_onHart, if_pos rfl]
  unfold TrapTaken
  refine ⟨onlyHart_onHart u h _, ?_, ?_⟩
  · rw [hh, ht, Vec.leave_eq]; unfold Hart.trap; dsimp only; split <;> rfl
  · dsimp only
    rw [hh, ← causeWord_eq intr code hc, ht]
    cases hd : (u.hart h).csr.toS (u.hart h).mode intr code
    · simp only [Hart.trap, hd, Bool.false_eq_true, if_false]
      exact ⟨trivial, trivial, pushedM_trap _ _, handlerAt_handlerPc _ _ _⟩
    · simp only [Hart.trap, hd, if_true]
      exact ⟨trivial, trivial, pushedS_trap _ _, handlerAt_handlerPc _ _ _⟩

/-- An exception of the current hart. -/
theorem raises_raise (s : State) (code : Nat) (tval : Word) (hc : code < 64) :
    Raises s code tval (s.raise s.cur code tval) := trapTaken_trapEntry _ _ _ _ _ hc

theorem raisesIllegal_illegal (s : State) (w : BitVec 32) : RaisesIllegal s w (s.illegal s.cur w) :=
  raises_raise s 2 _ (by decide)

/-- An instruction that is legal only under a test. -/
theorem legal_true {s : State} {w : BitVec 32} {ok : Bool} {k : State} (h : ok = true) : s.legal w ok k = .next k := by
  simp [State.legal, h]

theorem legal_false {s : State} {w : BitVec 32} {ok : Bool} {k : State} (h : ok = false) :
    s.legal w ok k = .next (s.illegal s.cur w) := by simp [State.legal, h]

theorem answers_illegal {s : State} {i : Instr} {w : BitVec 32} {ok : Bool} {k : State} (e : exec i s = s.legal w ok k)
    (h : ok = false) : Answers i s (RaisesIllegal s w) := ⟨_, e.trans (legal_false h), raisesIllegal_illegal s w⟩

/-! ## A vector side with nothing queued -/

theorem State.hart_same (s : State) (h : Nat) (f : Hart → Hart) (e : f (s.hart h) = s.hart h) (k : Nat) :
    (s.onHart h f).hart k = s.hart k := by
  rw [State.hart_onHart]; split
  · subst_vars; exact e
  · rfl

/-- With nothing begun there is nothing to complete. -/
theorem State.completeBegun_none (s : State) (h n : Nat) (e : (s.hart h).vec.begun = 0) : s.completeBegun h n = s := by
  cases n <;> simp [State.completeBegun, e]

theorem State.stopVector_empty (s : State) (h lim : Nat) (e : (s.hart h).vec.queue = []) :
    (s.stopVector h lim).hart h = s.hart h ∧ OnlyHart s (s.stopVector h lim) h := by
  have hs : s.settle h = s := by
    have hb : (s.hart h).vec.begun = 0 := by simp [Vec.begun, e]
    simp [State.settle, State.completeBegun_none s h _ hb, e, State.landAll]
  have hr : s.runOlder h lim (s.hart h).vec.work = s := by simp [Vec.work, e, State.runOlder]
  unfold State.stopVector
  simp only [hs, hr]
  have : (if (!(s.hart h).vec.resume.isEmpty) = true then s else s) = s := by split <;> rfl
  rw [this]
  refine ⟨State.hart_same _ _ _ ?_ _, onlyHart_onVec _ _ _⟩
  show ({ s.hart h with vec := _ } : Hart) = s.hart h
  have : (if (!(s.hart h).vec.resume.isEmpty) = true then (s.hart h).vec.resume
      else (s.hart h).vec.queue.map VEntry.record) = (s.hart h).vec.resume := by
    rw [e]; split
    · rfl
    · simp_all
  simp only [this, e.symm]

end Sys2Proof.Machine
end

