-- ==== Sys2Proof/Laws/Memory.lean ====
section
/-!
SUPPORT. Loads and stores in the terms that claims use: the register value that bytes stand for, a store that performs.
-/
namespace Sys2Proof.Machine

theorem getLsbD_ofBytes (bs : List Byte) (i : Nat) :
    (ofBytes bs).testBit i = if h : i / 8 < bs.length then (bs[i / 8]).getLsbD (i % 8) else false := by
  induction bs generalizing i with
  | nil => simp [ofBytes]
  | cons b r ih =>
    have hb := b.isLt
    rw [show ofBytes (b :: r) = 2 ^ 8 * ofBytes r + b.toNat by simp [ofBytes]; omega]
    by_cases h : i < 8
    · rw [Nat.testBit_two_pow_mul_add _ hb, if_pos h, dif_pos (by simp; omega)]
      have : i / 8 = 0 := by omega
      simp only [this, List.getElem_cons_zero, show i % 8 = i by omega]; rfl
    · rw [Nat.testBit_two_pow_mul_add _ hb, if_neg h, ih]
      have e : i / 8 = (i - 8) / 8 + 1 := by omega
      have e2 : i % 8 = (i - 8) % 8 := by omega
      simp only [e, e2, List.length_cons, Nat.add_lt_add_iff_right, List.getElem_cons_succ]

theorem ofBytes_lt (bs : List Byte) : ofBytes bs < 2 ^ (8 * bs.length) := by
  induction bs with
  | nil => simp [ofBytes]
  | cons b r ih =>
    have hb := b.isLt
    simp only [ofBytes, List.length_cons, Nat.mul_add, pow_add]
    omega

theorem toInt_eq_bmod (n v : Nat) : toInt n v = Int.bmod v (2 ^ n) := by
  simp only [toInt, Int.bmod]
  have : ((v : Int) % ((2 ^ n : Nat) : Int)) = ((v % 2 ^ n : Nat) : Int) := by simp
  rw [this]
  split <;> split <;> omega

/-- The low n bits of a number, sign-extended. -/
theorem sx_eq (n v : Nat) (h : n ≤ 64) : sx n v = (BitVec.ofNat n v).signExtend 64 := by
  apply BitVec.eq_of_toInt_eq
  rw [BitVec.toInt_signExtend_of_le h, sx, toInt_eq_bmod, BitVec.toInt_ofInt, ← BitVec.ofInt_natCast, BitVec.toInt_ofInt]
  apply Int.bmod_eq_of_le
  · have h1 := Int.le_bmod (x := (v : Int)) (m := 2 ^ n) (by positivity)
    have : (2 ^ n : Nat) ≤ 2 ^ 64 := Nat.pow_le_pow_right (by decide) h
    generalize (v : Int).bmod (2 ^ n) = z at *
    generalize (2 : Nat) ^ n = m at *
    omega
  · have h1 := Int.bmod_lt (x := (v : Int)) (m := 2 ^ n) (by positivity)
    have : (2 ^ n : Nat) ≤ 2 ^ 64 := Nat.pow_le_pow_right (by decide) h
    generalize (v : Int).bmod (2 ^ n) = z at *
    generalize (2 : Nat) ^ n = m at *
    omega

/-- A load's register value (Table 3-1). -/
theorem extends_loadWord (bs : List Byte) (b : Nat → Byte) (signed : Bool) (h0 : 0 < bs.length) (h8 : bs.length ≤ 8)
    (hb : ∀ i (h : i < bs.length), bs[i] = b i) : Extends bs.length signed b (loadWord bs.length signed (ofBytes bs)) := by
  intro i hi
  unfold loadWord
  have key : ∀ j, j < 8 * bs.length → (ofBytes bs).testBit j = (b (j / 8)).getLsbD (j % 8) := by
    intro j hj
    rw [getLsbD_ofBytes, dif_pos (by omega), hb]
  cases signed
  · simp only [Bool.false_eq_true, if_false, word, Bool.false_and]
    rw [Nat.mod_eq_of_lt (ofBytes_lt bs), BitVec.getLsbD_ofNat]
    split
    · rw [key i ‹_›]; simp [hi]
    · rw [getLsbD_ofBytes, dif_neg (by omega)]; simp
  · simp only [if_true, Bool.true_and]
    rw [sx_eq _ _ (by omega), BitVec.getLsbD_signExtend]
    split
    · rw [BitVec.getLsbD_ofNat, key i ‹_›]; simp [hi, ‹i < 8 * bs.length›]
    · rw [BitVec.msb_eq_getLsbD_last, BitVec.getLsbD_ofNat, key _ (by omega)]
      have e1 : (8 * bs.length - 1) / 8 = bs.length - 1 := by omega
      have e2 : (8 * bs.length - 1) % 8 = 7 := by omega
      rw [e1, e2]; simp [hi]; intro; omega

/-- A byte under the hart's own stores is the youngest one's, else memory's (R121). -/
theorem overlayByte_eq_seen (s : State) (h a : Nat) :
    (s.hart h).overlayByte s (s.hart h).pos a = s.seen h a := by
  unfold Hart.overlayByte State.seen
  generalize (s.hart h).stores = l
  induction l using List.reverseRecOn with
  | nil => rfl
  | append_singleton l x ih =>
    rw [List.foldl_append, List.filter_append]
    simp only [List.foldl_cons, List.foldl_nil]
    by_cases hx : x.pos < (s.hart h).pos ∧ x.pa ≤ a ∧ a < x.pa + x.width
    · rw [if_pos hx]
      simp only [List.filter_cons, hx, decide_true, Bool.and_self, if_true, List.filter_nil, List.getLast?_append,
        List.getLast?_singleton, Option.some_or]
      apply BitVec.eq_of_toNat_eq
      simp [Nat.shiftRight_eq_div_pow]
    · rw [if_neg hx, ih]
      have : (decide (x.pos < (s.hart h).pos) && decide (x.pa ≤ a) && decide (a < x.pa + x.width)) = false := by
        rw [Bool.eq_false_iff]; simp; intro h1 h2; exact Nat.le_of_not_lt fun h3 => hx ⟨h1, h2, h3⟩
      simp only [List.filter_cons, this, Bool.false_eq_true, if_false, List.filter_nil, List.append_nil]

/-- What n bytes under the hart's own stores give in a register. -/
theorem extends_overlay (s : State) (h a n : Nat) (signed : Bool) (h0 : 0 < n) (h8 : n ≤ 8) :
    Extends n signed (fun j => s.seen h (a + j)) (loadWord n signed (s.overlay h (s.hart h).pos a n)) := by
  have := extends_loadWord ((List.range n).map (fun i => s.seen h (a + i))) (fun j => s.seen h (a + j)) signed
    (by simpa) (by simpa) (by simp)
  simp only [List.length_map, List.length_range] at this
  unfold State.overlay
  simpa only [overlayByte_eq_seen] using this

theorem extends_mem64 (s : State) (a n : Nat) (h0 : 0 < n) (h8 : n ≤ 8) :
    Extends n true (fun j => s.byte (a + j)) (sx (8 * n) (s.mem64 a n)) := by
  have := extends_loadWord (s.bytes a n) (fun j => s.byte (a + j)) true (by simpa) (by simpa)
    (fun i hi => State.getElem_bytes s a n i hi)
  simp only [State.length_bytes, loadWord, if_true] at this
  exact this

/-! ## A store that performs -/

theorem shareGranule_iff (a pa n : Nat) : shareGranule (a / 32 * 32) 32 pa n = true ↔ TouchesGranule a pa n := by
  simp only [shareGranule, Bool.and_eq_true, decide_eq_true_eq, TouchesGranule]
  constructor
  · rintro ⟨⟨⟨_, hn⟩, h1⟩, h2⟩
    refine ⟨max pa (a / 32 * 32) - pa, ?_, ?_⟩ <;> omega
  · rintro ⟨i, hi, h1⟩; omega

theorem shareGranule_line (l pa n : Nat) (hl : l % 32 = 0) :
    shareGranule l 32 pa n = true ↔ TouchesGranule l pa n := by
  rw [← shareGranule_iff l pa n, show l / 32 * 32 = l by omega]

/-- A table whose values are changed in place reads the changed value. -/
theorem Tab.find_map {α : Type} (t : Tab α) (k : Nat) (g : Nat × α → Nat × α) (hg : ∀ p, (g p).1 = p.1) :
    Tab.find (t.map g) k = (Tab.find t k).map (fun v => (g (k, v)).2) := by
  induction t with
  | nil => rfl
  | cons p r ih =>
    obtain ⟨j, v⟩ := p
    have hj := hg (j, v)
    rw [List.map_cons, show g (j, v) = (j, (g (j, v)).2) from Prod.ext hj rfl]
    simp only [Tab.find]
    split
    · subst_vars; rfl
    · exact ih

theorem State.hart_breakResv (s : State) (also : Bool) (h pa n k : Nat) :
    (s.breakResv also h pa n).hart k =
      { s.hart k with resv := match (s.hart k).resv with
          | none => none
          | some (a, w) => if (also || k != h) && shareGranule (a / 32 * 32) 32 pa n then none else some (a, w) } := by
  unfold State.breakResv State.hart
  dsimp only
  rw [Tab.find_map]
  · cases Tab.find s.harts k with
    | none => rfl
    | some t =>
      simp only [Option.map_some, Option.getD_some]
      cases hr : t.resv with
      | none => simp only [← hr]
      | some q =>
        obtain ⟨a, w⟩ := q
        dsimp only
        split
        · rfl
        · rw [← hr]
  · intro p; split <;> [rfl; (split <;> rfl)]

theorem State.core_dropL1 (s : State) (c : Option Nat) (pa n k : Nat) :
    (s.dropL1 c pa n).core k = if some k = c then s.core k else (s.core k).noL1 (fun l => shareGranule l 32 pa n) := by
  unfold State.dropL1 State.core
  rw [Tab.get_eq_find, Tab.get_eq_find]
  dsimp only
  rw [Tab.find_map]
  · cases Tab.find s.cores k with
    | none => split <;> rfl
    | some t => simp only [Option.map_some, Option.getD_some]; split <;> rfl
  · intro p; split <;> rfl

theorem State.core_writeSlices (s : State) (pa n k : Nat) :
    (s.writeSlices pa n).core k = { s.core k with slice := (s.core k).slice.map (fun x => x.written pa n) } := by
  unfold State.writeSlices State.core
  rw [Tab.get_eq_find, Tab.get_eq_find]
  dsimp only
  rw [Tab.find_map]
  · cases Tab.find s.cores k <;> rfl
  · intro p; rfl

/-- The sectors of a line that a write touches. -/
theorem SliceLine.getLsbD_touched (x : SliceLine) (pa n i : Nat) (hi : i < 8) :
    (x.touched pa n).getLsbD i = shareGranule (x.addr + 32 * i) 32 pa n := by
  have key : ∀ m, m ≤ 8 → ∀ j, j < 8 → ((List.range m).foldl (fun (b : BitVec 8) i =>
      if shareGranule (x.addr + 32 * i) 32 pa n then setBit b i true else b) 0).getLsbD j =
      (decide (j < m) && shareGranule (x.addr + 32 * j) 32 pa n) := by
    intro m
    induction m with
    | zero => intro _ j _; simp
    | succ m ih =>
      intro hm j hj
      rw [List.range_succ, List.foldl_append, List.foldl_cons, List.foldl_nil]
      have := ih (by omega) j hj
      by_cases hs : shareGranule (x.addr + 32 * m) 32 pa n = true
      · rw [if_pos hs, getLsbD_setBit, this]
        by_cases e : j = m
        · subst e; simp [hs, hj]
        · rw [if_neg (by tauto)]; congr 1; simp only [decide_eq_decide]; omega
      · rw [if_neg hs, this]
        by_cases e : j = m
        · subst e; simp [hs]
        · congr 1; simp only [decide_eq_decide]; omega
  unfold SliceLine.touched
  rw [key 8 (by omega) i hi]; simp [hi]

/-- A slice line after a write (R122). -/
theorem sliceWritten_written (x : SliceLine) (pa n : Nat) : SliceWritten x (x.written pa n) pa n := by
  refine ⟨rfl, fun i hi => ?_⟩
  simp [SliceLine.written, SliceLine.getLsbD_touched x pa n i hi]

theorem State.poison_heal (s : State) (pa n : Nat) :
    (s.heal pa n).dev = { s.dev with poison := (s.heal pa n).dev.poison } ∧
      ∀ p, p ∈ (s.heal pa n).dev.poison ↔ p ∈ s.dev.poison ∧ ¬(pa ≤ p.1 ∧ p.1 + p.2 ≤ pa + n) := by
  unfold State.heal
  split
  · rename_i h
    have : s.dev.poison = [] := by simpa using h
    exact ⟨rfl, fun p => by simp [this]⟩
  · refine ⟨rfl, fun p => ?_⟩
    simp only [State.dev_onDev, List.mem_filter]
    simp only [Bool.not_eq_true', Bool.and_eq_false_iff, decide_eq_false_iff_not]
    tauto

theorem State.dev_perform (s : State) (own : Bool) (h : Nat) (c : Option Nat) (pa : Nat) (bs : List Byte) :
    (s.perform own h c pa bs).dev = (s.heal pa bs.length).dev := by
  have : ((s.setBytes pa bs).heal pa bs.length).dev = (s.heal pa bs.length).dev := by
    unfold State.heal; simp only [State.setBytes_dev]; split
    · simp
    · simp [State.onDev]
  simpa [State.perform] using this

/-- A store that performs at its home (R57, R121). -/
theorem performed_perform (s : State) (own : Bool) (h : Nat) (c : Option Nat) (pa : Nat) (bs : List Byte) :
    Performed s own h c pa bs (s.perform own h c pa bs) := by
  have hd := State.dev_perform s own h c pa bs
  have hp := State.poison_heal s pa bs.length
  have hh : ∀ k, ((((s.setBytes pa bs).heal pa bs.length).dropL1 c pa bs.length).writeSlices pa bs.length).hart k = s.hart k :=
    fun k => State.hart_congr (by simp) (by
      have : ((((s.setBytes pa bs).heal pa bs.length).dropL1 c pa bs.length).writeSlices pa bs.length).dev =
        (s.perform own h c pa bs).dev := rfl
      rw [this, hd, hp.1]) k
  have hc : ∀ k, ((s.setBytes pa bs).heal pa bs.length).core k = s.core k := fun k => State.core_congr (by simp) k
  have hk : ∀ k, (s.perform own h c pa bs).hart k = _ := fun k =>
    (State.hart_breakResv ((((s.setBytes pa bs).heal pa bs.length).dropL1 c pa bs.length).writeSlices pa bs.length) own h pa
      bs.length k)
  have hl : ∀ k, (s.perform own h c pa bs).core k =
      (if some k = c then { s.core k with slice := (s.core k).slice.map (fun x => x.written pa bs.length) }
        else { (s.core k).noL1 (fun l => shareGranule l 32 pa bs.length) with
          slice := (s.core k).slice.map (fun x => x.written pa bs.length) }) := fun k => by
    refine (State.core_congr
      (s := (((s.setBytes pa bs).heal pa bs.length).dropL1 c pa bs.length).writeSlices pa bs.length)
      (t := s.perform own h c pa bs) rfl k).trans ?_
    rw [State.core_writeSlices, State.core_dropL1, hc]; split <;> rfl
  refine ⟨fun i hi => ?_, fun b hb => ?_, fun k => ⟨?_, fun a n => ?_⟩, fun k => ⟨?_, fun l hl32 => ?_, ?_⟩, fun p => ?_, ?_⟩
  · rw [State.byte_perform, State.byte_setBytes, dif_pos ⟨by omega, by omega⟩]; simp
  · rw [State.byte_perform, State.byte_setBytes_out _ _ _ _ hb]
  · rw [hk, hh]
  · rw [hk, hh]
    cases hr : (s.hart k).resv with
    | none => simp
    | some q =>
      obtain ⟨a', n'⟩ := q
      have ht := shareGranule_iff a' pa bs.length
      simp only [Option.some.injEq, Prod.mk.injEq]
      by_cases hx : ((own || k != h) && shareGranule (a' / 32 * 32) 32 pa bs.length) = true
      · rw [if_pos hx]
        simp only [Bool.and_eq_true, Bool.or_eq_true, bne_iff_ne, ne_eq, ht] at hx
        simp only [reduceCtorEq, false_iff]
        rintro ⟨⟨rfl, rfl⟩, h2⟩; exact h2 hx
      · rw [if_neg hx]
        simp only [Bool.and_eq_true, Bool.or_eq_true, bne_iff_ne, ne_eq, ht] at hx
        simp only [Option.some.injEq, Prod.mk.injEq]
        constructor
        · rintro ⟨rfl, rfl⟩; exact ⟨⟨rfl, rfl⟩, hx⟩
        · exact fun h => h.1
  · rw [hl]; split <;> rfl
  · rw [hl]
    have ht := shareGranule_line l pa bs.length hl32
    by_cases hk : some k = c
    · simp [hk]
    · simp only [hk, if_false, Core.noL1, List.mem_filter, Bool.not_eq_true', Bool.eq_false_iff, ne_eq, ht, not_false_eq_true,
        true_imp_iff]
  · have : ((s.perform own h c pa bs).core k).slice = (s.core k).slice.map (fun x => x.written pa bs.length) := by
      rw [hl]; split <;> rfl
    rw [this, List.forall₂_map_right_iff]
    exact List.forall₂_same.2 (fun x _ => sliceWritten_written x pa bs.length)
  · rw [hd]; exact hp.2 p
  · have e := hp.1
    rw [← hd] at e
    have : ∀ t : State, t.agenda = s.agenda → t.cur = s.cur → t.fe = s.fe → t.clusters = s.clusters → t.queues = s.queues →
        t.ctxs = s.ctxs → t.parked = s.parked → t.sent = s.sent → t.freeCount = s.freeCount →
        t.dev = { s.dev with poison := t.dev.poison } →
        t = { s with mem := t.mem, harts := t.harts, cores := t.cores, dev := { s.dev with poison := t.dev.poison } } := by
      intro t h1 h2 h3 h4 h5 h6 h7 h8 h9 h10; rw [← h10, ← h1, ← h2, ← h3, ← h4, ← h5, ← h6, ← h7, ← h8, ← h9]
    exact this _ (by simp) (by simp) (by simp) (by simp) (by simp) (by simp) (by simp) (by simp) (by simp) e

/-! ## A and D (R131) -/

theorem State.hart_perform (s : State) (own : Bool) (h : Nat) (c : Option Nat) (pa k : Nat) (bs : List Byte) :
    (s.perform own h c pa bs).hart k = { s.hart k with resv := ((s.perform own h c pa bs).hart k).resv } := by
  have hd := State.dev_perform s own h c pa bs
  have hh : ((((s.setBytes pa bs).heal pa bs.length).dropL1 c pa bs.length).writeSlices pa bs.length).hart k = s.hart k :=
    State.hart_congr (by simp) (by
      have : ((((s.setBytes pa bs).heal pa bs.length).dropL1 c pa bs.length).writeSlices pa bs.length).dev =
        (s.perform own h c pa bs).dev := rfl
      rw [this, hd, (State.poison_heal s pa bs.length).1]) k
  unfold State.perform
  rw [State.hart_breakResv, hh]

theorem State.x_perform (s : State) (own : Bool) (h : Nat) (c : Option Nat) (pa k n : Nat) (bs : List Byte) :
    (s.perform own h c pa bs).x k n = s.x k n := State.x_congr (by rw [State.hart_perform]) n

/-- Only the cores may have changed. -/
def OnlyCores (s t : State) : Prop := { t with cores := s.cores } = s

theorem OnlyCores.refl (s : State) : OnlyCores s s := rfl

theorem OnlyCores.trans {s t u : State} (a : OnlyCores s t) (b : OnlyCores t u) : OnlyCores s u := by
  unfold OnlyCores at *; rw [← a, ← b]

theorem OnlyCores.mem {s t : State} (h : OnlyCores s t) : t.mem = s.mem := by rw [← h]

theorem OnlyCores.cur {s t : State} (h : OnlyCores s t) : t.cur = s.cur := by rw [← h]

theorem OnlyCores.hart {s t : State} (h : OnlyCores s t) (k : Nat) : t.hart k = s.hart k := by rw [← h]; rfl

/-- What an access's translation leaves behind beside A and D changes nothing but cores. -/
theorem State.setAD_eq (s : State) (x : Hit) : ∃ u, OnlyCores s u ∧ s.setAD x = u.writeAD x := by
  unfold State.setAD
  refine ⟨_, ?_, rfl⟩
  split <;> split <;> split <;> rfl

/-- Writing A and D is a store that performs at the entry, and changes cores beside. -/
theorem State.writeAD_eq (s : State) (x : Hit) :
    s.writeAD x = s ∨ ∃ p bs, bs.length = 8 ∧ (∃ o n, x.ad = some (p, o, n)) ∧
      OnlyCores (s.perform true mgmtBase none p bs) (s.writeAD x) := by
  unfold State.writeAD
  split
  · exact .inl rfl
  · rename_i p o n e
    exact .inr ⟨p, _, length_bytesOf 8 _, ⟨o, n, e⟩, rfl⟩

@[simp] theorem State.setAD_cur (s : State) (x : Hit) : (s.setAD x).cur = s.cur := by
  obtain ⟨u, hu, e⟩ := s.setAD_eq x
  rw [e]
  obtain h | ⟨p, bs, -, -, h⟩ := u.writeAD_eq x
  · rw [h, hu.cur]
  · rw [h.cur, State.perform_cur, hu.cur]

/-- Setting A and D changes a hart in nothing but its reservation. -/
theorem State.hart_setAD (s : State) (x : Hit) (k : Nat) :
    (s.setAD x).hart k = { s.hart k with resv := ((s.setAD x).hart k).resv } := by
  obtain ⟨u, hu, e⟩ := s.setAD_eq x
  rw [e, ← hu.hart k]
  obtain h | ⟨p, bs, -, -, h⟩ := u.writeAD_eq x
  · rw [h]
  · rw [h.hart]; exact State.hart_perform u true mgmtBase none p k bs

theorem State.x_setAD (s : State) (x : Hit) (k n : Nat) : (s.setAD x).x k n = s.x k n :=
  State.x_congr (by rw [State.hart_setAD]) n

theorem State.pc_setAD (s : State) (x : Hit) (k : Nat) : ((s.setAD x).hart k).pc = (s.hart k).pc := by
  rw [State.hart_setAD]

/-- Setting A and D changes no byte outside the entry's eight. -/
theorem State.byte_setAD (s : State) (x : Hit) (a : Nat) (h : ∀ p o n, x.ad = some (p, o, n) → a < p ∨ p + 8 ≤ a) :
    (s.setAD x).byte a = s.byte a := by
  obtain ⟨u, hu, e⟩ := s.setAD_eq x
  rw [e, ← State.byte_congr hu.mem a]
  obtain hw | ⟨p, bs, hb, ⟨o, n, ha⟩, hw⟩ := u.writeAD_eq x
  · rw [hw]
  · refine (State.byte_congr hw.mem a).trans ((State.byte_perform u true mgmtBase none p a bs).trans
      (State.byte_setBytes_out _ _ _ _ ?_))
    rw [hb]; exact h p o n ha

theorem Memory.wf_setAD {s : State} (x : Hit) (w : Memory.wf s = true) : Memory.wf (s.setAD x) = true := by
  obtain ⟨u, hu, e⟩ := s.setAD_eq x
  rw [e]
  have wu : Memory.wf u = true := by rw [Memory.wf_congr hu.mem]; exact w
  obtain hw | ⟨p, bs, -, -, hw⟩ := u.writeAD_eq x
  · rw [hw]; exact wu
  · rw [Memory.wf_congr hw.mem]; exact Memory.wf_perform true mgmtBase none _ _ wu

/-! ## Reading a line -/

theorem onlyCores_dropSlice (s : State) (c : Nat) (gone : SliceLine → Bool) : OnlyCores s (s.dropSlice c gone) := by
  unfold State.dropSlice; dsimp only; split <;> rfl

/-- A read at a home slice changes nothing but cores. -/
theorem onlyCores_sliceRead (s : State) (code pa : Nat) (alloc : Bool) : OnlyCores s (s.sliceRead code pa alloc) := by
  unfold State.sliceRead; dsimp only
  split
  · rfl
  · split
    · rfl
    · split
      · rfl
      · split
        · exact (onlyCores_dropSlice s _ _).trans rfl
        · rfl

theorem onlyCores_l1Touch (s : State) (h pa : Nat) : OnlyCores s (s.l1Touch h pa) := by
  unfold State.l1Touch; split <;> rfl

theorem onlyCores_bringLine (s : State) (h code pa : Nat) (l1 : Bool) : OnlyCores s (s.bringLine h code pa l1) := by
  unfold State.bringLine; dsimp only
  have := onlyCores_sliceRead s code pa true
  split
  · exact this.trans rfl
  · exact this

/-- Reading a line changes nothing but cores and the stream detector of the hart that reads. -/
theorem State.readLine_only (s : State) (h code pa : Nat) (nt : Bool) :
    ∃ d, OnlyCores (s.onHart h (fun t => { t with detector := d })) (s.readLine h code pa nt) ∨
      OnlyCores s (s.readLine h code pa nt) := by
  unfold State.readLine; dsimp only
  split
  · exact ⟨[], .inr rfl⟩
  · split
    · exact ⟨[], .inr (onlyCores_sliceRead _ _ _ _)⟩
    · split
      · exact ⟨[], .inr (onlyCores_l1Touch _ _ _)⟩
      · split
        · exact ⟨_, .inl (onlyCores_sliceRead _ _ _ _)⟩
        · exact ⟨_, .inl (onlyCores_bringLine _ _ _ _ _)⟩

theorem State.readLine_mem (s : State) (h code pa : Nat) (nt : Bool) : (s.readLine h code pa nt).mem = s.mem := by
  obtain ⟨d, o | o⟩ := s.readLine_only h code pa nt
  · rw [o.mem]; rfl
  · exact o.mem

theorem State.readLine_cur (s : State) (h code pa : Nat) (nt : Bool) : (s.readLine h code pa nt).cur = s.cur := by
  obtain ⟨d, o | o⟩ := s.readLine_only h code pa nt
  · rw [o.cur]; rfl
  · exact o.cur

/-- Reading a line changes a hart in nothing but the stream detector of the hart that reads. -/
theorem State.hart_readLine (s : State) (h code pa k : Nat) (nt : Bool) :
    (s.readLine h code pa nt).hart k = { s.hart k with detector := ((s.readLine h code pa nt).hart k).detector } := by
  obtain ⟨d, o | o⟩ := s.readLine_only h code pa nt
  · rw [o.hart, State.hart_onHart]; split
    · subst_vars; rfl
    · rfl
  · rw [o.hart]

/-! ## A line on the way of a store -/

/-- A store's way to its home changes nothing but cores and the stream detector of the hart that stores. -/
theorem State.writeLine_only (s : State) (h code pa : Nat) (nt : Bool) :
    ∃ d, OnlyCores (s.onHart h (fun t => { t with detector := d })) (s.writeLine h code pa nt) ∨
      OnlyCores s (s.writeLine h code pa nt) := by
  unfold State.writeLine; dsimp only
  split
  · exact ⟨[], .inr rfl⟩
  · split
    · exact ⟨[], .inr (onlyCores_sliceRead _ _ _ _)⟩
    · split
      · exact ⟨[], .inr (onlyCores_l1Touch _ _ _)⟩
      · exact ⟨_, .inl (onlyCores_sliceRead _ _ _ _)⟩

theorem State.writeLine_mem (s : State) (h code pa : Nat) (nt : Bool) : (s.writeLine h code pa nt).mem = s.mem := by
  obtain ⟨d, o | o⟩ := s.writeLine_only h code pa nt
  · rw [o.mem]; rfl
  · exact o.mem

theorem State.writeHomed_mem (s : State) (h : Nat) (code : Option Nat) (pa : Nat) :
    (s.writeHomed h code pa).mem = s.mem := by
  unfold State.writeHomed; split
  · exact State.writeLine_mem _ _ _ _ _
  · rfl

end Sys2Proof.Machine
end

