-- ==== Sys2Proof/Laws/Parts.lean ====
section
/-!
SUPPORT. Cutting a bit field out of a concatenation of fields, and putting the parts of an operand together again: what
the round trip of the encoder and the decoder needs, at the widths the formats of Table 2-2 have.
-/
namespace Sys2Proof.Laws

@[simp] theorem part_6_1_0_1 (x : BitVec 6) (y : BitVec 1) :
    BitVec.extractLsb' (n := 7) 0 1 (x ++ y) = y := by
  apply BitVec.eq_of_getLsbD_eq; intro i hi
  simp only [BitVec.getLsbD_extractLsb', BitVec.getLsbD_append]
  interval_cases i
  all_goals simp

@[simp] theorem part_6_1_1_6 (x : BitVec 6) (y : BitVec 1) :
    BitVec.extractLsb' (n := 7) 1 6 (x ++ y) = x := by
  apply BitVec.eq_of_getLsbD_eq; intro i hi
  simp only [BitVec.getLsbD_extractLsb', BitVec.getLsbD_append]
  interval_cases i
  all_goals simp

@[simp] theorem part_2_3_3_2 (x : BitVec 2) (y : BitVec 3) :
    BitVec.extractLsb' (n := 5) 3 2 (x ++ y) = x := by
  apply BitVec.eq_of_getLsbD_eq; intro i hi
  simp only [BitVec.getLsbD_extractLsb', BitVec.getLsbD_append]
  interval_cases i
  all_goals simp

@[simp] theorem part_2_3_0_3 (x : BitVec 2) (y : BitVec 3) :
    BitVec.extractLsb' (n := 5) 0 3 (x ++ y) = y := by
  apply BitVec.eq_of_getLsbD_eq; intro i hi
  simp only [BitVec.getLsbD_extractLsb', BitVec.getLsbD_append]
  interval_cases i
  all_goals simp

@[simp] theorem part_3_2_0_2 (x : BitVec 3) (y : BitVec 2) :
    BitVec.extractLsb' (n := 5) 0 2 (x ++ y) = y := by
  apply BitVec.eq_of_getLsbD_eq; intro i hi
  simp only [BitVec.getLsbD_extractLsb', BitVec.getLsbD_append]
  interval_cases i
  all_goals simp

@[simp] theorem part_3_2_2_3 (x : BitVec 3) (y : BitVec 2) :
    BitVec.extractLsb' (n := 5) 2 3 (x ++ y) = x := by
  apply BitVec.eq_of_getLsbD_eq; intro i hi
  simp only [BitVec.getLsbD_extractLsb', BitVec.getLsbD_append]
  interval_cases i
  all_goals simp

@[simp] theorem part_5_1_1_0_1 (x : BitVec 5) (y : BitVec 1) (z : BitVec 1) :
    BitVec.extractLsb' (n := 7) 0 1 (x ++ y ++ z) = z := by
  apply BitVec.eq_of_getLsbD_eq; intro i hi
  simp only [BitVec.getLsbD_extractLsb', BitVec.getLsbD_append]
  interval_cases i
  all_goals simp

@[simp] theorem part_5_1_1_1_6 (x : BitVec 5) (y : BitVec 1) (z : BitVec 1) :
    BitVec.extractLsb' (n := 7) 1 6 (x ++ y ++ z) = x ++ y := by
  apply BitVec.eq_of_getLsbD_eq; intro i hi
  simp only [BitVec.getLsbD_extractLsb', BitVec.getLsbD_append]
  interval_cases i
  all_goals simp

@[simp] theorem part_5_1_1_2_5 (x : BitVec 5) (y : BitVec 1) (z : BitVec 1) :
    BitVec.extractLsb' (n := 7) 2 5 (x ++ y ++ z) = x := by
  apply BitVec.eq_of_getLsbD_eq; intro i hi
  simp only [BitVec.getLsbD_extractLsb', BitVec.getLsbD_append]
  interval_cases i
  all_goals simp

@[simp] theorem part_5_1_1_1_1 (x : BitVec 5) (y : BitVec 1) (z : BitVec 1) :
    BitVec.extractLsb' (n := 7) 1 1 (x ++ y ++ z) = y := by
  apply BitVec.eq_of_getLsbD_eq; intro i hi
  simp only [BitVec.getLsbD_extractLsb', BitVec.getLsbD_append]
  interval_cases i
  all_goals simp

@[simp] theorem part_5_1_1_0_2 (x : BitVec 5) (y : BitVec 1) (z : BitVec 1) :
    BitVec.extractLsb' (n := 7) 0 2 (x ++ y ++ z) = y ++ z := by
  apply BitVec.eq_of_getLsbD_eq; intro i hi
  simp only [BitVec.getLsbD_extractLsb', BitVec.getLsbD_append]
  interval_cases i
  all_goals simp

@[simp] theorem part_4_1_0_1 (x : BitVec 4) (y : BitVec 1) :
    BitVec.extractLsb' (n := 5) 0 1 (x ++ y) = y := by
  apply BitVec.eq_of_getLsbD_eq; intro i hi
  simp only [BitVec.getLsbD_extractLsb', BitVec.getLsbD_append]
  interval_cases i
  all_goals simp

@[simp] theorem part_4_1_1_4 (x : BitVec 4) (y : BitVec 1) :
    BitVec.extractLsb' (n := 5) 1 4 (x ++ y) = x := by
  apply BitVec.eq_of_getLsbD_eq; intro i hi
  simp only [BitVec.getLsbD_extractLsb', BitVec.getLsbD_append]
  interval_cases i
  all_goals simp

@[simp] theorem part_4_3_0_3 (x : BitVec 4) (y : BitVec 3) :
    BitVec.extractLsb' (n := 7) 0 3 (x ++ y) = y := by
  apply BitVec.eq_of_getLsbD_eq; intro i hi
  simp only [BitVec.getLsbD_extractLsb', BitVec.getLsbD_append]
  interval_cases i
  all_goals simp

@[simp] theorem part_4_3_3_4 (x : BitVec 4) (y : BitVec 3) :
    BitVec.extractLsb' (n := 7) 3 4 (x ++ y) = x := by
  apply BitVec.eq_of_getLsbD_eq; intro i hi
  simp only [BitVec.getLsbD_extractLsb', BitVec.getLsbD_append]
  interval_cases i
  all_goals simp

@[simp] theorem part_1_6_6_1 (x : BitVec 1) (y : BitVec 6) :
    BitVec.extractLsb' (n := 7) 6 1 (x ++ y) = x := by
  apply BitVec.eq_of_getLsbD_eq; intro i hi
  simp only [BitVec.getLsbD_extractLsb', BitVec.getLsbD_append]
  interval_cases i
  all_goals simp

@[simp] theorem part_1_6_0_6 (x : BitVec 1) (y : BitVec 6) :
    BitVec.extractLsb' (n := 7) 0 6 (x ++ y) = y := by
  apply BitVec.eq_of_getLsbD_eq; intro i hi
  simp only [BitVec.getLsbD_extractLsb', BitVec.getLsbD_append]
  interval_cases i
  all_goals simp

@[simp] theorem part_5_2_2_5 (x : BitVec 5) (y : BitVec 2) :
    BitVec.extractLsb' (n := 7) 2 5 (x ++ y) = x := by
  apply BitVec.eq_of_getLsbD_eq; intro i hi
  simp only [BitVec.getLsbD_extractLsb', BitVec.getLsbD_append]
  interval_cases i
  all_goals simp

@[simp] theorem part_5_2_0_2 (x : BitVec 5) (y : BitVec 2) :
    BitVec.extractLsb' (n := 7) 0 2 (x ++ y) = y := by
  apply BitVec.eq_of_getLsbD_eq; intro i hi
  simp only [BitVec.getLsbD_extractLsb', BitVec.getLsbD_append]
  interval_cases i
  all_goals simp

@[simp] theorem part_1_2_4_6_1 (x : BitVec 1) (y : BitVec 2) (z : BitVec 4) :
    BitVec.extractLsb' (n := 7) 6 1 (x ++ y ++ z) = x := by
  apply BitVec.eq_of_getLsbD_eq; intro i hi
  simp only [BitVec.getLsbD_extractLsb', BitVec.getLsbD_append]
  interval_cases i
  all_goals simp

@[simp] theorem part_1_2_4_0_6 (x : BitVec 1) (y : BitVec 2) (z : BitVec 4) :
    BitVec.extractLsb' (n := 7) 0 6 (x ++ y ++ z) = y ++ z := by
  apply BitVec.eq_of_getLsbD_eq; intro i hi
  simp only [BitVec.getLsbD_extractLsb', BitVec.getLsbD_append]
  interval_cases i
  all_goals simp

@[simp] theorem part_1_2_4_0_4 (x : BitVec 1) (y : BitVec 2) (z : BitVec 4) :
    BitVec.extractLsb' (n := 7) 0 4 (x ++ y ++ z) = z := by
  apply BitVec.eq_of_getLsbD_eq; intro i hi
  simp only [BitVec.getLsbD_extractLsb', BitVec.getLsbD_append]
  interval_cases i
  all_goals simp

@[simp] theorem part_1_2_4_4_2 (x : BitVec 1) (y : BitVec 2) (z : BitVec 4) :
    BitVec.extractLsb' (n := 7) 4 2 (x ++ y ++ z) = y := by
  apply BitVec.eq_of_getLsbD_eq; intro i hi
  simp only [BitVec.getLsbD_extractLsb', BitVec.getLsbD_append]
  interval_cases i
  all_goals simp

@[simp] theorem part_1_4_0_4 (x : BitVec 1) (y : BitVec 4) :
    BitVec.extractLsb' (n := 5) 0 4 (x ++ y) = y := by
  apply BitVec.eq_of_getLsbD_eq; intro i hi
  simp only [BitVec.getLsbD_extractLsb', BitVec.getLsbD_append]
  interval_cases i
  all_goals simp

@[simp] theorem part_1_4_4_1 (x : BitVec 1) (y : BitVec 4) :
    BitVec.extractLsb' (n := 5) 4 1 (x ++ y) = x := by
  apply BitVec.eq_of_getLsbD_eq; intro i hi
  simp only [BitVec.getLsbD_extractLsb', BitVec.getLsbD_append]
  interval_cases i
  all_goals simp

@[simp] theorem part_1_3_1_0_1 (x : BitVec 1) (y : BitVec 3) (z : BitVec 1) :
    BitVec.extractLsb' (n := 5) 0 1 (x ++ y ++ z) = z := by
  apply BitVec.eq_of_getLsbD_eq; intro i hi
  simp only [BitVec.getLsbD_extractLsb', BitVec.getLsbD_append]
  interval_cases i
  all_goals simp

@[simp] theorem part_1_3_1_1_4 (x : BitVec 1) (y : BitVec 3) (z : BitVec 1) :
    BitVec.extractLsb' (n := 5) 1 4 (x ++ y ++ z) = x ++ y := by
  apply BitVec.eq_of_getLsbD_eq; intro i hi
  simp only [BitVec.getLsbD_extractLsb', BitVec.getLsbD_append]
  interval_cases i
  all_goals simp

@[simp] theorem part_1_3_1_0_4 (x : BitVec 1) (y : BitVec 3) (z : BitVec 1) :
    BitVec.extractLsb' (n := 5) 0 4 (x ++ y ++ z) = y ++ z := by
  apply BitVec.eq_of_getLsbD_eq; intro i hi
  simp only [BitVec.getLsbD_extractLsb', BitVec.getLsbD_append]
  interval_cases i
  all_goals simp

@[simp] theorem part_1_3_1_4_1 (x : BitVec 1) (y : BitVec 3) (z : BitVec 1) :
    BitVec.extractLsb' (n := 5) 4 1 (x ++ y ++ z) = x := by
  apply BitVec.eq_of_getLsbD_eq; intro i hi
  simp only [BitVec.getLsbD_extractLsb', BitVec.getLsbD_append]
  interval_cases i
  all_goals simp

@[simp] theorem part_1_3_1_1_3 (x : BitVec 1) (y : BitVec 3) (z : BitVec 1) :
    BitVec.extractLsb' (n := 5) 1 3 (x ++ y ++ z) = y := by
  apply BitVec.eq_of_getLsbD_eq; intro i hi
  simp only [BitVec.getLsbD_extractLsb', BitVec.getLsbD_append]
  interval_cases i
  all_goals simp

@[simp] theorem part_2_1_2_3_2 (x : BitVec 2) (y : BitVec 1) (z : BitVec 2) :
    BitVec.extractLsb' (n := 5) 3 2 (x ++ y ++ z) = x := by
  apply BitVec.eq_of_getLsbD_eq; intro i hi
  simp only [BitVec.getLsbD_extractLsb', BitVec.getLsbD_append]
  interval_cases i
  all_goals simp

@[simp] theorem part_2_1_2_0_2 (x : BitVec 2) (y : BitVec 1) (z : BitVec 2) :
    BitVec.extractLsb' (n := 5) 0 2 (x ++ y ++ z) = z := by
  apply BitVec.eq_of_getLsbD_eq; intro i hi
  simp only [BitVec.getLsbD_extractLsb', BitVec.getLsbD_append]
  interval_cases i
  all_goals simp

@[simp] theorem part_2_1_2_0_3 (x : BitVec 2) (y : BitVec 1) (z : BitVec 2) :
    BitVec.extractLsb' (n := 5) 0 3 (x ++ y ++ z) = y ++ z := by
  apply BitVec.eq_of_getLsbD_eq; intro i hi
  simp only [BitVec.getLsbD_extractLsb', BitVec.getLsbD_append]
  interval_cases i
  all_goals simp

@[simp] theorem part_2_1_2_2_3 (x : BitVec 2) (y : BitVec 1) (z : BitVec 2) :
    BitVec.extractLsb' (n := 5) 2 3 (x ++ y ++ z) = x ++ y := by
  apply BitVec.eq_of_getLsbD_eq; intro i hi
  simp only [BitVec.getLsbD_extractLsb', BitVec.getLsbD_append]
  interval_cases i
  all_goals simp

@[simp] theorem part_2_1_2_2_1 (x : BitVec 2) (y : BitVec 1) (z : BitVec 2) :
    BitVec.extractLsb' (n := 5) 2 1 (x ++ y ++ z) = y := by
  apply BitVec.eq_of_getLsbD_eq; intro i hi
  simp only [BitVec.getLsbD_extractLsb', BitVec.getLsbD_append]
  interval_cases i
  all_goals simp

@[simp] theorem eq_6_1 (x : BitVec 6) (y : BitVec 1) (c : BitVec 7) :
    ((x ++ y : BitVec 7) = c) = (x = c.extractLsb' 1 6 ∧ y = c.extractLsb' 0 1) := by
  apply propext
  constructor
  · rintro rfl; simp
  · rintro ⟨rfl, rfl⟩
    apply BitVec.eq_of_getLsbD_eq; intro i hi
    simp only [BitVec.getLsbD_extractLsb', BitVec.getLsbD_append]
    interval_cases i
    all_goals simp

@[simp] theorem eq_1_2_4 (x : BitVec 1) (y : BitVec 2) (z : BitVec 4) (c : BitVec 7) :
    ((x ++ y ++ z : BitVec 7) = c) = (x = c.extractLsb' 6 1 ∧ y = c.extractLsb' 4 2 ∧ z = c.extractLsb' 0 4) := by
  apply propext
  constructor
  · rintro rfl; simp
  · rintro ⟨rfl, rfl, rfl⟩
    apply BitVec.eq_of_getLsbD_eq; intro i hi
    simp only [BitVec.getLsbD_extractLsb', BitVec.getLsbD_append]
    interval_cases i
    all_goals simp

@[simp] theorem eq_4_3 (x : BitVec 4) (y : BitVec 3) (c : BitVec 7) :
    ((x ++ y : BitVec 7) = c) = (x = c.extractLsb' 3 4 ∧ y = c.extractLsb' 0 3) := by
  apply propext
  constructor
  · rintro rfl; simp
  · rintro ⟨rfl, rfl⟩
    apply BitVec.eq_of_getLsbD_eq; intro i hi
    simp only [BitVec.getLsbD_extractLsb', BitVec.getLsbD_append]
    interval_cases i
    all_goals simp

@[simp] theorem eq_5_1_1 (x : BitVec 5) (y : BitVec 1) (z : BitVec 1) (c : BitVec 7) :
    ((x ++ y ++ z : BitVec 7) = c) = (x = c.extractLsb' 2 5 ∧ y = c.extractLsb' 1 1 ∧ z = c.extractLsb' 0 1) := by
  apply propext
  constructor
  · rintro rfl; simp
  · rintro ⟨rfl, rfl, rfl⟩
    apply BitVec.eq_of_getLsbD_eq; intro i hi
    simp only [BitVec.getLsbD_extractLsb', BitVec.getLsbD_append]
    interval_cases i
    all_goals simp

@[simp] theorem eq_5_2 (x : BitVec 5) (y : BitVec 2) (c : BitVec 7) :
    ((x ++ y : BitVec 7) = c) = (x = c.extractLsb' 2 5 ∧ y = c.extractLsb' 0 2) := by
  apply propext
  constructor
  · rintro rfl; simp
  · rintro ⟨rfl, rfl⟩
    apply BitVec.eq_of_getLsbD_eq; intro i hi
    simp only [BitVec.getLsbD_extractLsb', BitVec.getLsbD_append]
    interval_cases i
    all_goals simp

@[simp] theorem join_upper (x : BitVec 20) :
    x.extractLsb' 13 7 ++ x.extractLsb' 8 5 ++ x.extractLsb' 3 5 ++ x.extractLsb' 0 3 = x := by
  apply BitVec.eq_of_getLsbD_eq; intro i hi
  simp only [BitVec.getLsbD_extractLsb', BitVec.getLsbD_append]
  interval_cases i
  all_goals simp

@[simp] theorem join_i12 (x : BitVec 12) :
    x.extractLsb' 5 7 ++ x.extractLsb' 0 5 = x := by
  apply BitVec.eq_of_getLsbD_eq; intro i hi
  simp only [BitVec.getLsbD_extractLsb', BitVec.getLsbD_append]
  interval_cases i
  all_goals simp

@[simp] theorem join_sh6 (x : BitVec 6) :
    x.extractLsb' 5 1 ++ x.extractLsb' 0 5 = x := by
  apply BitVec.eq_of_getLsbD_eq; intro i hi
  simp only [BitVec.getLsbD_extractLsb', BitVec.getLsbD_append]
  interval_cases i
  all_goals simp

@[simp] theorem join_jal (x : BitVec 20) :
    x.extractLsb' 19 1 ++ x.extractLsb' 14 5 ++ x.extractLsb' 11 3 ++ x.extractLsb' 10 1 ++ x.extractLsb' 4 6 ++ x.extractLsb' 0 4 = x := by
  apply BitVec.eq_of_getLsbD_eq; intro i hi
  simp only [BitVec.getLsbD_extractLsb', BitVec.getLsbD_append]
  interval_cases i
  all_goals simp

@[simp] theorem join_br (x : BitVec 12) :
    x.extractLsb' 11 1 ++ x.extractLsb' 10 1 ++ x.extractLsb' 4 6 ++ x.extractLsb' 0 4 = x := by
  apply BitVec.eq_of_getLsbD_eq; intro i hi
  simp only [BitVec.getLsbD_extractLsb', BitVec.getLsbD_append]
  interval_cases i
  all_goals simp

@[simp] theorem join_four (x : BitVec 4) :
    x.extractLsb' 1 3 ++ x.extractLsb' 0 1 = x := by
  apply BitVec.eq_of_getLsbD_eq; intro i hi
  simp only [BitVec.getLsbD_extractLsb', BitVec.getLsbD_append]
  interval_cases i
  all_goals simp

@[simp] theorem join_three (x : BitVec 3) :
    x.extractLsb' 1 2 ++ x.extractLsb' 0 1 = x := by
  apply BitVec.eq_of_getLsbD_eq; intro i hi
  simp only [BitVec.getLsbD_extractLsb', BitVec.getLsbD_append]
  interval_cases i
  all_goals simp

@[simp] theorem join_three2 (x : BitVec 3) :
    x.extractLsb' 2 1 ++ x.extractLsb' 0 2 = x := by
  apply BitVec.eq_of_getLsbD_eq; intro i hi
  simp only [BitVec.getLsbD_extractLsb', BitVec.getLsbD_append]
  interval_cases i
  all_goals simp

@[simp] theorem join_five (x : BitVec 5) :
    x.extractLsb' 3 2 ++ x.extractLsb' 0 3 = x := by
  apply BitVec.eq_of_getLsbD_eq; intro i hi
  simp only [BitVec.getLsbD_extractLsb', BitVec.getLsbD_append]
  interval_cases i
  all_goals simp

@[simp] theorem join_two (x : BitVec 2) :
    x.extractLsb' 1 1 ++ x.extractLsb' 0 1 = x := by
  apply BitVec.eq_of_getLsbD_eq; intro i hi
  simp only [BitVec.getLsbD_extractLsb', BitVec.getLsbD_append]
  interval_cases i
  all_goals simp

end Sys2Proof.Laws
end

