-- ==== Sys2Proof/Laws/PerInstr.lean ====
section
/-!
SUPPORT. One lemma per instruction: a well-formed instruction has fields, and the decoder reads the instruction back from
them (02_instruction_word.md, R29 to R31). An event has no word and is not well formed.
-/
set_option Elab.async false
set_option linter.unusedVariables false

namespace Sys2Proof.Laws

/-- What the family says of one instruction. -/
def RoundTrip.Statement (i : Instr) : Prop :=
  i.wellFormed = true → ∃ f, i.fields = some f ∧ decodeFields f = some i

theorem RoundTrip.lui (rd imm) : RoundTrip.Statement (.lui rd imm) := by
  intro h
  refine ⟨_, rfl, ?_⟩
  simp [fieldsLui, decodeFields, decodeLui]

theorem RoundTrip.auipc (rd imm) : RoundTrip.Statement (.auipc rd imm) := by
  intro h
  refine ⟨_, rfl, ?_⟩
  simp [fieldsAuipc, decodeFields, decodeAuipc]

theorem RoundTrip.jal (rd off) : RoundTrip.Statement (.jal rd off) := by
  intro h
  refine ⟨_, rfl, ?_⟩
  simp [fieldsJal, decodeFields, decodeJal]

theorem RoundTrip.jalr (rd rs1 imm) : RoundTrip.Statement (.jalr rd rs1 imm) := by
  intro h
  refine ⟨_, rfl, ?_⟩
  simp [fieldsJalr, decodeFields, decodeJalr]

theorem RoundTrip.beq (rs1 rs2 off) : RoundTrip.Statement (.beq rs1 rs2 off) := by
  intro h
  refine ⟨_, rfl, ?_⟩
  simp [fieldsBeq, decodeFields, decodeBranch]

theorem RoundTrip.bne (rs1 rs2 off) : RoundTrip.Statement (.bne rs1 rs2 off) := by
  intro h
  refine ⟨_, rfl, ?_⟩
  simp [fieldsBne, decodeFields, decodeBranch]

theorem RoundTrip.blt (rs1 rs2 off) : RoundTrip.Statement (.blt rs1 rs2 off) := by
  intro h
  refine ⟨_, rfl, ?_⟩
  simp [fieldsBlt, decodeFields, decodeBranch]

theorem RoundTrip.bge (rs1 rs2 off) : RoundTrip.Statement (.bge rs1 rs2 off) := by
  intro h
  refine ⟨_, rfl, ?_⟩
  simp [fieldsBge, decodeFields, decodeBranch]

theorem RoundTrip.bltu (rs1 rs2 off) : RoundTrip.Statement (.bltu rs1 rs2 off) := by
  intro h
  refine ⟨_, rfl, ?_⟩
  simp [fieldsBltu, decodeFields, decodeBranch]

theorem RoundTrip.bgeu (rs1 rs2 off) : RoundTrip.Statement (.bgeu rs1 rs2 off) := by
  intro h
  refine ⟨_, rfl, ?_⟩
  simp [fieldsBgeu, decodeFields, decodeBranch]

theorem RoundTrip.lb (rd rs1 imm) : RoundTrip.Statement (.lb rd rs1 imm) := by
  intro h
  refine ⟨_, rfl, ?_⟩
  simp [fieldsLb, decodeFields, decodeLoad]

theorem RoundTrip.lh (rd rs1 imm) : RoundTrip.Statement (.lh rd rs1 imm) := by
  intro h
  refine ⟨_, rfl, ?_⟩
  simp [fieldsLh, decodeFields, decodeLoad]

theorem RoundTrip.lw (rd rs1 imm) : RoundTrip.Statement (.lw rd rs1 imm) := by
  intro h
  refine ⟨_, rfl, ?_⟩
  simp [fieldsLw, decodeFields, decodeLoad]

theorem RoundTrip.ld (rd rs1 imm) : RoundTrip.Statement (.ld rd rs1 imm) := by
  intro h
  refine ⟨_, rfl, ?_⟩
  simp [fieldsLd, decodeFields, decodeLoad]

theorem RoundTrip.lbu (rd rs1 imm) : RoundTrip.Statement (.lbu rd rs1 imm) := by
  intro h
  refine ⟨_, rfl, ?_⟩
  simp [fieldsLbu, decodeFields, decodeLoad]

theorem RoundTrip.lhu (rd rs1 imm) : RoundTrip.Statement (.lhu rd rs1 imm) := by
  intro h
  refine ⟨_, rfl, ?_⟩
  simp [fieldsLhu, decodeFields, decodeLoad]

theorem RoundTrip.lwu (rd rs1 imm) : RoundTrip.Statement (.lwu rd rs1 imm) := by
  intro h
  refine ⟨_, rfl, ?_⟩
  simp [fieldsLwu, decodeFields, decodeLoad]

theorem RoundTrip.sb (rs1 rs2 imm) : RoundTrip.Statement (.sb rs1 rs2 imm) := by
  intro h
  refine ⟨_, rfl, ?_⟩
  simp [fieldsSb, decodeFields, decodeStore]

theorem RoundTrip.sh (rs1 rs2 imm) : RoundTrip.Statement (.sh rs1 rs2 imm) := by
  intro h
  refine ⟨_, rfl, ?_⟩
  simp [fieldsSh, decodeFields, decodeStore]

theorem RoundTrip.sw (rs1 rs2 imm) : RoundTrip.Statement (.sw rs1 rs2 imm) := by
  intro h
  refine ⟨_, rfl, ?_⟩
  simp [fieldsSw, decodeFields, decodeStore]

theorem RoundTrip.sd (rs1 rs2 imm) : RoundTrip.Statement (.sd rs1 rs2 imm) := by
  intro h
  refine ⟨_, rfl, ?_⟩
  simp [fieldsSd, decodeFields, decodeStore]

theorem RoundTrip.addi (rd rs1 imm) : RoundTrip.Statement (.addi rd rs1 imm) := by
  intro h
  refine ⟨_, rfl, ?_⟩
  simp [fieldsAddi, decodeFields, decodeOpImm]

theorem RoundTrip.slti (rd rs1 imm) : RoundTrip.Statement (.slti rd rs1 imm) := by
  intro h
  refine ⟨_, rfl, ?_⟩
  simp [fieldsSlti, decodeFields, decodeOpImm]

theorem RoundTrip.sltiu (rd rs1 imm) : RoundTrip.Statement (.sltiu rd rs1 imm) := by
  intro h
  refine ⟨_, rfl, ?_⟩
  simp [fieldsSltiu, decodeFields, decodeOpImm]

theorem RoundTrip.xori (rd rs1 imm) : RoundTrip.Statement (.xori rd rs1 imm) := by
  intro h
  refine ⟨_, rfl, ?_⟩
  simp [fieldsXori, decodeFields, decodeOpImm]

theorem RoundTrip.ori (rd rs1 imm) : RoundTrip.Statement (.ori rd rs1 imm) := by
  intro h
  refine ⟨_, rfl, ?_⟩
  simp [fieldsOri, decodeFields, decodeOpImm]

theorem RoundTrip.andi (rd rs1 imm) : RoundTrip.Statement (.andi rd rs1 imm) := by
  intro h
  refine ⟨_, rfl, ?_⟩
  simp [fieldsAndi, decodeFields, decodeOpImm]

theorem RoundTrip.slli (rd rs1 shamt) : RoundTrip.Statement (.slli rd rs1 shamt) := by
  intro h
  refine ⟨_, rfl, ?_⟩
  simp [fieldsSlli, decodeFields, decodeOpImm]

theorem RoundTrip.srli (rd rs1 shamt) : RoundTrip.Statement (.srli rd rs1 shamt) := by
  intro h
  refine ⟨_, rfl, ?_⟩
  simp [fieldsSrli, decodeFields, decodeOpImm]

theorem RoundTrip.srai (rd rs1 shamt) : RoundTrip.Statement (.srai rd rs1 shamt) := by
  intro h
  refine ⟨_, rfl, ?_⟩
  simp [fieldsSrai, decodeFields, decodeOpImm]

theorem RoundTrip.addiw (rd rs1 imm) : RoundTrip.Statement (.addiw rd rs1 imm) := by
  intro h
  refine ⟨_, rfl, ?_⟩
  simp [fieldsAddiw, decodeFields, decodeOpImm32]

theorem RoundTrip.slliw (rd rs1 shamt) : RoundTrip.Statement (.slliw rd rs1 shamt) := by
  intro h
  refine ⟨_, rfl, ?_⟩
  simp [fieldsSlliw, decodeFields, decodeOpImm32]

theorem RoundTrip.srliw (rd rs1 shamt) : RoundTrip.Statement (.srliw rd rs1 shamt) := by
  intro h
  refine ⟨_, rfl, ?_⟩
  simp [fieldsSrliw, decodeFields, decodeOpImm32]

theorem RoundTrip.sraiw (rd rs1 shamt) : RoundTrip.Statement (.sraiw rd rs1 shamt) := by
  intro h
  refine ⟨_, rfl, ?_⟩
  simp [fieldsSraiw, decodeFields, decodeOpImm32]

theorem RoundTrip.add (rd rs1 rs2) : RoundTrip.Statement (.add rd rs1 rs2) := by
  intro h
  refine ⟨_, rfl, ?_⟩
  simp [fieldsAdd, decodeFields, decodeOp]

theorem RoundTrip.sub (rd rs1 rs2) : RoundTrip.Statement (.sub rd rs1 rs2) := by
  intro h
  refine ⟨_, rfl, ?_⟩
  simp [fieldsSub, decodeFields, decodeOp]

theorem RoundTrip.sll (rd rs1 rs2) : RoundTrip.Statement (.sll rd rs1 rs2) := by
  intro h
  refine ⟨_, rfl, ?_⟩
  simp [fieldsSll, decodeFields, decodeOp]

theorem RoundTrip.slt (rd rs1 rs2) : RoundTrip.Statement (.slt rd rs1 rs2) := by
  intro h
  refine ⟨_, rfl, ?_⟩
  simp [fieldsSlt, decodeFields, decodeOp]

theorem RoundTrip.sltu (rd rs1 rs2) : RoundTrip.Statement (.sltu rd rs1 rs2) := by
  intro h
  refine ⟨_, rfl, ?_⟩
  simp [fieldsSltu, decodeFields, decodeOp]

theorem RoundTrip.xor (rd rs1 rs2) : RoundTrip.Statement (.xor rd rs1 rs2) := by
  intro h
  refine ⟨_, rfl, ?_⟩
  simp [fieldsXor, decodeFields, decodeOp]

theorem RoundTrip.srl (rd rs1 rs2) : RoundTrip.Statement (.srl rd rs1 rs2) := by
  intro h
  refine ⟨_, rfl, ?_⟩
  simp [fieldsSrl, decodeFields, decodeOp]

theorem RoundTrip.sra (rd rs1 rs2) : RoundTrip.Statement (.sra rd rs1 rs2) := by
  intro h
  refine ⟨_, rfl, ?_⟩
  simp [fieldsSra, decodeFields, decodeOp]

theorem RoundTrip.or (rd rs1 rs2) : RoundTrip.Statement (.or rd rs1 rs2) := by
  intro h
  refine ⟨_, rfl, ?_⟩
  simp [fieldsOr, decodeFields, decodeOp]

theorem RoundTrip.and (rd rs1 rs2) : RoundTrip.Statement (.and rd rs1 rs2) := by
  intro h
  refine ⟨_, rfl, ?_⟩
  simp [fieldsAnd, decodeFields, decodeOp]

theorem RoundTrip.addw (rd rs1 rs2) : RoundTrip.Statement (.addw rd rs1 rs2) := by
  intro h
  refine ⟨_, rfl, ?_⟩
  simp [fieldsAddw, decodeFields, decodeOp32]

theorem RoundTrip.subw (rd rs1 rs2) : RoundTrip.Statement (.subw rd rs1 rs2) := by
  intro h
  refine ⟨_, rfl, ?_⟩
  simp [fieldsSubw, decodeFields, decodeOp32]

theorem RoundTrip.sllw (rd rs1 rs2) : RoundTrip.Statement (.sllw rd rs1 rs2) := by
  intro h
  refine ⟨_, rfl, ?_⟩
  simp [fieldsSllw, decodeFields, decodeOp32]

theorem RoundTrip.srlw (rd rs1 rs2) : RoundTrip.Statement (.srlw rd rs1 rs2) := by
  intro h
  refine ⟨_, rfl, ?_⟩
  simp [fieldsSrlw, decodeFields, decodeOp32]

theorem RoundTrip.sraw (rd rs1 rs2) : RoundTrip.Statement (.sraw rd rs1 rs2) := by
  intro h
  refine ⟨_, rfl, ?_⟩
  simp [fieldsSraw, decodeFields, decodeOp32]

theorem pause_bits : ∀ p s : BitVec 4, p.extractLsb' 1 3 = 0#3 → (p.extractLsb' 0 1 ++ s : BitVec 5) = 16#5 →
    p = 1#4 ∧ s = 0#4 := by decide

theorem tso_bits : ∀ p s : BitVec 4, p.extractLsb' 1 3 = 1#3 → (p.extractLsb' 0 1 ++ s : BitVec 5) = 19#5 →
    p = 3#4 ∧ s = 3#4 := by decide

theorem RoundTrip.fence (rd rs1 succ pred fm) : RoundTrip.Statement (.fence rd rs1 succ pred fm) := by
  intro h
  simp [Instr.wellFormed] at h
  refine ⟨_, rfl, ?_⟩
  simp [fieldsFence, decodeFields, decodeMiscMem]
  rw [if_neg, if_neg]
  · rintro ⟨⟨h1, h2⟩, h3⟩
    obtain ⟨rfl, rfl⟩ := tso_bits _ _ h2 h3
    simp_all
  · rintro ⟨⟨h1, h2⟩, h3, h4, h5⟩
    obtain ⟨rfl, rfl⟩ := pause_bits _ _ h2 h3
    simp_all

theorem RoundTrip.fenceTso (rd rs1) : RoundTrip.Statement (.fenceTso rd rs1) := by
  intro h
  refine ⟨_, rfl, ?_⟩
  simp [fieldsFenceTso, decodeFields, decodeMiscMem]

theorem RoundTrip.pause : RoundTrip.Statement .pause := by
  intro h
  refine ⟨_, rfl, ?_⟩
  simp [fieldsPause, decodeFields, decodeMiscMem]

theorem RoundTrip.fenceI (rd rs1 imm) : RoundTrip.Statement (.fenceI rd rs1 imm) := by
  intro h
  refine ⟨_, rfl, ?_⟩
  simp [fieldsFenceI, decodeFields, decodeMiscMem]

theorem RoundTrip.ecall : RoundTrip.Statement .ecall := by
  intro h
  refine ⟨_, rfl, ?_⟩
  simp [fieldsEcall, decodeFields, decodeSystem]

theorem RoundTrip.ebreak : RoundTrip.Statement .ebreak := by
  intro h
  refine ⟨_, rfl, ?_⟩
  simp [fieldsEbreak, decodeFields, decodeSystem]

theorem RoundTrip.mul (rd rs1 rs2) : RoundTrip.Statement (.mul rd rs1 rs2) := by
  intro h
  refine ⟨_, rfl, ?_⟩
  simp [fieldsMul, decodeFields, decodeOp]

theorem RoundTrip.mulh (rd rs1 rs2) : RoundTrip.Statement (.mulh rd rs1 rs2) := by
  intro h
  refine ⟨_, rfl, ?_⟩
  simp [fieldsMulh, decodeFields, decodeOp]

theorem RoundTrip.mulhsu (rd rs1 rs2) : RoundTrip.Statement (.mulhsu rd rs1 rs2) := by
  intro h
  refine ⟨_, rfl, ?_⟩
  simp [fieldsMulhsu, decodeFields, decodeOp]

theorem RoundTrip.mulhu (rd rs1 rs2) : RoundTrip.Statement (.mulhu rd rs1 rs2) := by
  intro h
  refine ⟨_, rfl, ?_⟩
  simp [fieldsMulhu, decodeFields, decodeOp]

theorem RoundTrip.div (rd rs1 rs2) : RoundTrip.Statement (.div rd rs1 rs2) := by
  intro h
  refine ⟨_, rfl, ?_⟩
  simp [fieldsDiv, decodeFields, decodeOp]

theorem RoundTrip.divu (rd rs1 rs2) : RoundTrip.Statement (.divu rd rs1 rs2) := by
  intro h
  refine ⟨_, rfl, ?_⟩
  simp [fieldsDivu, decodeFields, decodeOp]

theorem RoundTrip.rem (rd rs1 rs2) : RoundTrip.Statement (.rem rd rs1 rs2) := by
  intro h
  refine ⟨_, rfl, ?_⟩
  simp [fieldsRem, decodeFields, decodeOp]

theorem RoundTrip.remu (rd rs1 rs2) : RoundTrip.Statement (.remu rd rs1 rs2) := by
  intro h
  refine ⟨_, rfl, ?_⟩
  simp [fieldsRemu, decodeFields, decodeOp]

theorem RoundTrip.mulw (rd rs1 rs2) : RoundTrip.Statement (.mulw rd rs1 rs2) := by
  intro h
  refine ⟨_, rfl, ?_⟩
  simp [fieldsMulw, decodeFields, decodeOp32]

theorem RoundTrip.divw (rd rs1 rs2) : RoundTrip.Statement (.divw rd rs1 rs2) := by
  intro h
  refine ⟨_, rfl, ?_⟩
  simp [fieldsDivw, decodeFields, decodeOp32]

theorem RoundTrip.divuw (rd rs1 rs2) : RoundTrip.Statement (.divuw rd rs1 rs2) := by
  intro h
  refine ⟨_, rfl, ?_⟩
  simp [fieldsDivuw, decodeFields, decodeOp32]

theorem RoundTrip.remw (rd rs1 rs2) : RoundTrip.Statement (.remw rd rs1 rs2) := by
  intro h
  refine ⟨_, rfl, ?_⟩
  simp [fieldsRemw, decodeFields, decodeOp32]

theorem RoundTrip.remuw (rd rs1 rs2) : RoundTrip.Statement (.remuw rd rs1 rs2) := by
  intro h
  refine ⟨_, rfl, ?_⟩
  simp [fieldsRemuw, decodeFields, decodeOp32]

theorem RoundTrip.lrW (rd rs1 rl aq) : RoundTrip.Statement (.lrW rd rs1 rl aq) := by
  intro h
  refine ⟨_, rfl, ?_⟩
  simp [fieldsLrW, decodeFields, decodeAmo]

theorem RoundTrip.lrD (rd rs1 rl aq) : RoundTrip.Statement (.lrD rd rs1 rl aq) := by
  intro h
  refine ⟨_, rfl, ?_⟩
  simp [fieldsLrD, decodeFields, decodeAmo]

theorem RoundTrip.scW (rd rs1 rs2 rl aq) : RoundTrip.Statement (.scW rd rs1 rs2 rl aq) := by
  intro h
  refine ⟨_, rfl, ?_⟩
  simp [fieldsScW, decodeFields, decodeAmo]

theorem RoundTrip.scD (rd rs1 rs2 rl aq) : RoundTrip.Statement (.scD rd rs1 rs2 rl aq) := by
  intro h
  refine ⟨_, rfl, ?_⟩
  simp [fieldsScD, decodeFields, decodeAmo]

theorem RoundTrip.amoswapW (rd rs1 rs2 rl aq) : RoundTrip.Statement (.amoswapW rd rs1 rs2 rl aq) := by
  intro h
  refine ⟨_, rfl, ?_⟩
  simp [fieldsAmoswapW, decodeFields, decodeAmo]

theorem RoundTrip.amoswapD (rd rs1 rs2 rl aq) : RoundTrip.Statement (.amoswapD rd rs1 rs2 rl aq) := by
  intro h
  refine ⟨_, rfl, ?_⟩
  simp [fieldsAmoswapD, decodeFields, decodeAmo]

theorem RoundTrip.amoaddW (rd rs1 rs2 rl aq) : RoundTrip.Statement (.amoaddW rd rs1 rs2 rl aq) := by
  intro h
  refine ⟨_, rfl, ?_⟩
  simp [fieldsAmoaddW, decodeFields, decodeAmo]

theorem RoundTrip.amoaddD (rd rs1 rs2 rl aq) : RoundTrip.Statement (.amoaddD rd rs1 rs2 rl aq) := by
  intro h
  refine ⟨_, rfl, ?_⟩
  simp [fieldsAmoaddD, decodeFields, decodeAmo]

theorem RoundTrip.amoxorW (rd rs1 rs2 rl aq) : RoundTrip.Statement (.amoxorW rd rs1 rs2 rl aq) := by
  intro h
  refine ⟨_, rfl, ?_⟩
  simp [fieldsAmoxorW, decodeFields, decodeAmo]

theorem RoundTrip.amoxorD (rd rs1 rs2 rl aq) : RoundTrip.Statement (.amoxorD rd rs1 rs2 rl aq) := by
  intro h
  refine ⟨_, rfl, ?_⟩
  simp [fieldsAmoxorD, decodeFields, decodeAmo]

theorem RoundTrip.amoandW (rd rs1 rs2 rl aq) : RoundTrip.Statement (.amoandW rd rs1 rs2 rl aq) := by
  intro h
  refine ⟨_, rfl, ?_⟩
  simp [fieldsAmoandW, decodeFields, decodeAmo]

theorem RoundTrip.amoandD (rd rs1 rs2 rl aq) : RoundTrip.Statement (.amoandD rd rs1 rs2 rl aq) := by
  intro h
  refine ⟨_, rfl, ?_⟩
  simp [fieldsAmoandD, decodeFields, decodeAmo]

theorem RoundTrip.amoorW (rd rs1 rs2 rl aq) : RoundTrip.Statement (.amoorW rd rs1 rs2 rl aq) := by
  intro h
  refine ⟨_, rfl, ?_⟩
  simp [fieldsAmoorW, decodeFields, decodeAmo]

theorem RoundTrip.amoorD (rd rs1 rs2 rl aq) : RoundTrip.Statement (.amoorD rd rs1 rs2 rl aq) := by
  intro h
  refine ⟨_, rfl, ?_⟩
  simp [fieldsAmoorD, decodeFields, decodeAmo]

theorem RoundTrip.amominW (rd rs1 rs2 rl aq) : RoundTrip.Statement (.amominW rd rs1 rs2 rl aq) := by
  intro h
  refine ⟨_, rfl, ?_⟩
  simp [fieldsAmominW, decodeFields, decodeAmo]

theorem RoundTrip.amominD (rd rs1 rs2 rl aq) : RoundTrip.Statement (.amominD rd rs1 rs2 rl aq) := by
  intro h
  refine ⟨_, rfl, ?_⟩
  simp [fieldsAmominD, decodeFields, decodeAmo]

theorem RoundTrip.amomaxW (rd rs1 rs2 rl aq) : RoundTrip.Statement (.amomaxW rd rs1 rs2 rl aq) := by
  intro h
  refine ⟨_, rfl, ?_⟩
  simp [fieldsAmomaxW, decodeFields, decodeAmo]

theorem RoundTrip.amomaxD (rd rs1 rs2 rl aq) : RoundTrip.Statement (.amomaxD rd rs1 rs2 rl aq) := by
  intro h
  refine ⟨_, rfl, ?_⟩
  simp [fieldsAmomaxD, decodeFields, decodeAmo]

theorem RoundTrip.amominuW (rd rs1 rs2 rl aq) : RoundTrip.Statement (.amominuW rd rs1 rs2 rl aq) := by
  intro h
  refine ⟨_, rfl, ?_⟩
  simp [fieldsAmominuW, decodeFields, decodeAmo]

theorem RoundTrip.amominuD (rd rs1 rs2 rl aq) : RoundTrip.Statement (.amominuD rd rs1 rs2 rl aq) := by
  intro h
  refine ⟨_, rfl, ?_⟩
  simp [fieldsAmominuD, decodeFields, decodeAmo]

theorem RoundTrip.amomaxuW (rd rs1 rs2 rl aq) : RoundTrip.Statement (.amomaxuW rd rs1 rs2 rl aq) := by
  intro h
  refine ⟨_, rfl, ?_⟩
  simp [fieldsAmomaxuW, decodeFields, decodeAmo]

theorem RoundTrip.amomaxuD (rd rs1 rs2 rl aq) : RoundTrip.Statement (.amomaxuD rd rs1 rs2 rl aq) := by
  intro h
  refine ⟨_, rfl, ?_⟩
  simp [fieldsAmomaxuD, decodeFields, decodeAmo]

theorem RoundTrip.flw (rd rs1 imm) : RoundTrip.Statement (.flw rd rs1 imm) := by
  intro h
  refine ⟨_, rfl, ?_⟩
  simp [fieldsFlw, decodeFields, decodeLoadFp]

theorem RoundTrip.fsw (rs1 rs2 imm) : RoundTrip.Statement (.fsw rs1 rs2 imm) := by
  intro h
  refine ⟨_, rfl, ?_⟩
  simp [fieldsFsw, decodeFields, decodeStoreFp]

theorem RoundTrip.fmaddS (rd rm rs1 rs2 rs3) : RoundTrip.Statement (.fmaddS rd rm rs1 rs2 rs3) := by
  intro h
  refine ⟨_, rfl, ?_⟩
  simp [fieldsFmaddS, decodeFields, decodeMadd]

theorem RoundTrip.fmsubS (rd rm rs1 rs2 rs3) : RoundTrip.Statement (.fmsubS rd rm rs1 rs2 rs3) := by
  intro h
  refine ⟨_, rfl, ?_⟩
  simp [fieldsFmsubS, decodeFields, decodeMsub]

theorem RoundTrip.fnmsubS (rd rm rs1 rs2 rs3) : RoundTrip.Statement (.fnmsubS rd rm rs1 rs2 rs3) := by
  intro h
  refine ⟨_, rfl, ?_⟩
  simp [fieldsFnmsubS, decodeFields, decodeNmsub]

theorem RoundTrip.fnmaddS (rd rm rs1 rs2 rs3) : RoundTrip.Statement (.fnmaddS rd rm rs1 rs2 rs3) := by
  intro h
  refine ⟨_, rfl, ?_⟩
  simp [fieldsFnmaddS, decodeFields, decodeNmadd]

theorem RoundTrip.faddS (rd rm rs1 rs2) : RoundTrip.Statement (.faddS rd rm rs1 rs2) := by
  intro h
  refine ⟨_, rfl, ?_⟩
  simp [fieldsFaddS, decodeFields, decodeOpFp]

theorem RoundTrip.fsubS (rd rm rs1 rs2) : RoundTrip.Statement (.fsubS rd rm rs1 rs2) := by
  intro h
  refine ⟨_, rfl, ?_⟩
  simp [fieldsFsubS, decodeFields, decodeOpFp]

theorem RoundTrip.fmulS (rd rm rs1 rs2) : RoundTrip.Statement (.fmulS rd rm rs1 rs2) := by
  intro h
  refine ⟨_, rfl, ?_⟩
  simp [fieldsFmulS, decodeFields, decodeOpFp]

theorem RoundTrip.fdivS (rd rm rs1 rs2) : RoundTrip.Statement (.fdivS rd rm rs1 rs2) := by
  intro h
  refine ⟨_, rfl, ?_⟩
  simp [fieldsFdivS, decodeFields, decodeOpFp]

theorem RoundTrip.fsqrtS (rd rm rs1) : RoundTrip.Statement (.fsqrtS rd rm rs1) := by
  intro h
  refine ⟨_, rfl, ?_⟩
  simp [fieldsFsqrtS, decodeFields, decodeOpFp]

theorem RoundTrip.fsgnjS (rd rs1 rs2) : RoundTrip.Statement (.fsgnjS rd rs1 rs2) := by
  intro h
  refine ⟨_, rfl, ?_⟩
  simp [fieldsFsgnjS, decodeFields, decodeOpFp]

theorem RoundTrip.fsgnjnS (rd rs1 rs2) : RoundTrip.Statement (.fsgnjnS rd rs1 rs2) := by
  intro h
  refine ⟨_, rfl, ?_⟩
  simp [fieldsFsgnjnS, decodeFields, decodeOpFp]

theorem RoundTrip.fsgnjxS (rd rs1 rs2) : RoundTrip.Statement (.fsgnjxS rd rs1 rs2) := by
  intro h
  refine ⟨_, rfl, ?_⟩
  simp [fieldsFsgnjxS, decodeFields, decodeOpFp]

theorem RoundTrip.fminS (rd rs1 rs2) : RoundTrip.Statement (.fminS rd rs1 rs2) := by
  intro h
  refine ⟨_, rfl, ?_⟩
  simp [fieldsFminS, decodeFields, decodeOpFp]

theorem RoundTrip.fmaxS (rd rs1 rs2) : RoundTrip.Statement (.fmaxS rd rs1 rs2) := by
  intro h
  refine ⟨_, rfl, ?_⟩
  simp [fieldsFmaxS, decodeFields, decodeOpFp]

theorem RoundTrip.fcvtWS (rd rm rs1) : RoundTrip.Statement (.fcvtWS rd rm rs1) := by
  intro h
  refine ⟨_, rfl, ?_⟩
  simp [fieldsFcvtWS, decodeFields, decodeOpFp]

theorem RoundTrip.fcvtWuS (rd rm rs1) : RoundTrip.Statement (.fcvtWuS rd rm rs1) := by
  intro h
  refine ⟨_, rfl, ?_⟩
  simp [fieldsFcvtWuS, decodeFields, decodeOpFp]

theorem RoundTrip.fcvtLS (rd rm rs1) : RoundTrip.Statement (.fcvtLS rd rm rs1) := by
  intro h
  refine ⟨_, rfl, ?_⟩
  simp [fieldsFcvtLS, decodeFields, decodeOpFp]

theorem RoundTrip.fcvtLuS (rd rm rs1) : RoundTrip.Statement (.fcvtLuS rd rm rs1) := by
  intro h
  refine ⟨_, rfl, ?_⟩
  simp [fieldsFcvtLuS, decodeFields, decodeOpFp]

theorem RoundTrip.fcvtSW (rd rm rs1) : RoundTrip.Statement (.fcvtSW rd rm rs1) := by
  intro h
  refine ⟨_, rfl, ?_⟩
  simp [fieldsFcvtSW, decodeFields, decodeOpFp]

theorem RoundTrip.fcvtSWu (rd rm rs1) : RoundTrip.Statement (.fcvtSWu rd rm rs1) := by
  intro h
  refine ⟨_, rfl, ?_⟩
  simp [fieldsFcvtSWu, decodeFields, decodeOpFp]

theorem RoundTrip.fcvtSL (rd rm rs1) : RoundTrip.Statement (.fcvtSL rd rm rs1) := by
  intro h
  refine ⟨_, rfl, ?_⟩
  simp [fieldsFcvtSL, decodeFields, decodeOpFp]

theorem RoundTrip.fcvtSLu (rd rm rs1) : RoundTrip.Statement (.fcvtSLu rd rm rs1) := by
  intro h
  refine ⟨_, rfl, ?_⟩
  simp [fieldsFcvtSLu, decodeFields, decodeOpFp]

theorem RoundTrip.fmvXW (rd rs1) : RoundTrip.Statement (.fmvXW rd rs1) := by
  intro h
  refine ⟨_, rfl, ?_⟩
  simp [fieldsFmvXW, decodeFields, decodeOpFp]

theorem RoundTrip.fclassS (rd rs1) : RoundTrip.Statement (.fclassS rd rs1) := by
  intro h
  refine ⟨_, rfl, ?_⟩
  simp [fieldsFclassS, decodeFields, decodeOpFp]

theorem RoundTrip.feqS (rd rs1 rs2) : RoundTrip.Statement (.feqS rd rs1 rs2) := by
  intro h
  refine ⟨_, rfl, ?_⟩
  simp [fieldsFeqS, decodeFields, decodeOpFp]

theorem RoundTrip.fltS (rd rs1 rs2) : RoundTrip.Statement (.fltS rd rs1 rs2) := by
  intro h
  refine ⟨_, rfl, ?_⟩
  simp [fieldsFltS, decodeFields, decodeOpFp]

theorem RoundTrip.fleS (rd rs1 rs2) : RoundTrip.Statement (.fleS rd rs1 rs2) := by
  intro h
  refine ⟨_, rfl, ?_⟩
  simp [fieldsFleS, decodeFields, decodeOpFp]

theorem RoundTrip.fmvWX (rd rs1) : RoundTrip.Statement (.fmvWX rd rs1) := by
  intro h
  refine ⟨_, rfl, ?_⟩
  simp [fieldsFmvWX, decodeFields, decodeOpFp]

theorem RoundTrip.csrrw (rd rs1 csr) : RoundTrip.Statement (.csrrw rd rs1 csr) := by
  intro h
  refine ⟨_, rfl, ?_⟩
  simp [fieldsCsrrw, decodeFields, decodeSystem]

theorem RoundTrip.csrrs (rd rs1 csr) : RoundTrip.Statement (.csrrs rd rs1 csr) := by
  intro h
  refine ⟨_, rfl, ?_⟩
  simp [fieldsCsrrs, decodeFields, decodeSystem]

theorem RoundTrip.csrrc (rd rs1 csr) : RoundTrip.Statement (.csrrc rd rs1 csr) := by
  intro h
  refine ⟨_, rfl, ?_⟩
  simp [fieldsCsrrc, decodeFields, decodeSystem]

theorem RoundTrip.csrrwi (rd u csr) : RoundTrip.Statement (.csrrwi rd u csr) := by
  intro h
  refine ⟨_, rfl, ?_⟩
  simp [fieldsCsrrwi, decodeFields, decodeSystem]

theorem RoundTrip.csrrsi (rd u csr) : RoundTrip.Statement (.csrrsi rd u csr) := by
  intro h
  refine ⟨_, rfl, ?_⟩
  simp [fieldsCsrrsi, decodeFields, decodeSystem]

theorem RoundTrip.csrrci (rd u csr) : RoundTrip.Statement (.csrrci rd u csr) := by
  intro h
  refine ⟨_, rfl, ?_⟩
  simp [fieldsCsrrci, decodeFields, decodeSystem]

theorem RoundTrip.sret : RoundTrip.Statement .sret := by
  intro h
  refine ⟨_, rfl, ?_⟩
  simp [fieldsSret, decodeFields, decodeSystem]

theorem RoundTrip.mret : RoundTrip.Statement .mret := by
  intro h
  refine ⟨_, rfl, ?_⟩
  simp [fieldsMret, decodeFields, decodeSystem]

theorem RoundTrip.wfi : RoundTrip.Statement .wfi := by
  intro h
  refine ⟨_, rfl, ?_⟩
  simp [fieldsWfi, decodeFields, decodeSystem]

theorem RoundTrip.sfenceVma (rs1 rs2) : RoundTrip.Statement (.sfenceVma rs1 rs2) := by
  intro h
  refine ⟨_, rfl, ?_⟩
  simp [fieldsSfenceVma, decodeFields, decodeSystem]

theorem RoundTrip.vloop (xc slot off) : RoundTrip.Statement (.vloop xc slot off) := by
  intro h
  refine ⟨_, rfl, ?_⟩
  simp [fieldsVloop, decodeFields, decodeCustom0]

theorem RoundTrip.vloopcfg (slot rs1) : RoundTrip.Statement (.vloopcfg slot rs1) := by
  intro h
  refine ⟨_, rfl, ?_⟩
  simp [fieldsVloopcfg, decodeFields, decodeCustom0]

theorem RoundTrip.vcfg (rd rs1) : RoundTrip.Statement (.vcfg rd rs1) := by
  intro h
  refine ⟨_, rfl, ?_⟩
  simp [fieldsVcfg, decodeFields, decodeCustom0]

theorem RoundTrip.vsetlen (rd rs1 ty) : RoundTrip.Statement (.vsetlen rd rs1 ty) := by
  intro h
  refine ⟨_, rfl, ?_⟩
  simp [fieldsVsetlen, decodeFields, decodeCustom0]

theorem RoundTrip.lycfg (ly rs1) : RoundTrip.Statement (.lycfg ly rs1) := by
  intro h
  refine ⟨_, rfl, ?_⟩
  simp [fieldsLycfg, decodeFields, decodeCustom0]

theorem RoundTrip.lyclr (ly) : RoundTrip.Statement (.lyclr ly) := by
  intro h
  refine ⟨_, rfl, ?_⟩
  simp [fieldsLyclr, decodeFields, decodeCustom0]

theorem RoundTrip.lysave (d ly) : RoundTrip.Statement (.lysave d ly) := by
  intro h
  refine ⟨_, rfl, ?_⟩
  simp [fieldsLysave, decodeFields, decodeCustom0]

theorem RoundTrip.lyload (ly v1) : RoundTrip.Statement (.lyload ly v1) := by
  intro h
  refine ⟨_, rfl, ?_⟩
  simp [fieldsLyload, decodeFields, decodeCustom0]

theorem RoundTrip.flsc (rd rs1 sf) : RoundTrip.Statement (.flsc rd rs1 sf) := by
  intro h
  refine ⟨_, rfl, ?_⟩
  simp [fieldsFlsc, decodeFields, decodeCustom0]

theorem RoundTrip.ldfe (rd rs1) : RoundTrip.Statement (.ldfe rd rs1) := by
  intro h
  refine ⟨_, rfl, ?_⟩
  simp [fieldsLdfe, decodeFields, decodeCustom0]

theorem RoundTrip.stfe (rs1 rs2) : RoundTrip.Statement (.stfe rs1 rs2) := by
  intro h
  refine ⟨_, rfl, ?_⟩
  simp [fieldsStfe, decodeFields, decodeCustom0]

theorem RoundTrip.ringset (ring rs1) : RoundTrip.Statement (.ringset ring rs1) := by
  intro h
  simp [Instr.wellFormed] at h
  refine ⟨_, rfl, ?_⟩
  simp [fieldsRingset, decodeFields, decodeCustom0, h]

theorem RoundTrip.ringsetWithdraw (ring) : RoundTrip.Statement (.ringsetWithdraw ring) := by
  intro h
  refine ⟨_, rfl, ?_⟩
  simp [fieldsRingsetWithdraw, decodeFields, decodeCustom0]

theorem RoundTrip.ringacq (rd rs1 ring) : RoundTrip.Statement (.ringacq rd rs1 ring) := by
  intro h
  refine ⟨_, rfl, ?_⟩
  simp [fieldsRingacq, decodeFields, decodeCustom0]

theorem RoundTrip.ringrel (rd ring) : RoundTrip.Statement (.ringrel rd ring) := by
  intro h
  refine ⟨_, rfl, ?_⟩
  simp [fieldsRingrel, decodeFields, decodeCustom0]

theorem RoundTrip.ringexp (ring rs1) : RoundTrip.Statement (.ringexp ring rs1) := by
  intro h
  refine ⟨_, rfl, ?_⟩
  simp [fieldsRingexp, decodeFields, decodeCustom0]

theorem RoundTrip.ringtst (rd rs1 ring) : RoundTrip.Statement (.ringtst rd rs1 ring) := by
  intro h
  refine ⟨_, rfl, ?_⟩
  simp [fieldsRingtst, decodeFields, decodeCustom0]

theorem RoundTrip.cpset (ch rs1 sel) : RoundTrip.Statement (.cpset ch rs1 sel) := by
  intro h
  refine ⟨_, rfl, ?_⟩
  simp [fieldsCpset, decodeFields, decodeCustom0]

theorem RoundTrip.cplaunch (rd ch) : RoundTrip.Statement (.cplaunch rd ch) := by
  intro h
  refine ⟨_, rfl, ?_⟩
  simp [fieldsCplaunch, decodeFields, decodeCustom0]

theorem RoundTrip.cpstat (rd ch) : RoundTrip.Statement (.cpstat rd ch) := by
  intro h
  refine ⟨_, rfl, ?_⟩
  simp [fieldsCpstat, decodeFields, decodeCustom0]

theorem RoundTrip.waitc (na nb nc nd) : RoundTrip.Statement (.waitc na nb nc nd) := by
  intro h
  refine ⟨_, rfl, ?_⟩
  simp [fieldsWaitc, decodeFields, decodeCustom0]

theorem RoundTrip.strmopen (rd rs1) : RoundTrip.Statement (.strmopen rd rs1) := by
  intro h
  refine ⟨_, rfl, ?_⟩
  simp [fieldsStrmopen, decodeFields, decodeCustom0]

theorem RoundTrip.strmclose (rs1) : RoundTrip.Statement (.strmclose rs1) := by
  intro h
  refine ⟨_, rfl, ?_⟩
  simp [fieldsStrmclose, decodeFields, decodeCustom0]

theorem RoundTrip.tack (rd rs1 rs2) : RoundTrip.Statement (.tack rd rs1 rs2) := by
  intro h
  refine ⟨_, rfl, ?_⟩
  simp [fieldsTack, decodeFields, decodeCustom0]

theorem RoundTrip.qpush (rd rs1 rs2) : RoundTrip.Statement (.qpush rd rs1 rs2) := by
  intro h
  refine ⟨_, rfl, ?_⟩
  simp [fieldsQpush, decodeFields, decodeCustom0]

theorem RoundTrip.qpop (rd rs1 rs2) : RoundTrip.Statement (.qpop rd rs1 rs2) := by
  intro h
  refine ⟨_, rfl, ?_⟩
  simp [fieldsQpop, decodeFields, decodeCustom0]

theorem RoundTrip.exit (rs1 cnt) : RoundTrip.Statement (.exit rs1 cnt) := by
  intro h
  refine ⟨_, rfl, ?_⟩
  simp [fieldsExit, decodeFields, decodeCustom0]

theorem RoundTrip.yield : RoundTrip.Statement .yield := by
  intro h
  refine ⟨_, rfl, ?_⟩
  simp [fieldsYield, decodeFields, decodeCustom0]

theorem RoundTrip.wdq (rs1 rs2) : RoundTrip.Statement (.wdq rs1 rs2) := by
  intro h
  refine ⟨_, rfl, ?_⟩
  simp [fieldsWdq, decodeFields, decodeCustom0]

theorem RoundTrip.tcommit (rs1 rs2) : RoundTrip.Statement (.tcommit rs1 rs2) := by
  intro h
  refine ⟨_, rfl, ?_⟩
  simp [fieldsTcommit, decodeFields, decodeCustom0]

theorem RoundTrip.tskip (rs1) : RoundTrip.Statement (.tskip rs1) := by
  intro h
  refine ⟨_, rfl, ?_⟩
  simp [fieldsTskip, decodeFields, decodeCustom0]

theorem RoundTrip.tcfg (rs1 rs2) : RoundTrip.Statement (.tcfg rs1 rs2) := by
  intro h
  refine ⟨_, rfl, ?_⟩
  simp [fieldsTcfg, decodeFields, decodeCustom0]

theorem RoundTrip.gangarm (rs1 rs2) : RoundTrip.Statement (.gangarm rs1 rs2) := by
  intro h
  refine ⟨_, rfl, ?_⟩
  simp [fieldsGangarm, decodeFields, decodeCustom0]

theorem RoundTrip.fenceSv (scope) : RoundTrip.Statement (.fenceSv scope) := by
  intro h
  refine ⟨_, rfl, ?_⟩
  simp [fieldsFenceSv, decodeFields, decodeCustom0]

theorem RoundTrip.fenceVs (scope) : RoundTrip.Statement (.fenceVs scope) := by
  intro h
  refine ⟨_, rfl, ?_⟩
  simp [fieldsFenceVs, decodeFields, decodeCustom0]

theorem RoundTrip.fenceVv (scope) : RoundTrip.Statement (.fenceVv scope) := by
  intro h
  refine ⟨_, rfl, ?_⟩
  simp [fieldsFenceVv, decodeFields, decodeCustom0]

theorem RoundTrip.amoaddf (rd rs1 rs2 scope) : RoundTrip.Statement (.amoaddf rd rs1 rs2 scope) := by
  intro h
  refine ⟨_, rfl, ?_⟩
  simp [fieldsAmoaddf, decodeFields, decodeCustom0]

theorem RoundTrip.amomaxf (rd rs1 rs2 scope) : RoundTrip.Statement (.amomaxf rd rs1 rs2 scope) := by
  intro h
  refine ⟨_, rfl, ?_⟩
  simp [fieldsAmomaxf, decodeFields, decodeCustom0]

theorem RoundTrip.bwcfg (rs1 wire) : RoundTrip.Statement (.bwcfg rs1 wire) := by
  intro h
  refine ⟨_, rfl, ?_⟩
  simp [fieldsBwcfg, decodeFields, decodeCustom0]

theorem RoundTrip.bwarr (rs1 wire) : RoundTrip.Statement (.bwarr rs1 wire) := by
  intro h
  refine ⟨_, rfl, ?_⟩
  simp [fieldsBwarr, decodeFields, decodeCustom0]

theorem RoundTrip.bwtst (rd wire) : RoundTrip.Statement (.bwtst rd wire) := by
  intro h
  refine ⟨_, rfl, ?_⟩
  simp [fieldsBwtst, decodeFields, decodeCustom0]

theorem RoundTrip.wev (rd rs1) : RoundTrip.Statement (.wev rd rs1) := by
  intro h
  refine ⟨_, rfl, ?_⟩
  simp [fieldsWev, decodeFields, decodeCustom0]

theorem RoundTrip.upret : RoundTrip.Statement .upret := by
  intro h
  refine ⟨_, rfl, ?_⟩
  simp [fieldsUpret, decodeFields, decodeCustom0]

theorem RoundTrip.fqpop (rd rs1) : RoundTrip.Statement (.fqpop rd rs1) := by
  intro h
  refine ⟨_, rfl, ?_⟩
  simp [fieldsFqpop, decodeFields, decodeCustom0]

theorem RoundTrip.vstupd (rs1 rs2) : RoundTrip.Statement (.vstupd rs1 rs2) := by
  intro h
  refine ⟨_, rfl, ?_⟩
  simp [fieldsVstupd, decodeFields, decodeCustom0]

theorem RoundTrip.kill (rs1) : RoundTrip.Statement (.kill rs1) := by
  intro h
  refine ⟨_, rfl, ?_⟩
  simp [fieldsKill, decodeFields, decodeCustom0]

theorem RoundTrip.islctl (rd rs1 rs2) : RoundTrip.Statement (.islctl rd rs1 rs2) := by
  intro h
  refine ⟨_, rfl, ?_⟩
  simp [fieldsIslctl, decodeFields, decodeCustom0]

theorem RoundTrip.vsave (rs1) : RoundTrip.Statement (.vsave rs1) := by
  intro h
  refine ⟨_, rfl, ?_⟩
  simp [fieldsVsave, decodeFields, decodeCustom0]

theorem RoundTrip.vrestore (rs1) : RoundTrip.Statement (.vrestore rs1) := by
  intro h
  refine ⟨_, rfl, ?_⟩
  simp [fieldsVrestore, decodeFields, decodeCustom0]

theorem RoundTrip.wayset (rs1 rs2) : RoundTrip.Statement (.wayset rs1 rs2) := by
  intro h
  refine ⟨_, rfl, ?_⟩
  simp [fieldsWayset, decodeFields, decodeCustom0]

theorem RoundTrip.vadd (d k v1 v2 s) : RoundTrip.Statement (.vadd d k v1 v2 s) := by
  intro h
  refine ⟨_, rfl, ?_⟩
  simp [fieldsVadd, decodeFields, decodeCustom1]

theorem RoundTrip.vsub (d k v1 v2 s) : RoundTrip.Statement (.vsub d k v1 v2 s) := by
  intro h
  refine ⟨_, rfl, ?_⟩
  simp [fieldsVsub, decodeFields, decodeCustom1]

theorem RoundTrip.vmul (d k v1 v2 s) : RoundTrip.Statement (.vmul d k v1 v2 s) := by
  intro h
  refine ⟨_, rfl, ?_⟩
  simp [fieldsVmul, decodeFields, decodeCustom1]

theorem RoundTrip.vmulh (d k v1 v2 s) : RoundTrip.Statement (.vmulh d k v1 v2 s) := by
  intro h
  refine ⟨_, rfl, ?_⟩
  simp [fieldsVmulh, decodeFields, decodeCustom1]

theorem RoundTrip.vmulhu (d k v1 v2 s) : RoundTrip.Statement (.vmulhu d k v1 v2 s) := by
  intro h
  refine ⟨_, rfl, ?_⟩
  simp [fieldsVmulhu, decodeFields, decodeCustom1]

theorem RoundTrip.vmacc (d k v1 v2 s) : RoundTrip.Statement (.vmacc d k v1 v2 s) := by
  intro h
  refine ⟨_, rfl, ?_⟩
  simp [fieldsVmacc, decodeFields, decodeCustom1]

theorem RoundTrip.vand (d k v1 v2 s) : RoundTrip.Statement (.vand d k v1 v2 s) := by
  intro h
  refine ⟨_, rfl, ?_⟩
  simp [fieldsVand, decodeFields, decodeCustom1]

theorem RoundTrip.vor (d k v1 v2 s) : RoundTrip.Statement (.vor d k v1 v2 s) := by
  intro h
  refine ⟨_, rfl, ?_⟩
  simp [fieldsVor, decodeFields, decodeCustom1]

theorem RoundTrip.vxor (d k v1 v2 s) : RoundTrip.Statement (.vxor d k v1 v2 s) := by
  intro h
  refine ⟨_, rfl, ?_⟩
  simp [fieldsVxor, decodeFields, decodeCustom1]

theorem RoundTrip.vsll (d k v1 v2 s) : RoundTrip.Statement (.vsll d k v1 v2 s) := by
  intro h
  refine ⟨_, rfl, ?_⟩
  simp [fieldsVsll, decodeFields, decodeCustom1]

theorem RoundTrip.vsrl (d k v1 v2 s) : RoundTrip.Statement (.vsrl d k v1 v2 s) := by
  intro h
  refine ⟨_, rfl, ?_⟩
  simp [fieldsVsrl, decodeFields, decodeCustom1]

theorem RoundTrip.vsra (d k v1 v2 s) : RoundTrip.Statement (.vsra d k v1 v2 s) := by
  intro h
  refine ⟨_, rfl, ?_⟩
  simp [fieldsVsra, decodeFields, decodeCustom1]

theorem RoundTrip.vmin (d k v1 v2 s) : RoundTrip.Statement (.vmin d k v1 v2 s) := by
  intro h
  refine ⟨_, rfl, ?_⟩
  simp [fieldsVmin, decodeFields, decodeCustom1]

theorem RoundTrip.vminu (d k v1 v2 s) : RoundTrip.Statement (.vminu d k v1 v2 s) := by
  intro h
  refine ⟨_, rfl, ?_⟩
  simp [fieldsVminu, decodeFields, decodeCustom1]

theorem RoundTrip.vmax (d k v1 v2 s) : RoundTrip.Statement (.vmax d k v1 v2 s) := by
  intro h
  refine ⟨_, rfl, ?_⟩
  simp [fieldsVmax, decodeFields, decodeCustom1]

theorem RoundTrip.vmaxu (d k v1 v2 s) : RoundTrip.Statement (.vmaxu d k v1 v2 s) := by
  intro h
  refine ⟨_, rfl, ?_⟩
  simp [fieldsVmaxu, decodeFields, decodeCustom1]

theorem RoundTrip.vseq (d k v1 v2 s) : RoundTrip.Statement (.vseq d k v1 v2 s) := by
  intro h
  refine ⟨_, rfl, ?_⟩
  simp [fieldsVseq, decodeFields, decodeCustom1]

theorem RoundTrip.vsne (d k v1 v2 s) : RoundTrip.Statement (.vsne d k v1 v2 s) := by
  intro h
  refine ⟨_, rfl, ?_⟩
  simp [fieldsVsne, decodeFields, decodeCustom1]

theorem RoundTrip.vslt (d k v1 v2 s) : RoundTrip.Statement (.vslt d k v1 v2 s) := by
  intro h
  refine ⟨_, rfl, ?_⟩
  simp [fieldsVslt, decodeFields, decodeCustom1]

theorem RoundTrip.vsltu (d k v1 v2 s) : RoundTrip.Statement (.vsltu d k v1 v2 s) := by
  intro h
  refine ⟨_, rfl, ?_⟩
  simp [fieldsVsltu, decodeFields, decodeCustom1]

theorem RoundTrip.vsle (d k v1 v2 s) : RoundTrip.Statement (.vsle d k v1 v2 s) := by
  intro h
  refine ⟨_, rfl, ?_⟩
  simp [fieldsVsle, decodeFields, decodeCustom1]

theorem RoundTrip.vsleu (d k v1 v2 s) : RoundTrip.Statement (.vsleu d k v1 v2 s) := by
  intro h
  refine ⟨_, rfl, ?_⟩
  simp [fieldsVsleu, decodeFields, decodeCustom1]

theorem RoundTrip.vfadd (d k v1 v2 s) : RoundTrip.Statement (.vfadd d k v1 v2 s) := by
  intro h
  refine ⟨_, rfl, ?_⟩
  simp [fieldsVfadd, decodeFields, decodeCustom1]

theorem RoundTrip.vfsub (d k v1 v2 s) : RoundTrip.Statement (.vfsub d k v1 v2 s) := by
  intro h
  refine ⟨_, rfl, ?_⟩
  simp [fieldsVfsub, decodeFields, decodeCustom1]

theorem RoundTrip.vfmul (d k v1 v2 s) : RoundTrip.Statement (.vfmul d k v1 v2 s) := by
  intro h
  refine ⟨_, rfl, ?_⟩
  simp [fieldsVfmul, decodeFields, decodeCustom1]

theorem RoundTrip.vfdiv (d k v1 v2 s) : RoundTrip.Statement (.vfdiv d k v1 v2 s) := by
  intro h
  refine ⟨_, rfl, ?_⟩
  simp [fieldsVfdiv, decodeFields, decodeCustom1]

theorem RoundTrip.vfsqrt (d k v2) : RoundTrip.Statement (.vfsqrt d k v2) := by
  intro h
  refine ⟨_, rfl, ?_⟩
  simp [fieldsVfsqrt, decodeFields, decodeCustom1]

theorem RoundTrip.vfmacc (d k v1 v2 s) : RoundTrip.Statement (.vfmacc d k v1 v2 s) := by
  intro h
  refine ⟨_, rfl, ?_⟩
  simp [fieldsVfmacc, decodeFields, decodeCustom1]

theorem RoundTrip.vfnmacc (d k v1 v2 s) : RoundTrip.Statement (.vfnmacc d k v1 v2 s) := by
  intro h
  refine ⟨_, rfl, ?_⟩
  simp [fieldsVfnmacc, decodeFields, decodeCustom1]

theorem RoundTrip.vfmsac (d k v1 v2 s) : RoundTrip.Statement (.vfmsac d k v1 v2 s) := by
  intro h
  refine ⟨_, rfl, ?_⟩
  simp [fieldsVfmsac, decodeFields, decodeCustom1]

theorem RoundTrip.vfmin (d k v1 v2 s) : RoundTrip.Statement (.vfmin d k v1 v2 s) := by
  intro h
  refine ⟨_, rfl, ?_⟩
  simp [fieldsVfmin, decodeFields, decodeCustom1]

theorem RoundTrip.vfmax (d k v1 v2 s) : RoundTrip.Statement (.vfmax d k v1 v2 s) := by
  intro h
  refine ⟨_, rfl, ?_⟩
  simp [fieldsVfmax, decodeFields, decodeCustom1]

theorem RoundTrip.vfsgnj (d k v1 v2 s) : RoundTrip.Statement (.vfsgnj d k v1 v2 s) := by
  intro h
  refine ⟨_, rfl, ?_⟩
  simp [fieldsVfsgnj, decodeFields, decodeCustom1]

theorem RoundTrip.vfclass (d k v2) : RoundTrip.Statement (.vfclass d k v2) := by
  intro h
  refine ⟨_, rfl, ?_⟩
  simp [fieldsVfclass, decodeFields, decodeCustom1]

theorem RoundTrip.vfeq (d k v1 v2 s) : RoundTrip.Statement (.vfeq d k v1 v2 s) := by
  intro h
  refine ⟨_, rfl, ?_⟩
  simp [fieldsVfeq, decodeFields, decodeCustom1]

theorem RoundTrip.vflt (d k v1 v2 s) : RoundTrip.Statement (.vflt d k v1 v2 s) := by
  intro h
  refine ⟨_, rfl, ?_⟩
  simp [fieldsVflt, decodeFields, decodeCustom1]

theorem RoundTrip.vfle (d k v1 v2 s) : RoundTrip.Statement (.vfle d k v1 v2 s) := by
  intro h
  refine ⟨_, rfl, ?_⟩
  simp [fieldsVfle, decodeFields, decodeCustom1]

theorem RoundTrip.vmv (d k v1 s) : RoundTrip.Statement (.vmv d k v1 s) := by
  intro h
  refine ⟨_, rfl, ?_⟩
  simp [fieldsVmv, decodeFields, decodeCustom1]

theorem RoundTrip.vmvxs (d v2) : RoundTrip.Statement (.vmvxs d v2) := by
  intro h
  refine ⟨_, rfl, ?_⟩
  simp [fieldsVmvxs, decodeFields, decodeCustom1]

theorem RoundTrip.vmerge (d k v1 v2 s) : RoundTrip.Statement (.vmerge d k v1 v2 s) := by
  intro h
  refine ⟨_, rfl, ?_⟩
  simp [fieldsVmerge, decodeFields, decodeCustom1]

theorem RoundTrip.vslideup (d k v1 v2) : RoundTrip.Statement (.vslideup d k v1 v2) := by
  intro h
  refine ⟨_, rfl, ?_⟩
  simp [fieldsVslideup, decodeFields, decodeCustom1]

theorem RoundTrip.vslidedn (d k v1 v2) : RoundTrip.Statement (.vslidedn d k v1 v2) := by
  intro h
  refine ⟨_, rfl, ?_⟩
  simp [fieldsVslidedn, decodeFields, decodeCustom1]

theorem RoundTrip.vperm (d k v1 v2) : RoundTrip.Statement (.vperm d k v1 v2) := by
  intro h
  refine ⟨_, rfl, ?_⟩
  simp [fieldsVperm, decodeFields, decodeCustom1]

theorem RoundTrip.vcompress (d k v2) : RoundTrip.Statement (.vcompress d k v2) := by
  intro h
  refine ⟨_, rfl, ?_⟩
  simp [fieldsVcompress, decodeFields, decodeCustom1]

theorem RoundTrip.vid (d k) : RoundTrip.Statement (.vid d k) := by
  intro h
  refine ⟨_, rfl, ?_⟩
  simp [fieldsVid, decodeFields, decodeCustom1]

theorem RoundTrip.viota (d k) : RoundTrip.Statement (.viota d k) := by
  intro h
  refine ⟨_, rfl, ?_⟩
  simp [fieldsViota, decodeFields, decodeCustom1]

theorem RoundTrip.vredsum (d k v1 v2) : RoundTrip.Statement (.vredsum d k v1 v2) := by
  intro h
  refine ⟨_, rfl, ?_⟩
  simp [fieldsVredsum, decodeFields, decodeCustom1]

theorem RoundTrip.vredosum (d k v1 v2) : RoundTrip.Statement (.vredosum d k v1 v2) := by
  intro h
  refine ⟨_, rfl, ?_⟩
  simp [fieldsVredosum, decodeFields, decodeCustom1]

theorem RoundTrip.vredmin (d k v1 v2) : RoundTrip.Statement (.vredmin d k v1 v2) := by
  intro h
  refine ⟨_, rfl, ?_⟩
  simp [fieldsVredmin, decodeFields, decodeCustom1]

theorem RoundTrip.vredmax (d k v1 v2) : RoundTrip.Statement (.vredmax d k v1 v2) := by
  intro h
  refine ⟨_, rfl, ?_⟩
  simp [fieldsVredmax, decodeFields, decodeCustom1]

theorem RoundTrip.vfredsum (d k v1 v2) : RoundTrip.Statement (.vfredsum d k v1 v2) := by
  intro h
  refine ⟨_, rfl, ?_⟩
  simp [fieldsVfredsum, decodeFields, decodeCustom1]

theorem RoundTrip.vfredosum (d k v1 v2) : RoundTrip.Statement (.vfredosum d k v1 v2) := by
  intro h
  refine ⟨_, rfl, ?_⟩
  simp [fieldsVfredosum, decodeFields, decodeCustom1]

theorem RoundTrip.vfredmin (d k v1 v2) : RoundTrip.Statement (.vfredmin d k v1 v2) := by
  intro h
  refine ⟨_, rfl, ?_⟩
  simp [fieldsVfredmin, decodeFields, decodeCustom1]

theorem RoundTrip.vfredmax (d k v1 v2) : RoundTrip.Statement (.vfredmax d k v1 v2) := by
  intro h
  refine ⟨_, rfl, ?_⟩
  simp [fieldsVfredmax, decodeFields, decodeCustom1]

theorem RoundTrip.kand (d v1 v2) : RoundTrip.Statement (.kand d v1 v2) := by
  intro h
  refine ⟨_, rfl, ?_⟩
  simp [fieldsKand, decodeFields, decodeCustom1]

theorem RoundTrip.kor (d v1 v2) : RoundTrip.Statement (.kor d v1 v2) := by
  intro h
  refine ⟨_, rfl, ?_⟩
  simp [fieldsKor, decodeFields, decodeCustom1]

theorem RoundTrip.kxor (d v1 v2) : RoundTrip.Statement (.kxor d v1 v2) := by
  intro h
  refine ⟨_, rfl, ?_⟩
  simp [fieldsKxor, decodeFields, decodeCustom1]

theorem RoundTrip.kpopc (d v2) : RoundTrip.Statement (.kpopc d v2) := by
  intro h
  refine ⟨_, rfl, ?_⟩
  simp [fieldsKpopc, decodeFields, decodeCustom1]

theorem RoundTrip.kfirst (d v2) : RoundTrip.Statement (.kfirst d v2) := by
  intro h
  refine ⟨_, rfl, ?_⟩
  simp [fieldsKfirst, decodeFields, decodeCustom1]

theorem RoundTrip.kmv (d v2) : RoundTrip.Statement (.kmv d v2) := by
  intro h
  refine ⟨_, rfl, ?_⟩
  simp [fieldsKmv, decodeFields, decodeCustom1]

theorem RoundTrip.vbvrd (d w v2) : RoundTrip.Statement (.vbvrd d w v2) := by
  intro h
  refine ⟨_, rfl, ?_⟩
  simp [fieldsVbvrd, decodeFields, decodeCustom1]

theorem RoundTrip.vbvwr (d rs1 w) : RoundTrip.Statement (.vbvwr d rs1 w) := by
  intro h
  refine ⟨_, rfl, ?_⟩
  simp [fieldsVbvwr, decodeFields, decodeCustom1]

theorem RoundTrip.vcvt (d k ty v2) : RoundTrip.Statement (.vcvt d k ty v2) := by
  intro h
  refine ⟨_, rfl, ?_⟩
  simp [fieldsVcvt, decodeFields, decodeCustom1]

theorem RoundTrip.vld (d k rs1 nt) : RoundTrip.Statement (.vld d k rs1 nt) := by
  intro h
  refine ⟨_, rfl, ?_⟩
  simp [fieldsVld, decodeFields, decodeCustom2]

theorem RoundTrip.vst (d k rs1 nt) : RoundTrip.Statement (.vst d k rs1 nt) := by
  intro h
  refine ⟨_, rfl, ?_⟩
  simp [fieldsVst, decodeFields, decodeCustom2]

theorem RoundTrip.vlds (d k rs1 rs2 nt) : RoundTrip.Statement (.vlds d k rs1 rs2 nt) := by
  intro h
  refine ⟨_, rfl, ?_⟩
  simp [fieldsVlds, decodeFields, decodeCustom2]

theorem RoundTrip.vsts (d k rs1 rs2 nt) : RoundTrip.Statement (.vsts d k rs1 rs2 nt) := by
  intro h
  refine ⟨_, rfl, ?_⟩
  simp [fieldsVsts, decodeFields, decodeCustom2]

theorem RoundTrip.vldx (d k rs1 v2 nt) : RoundTrip.Statement (.vldx d k rs1 v2 nt) := by
  intro h
  refine ⟨_, rfl, ?_⟩
  simp [fieldsVldx, decodeFields, decodeCustom2]

theorem RoundTrip.vstx (d k rs1 v2 nt) : RoundTrip.Statement (.vstx d k rs1 v2 nt) := by
  intro h
  refine ⟨_, rfl, ?_⟩
  simp [fieldsVstx, decodeFields, decodeCustom2]

theorem RoundTrip.vpref (rs1 nt) : RoundTrip.Statement (.vpref rs1 nt) := by
  intro h
  refine ⟨_, rfl, ?_⟩
  simp [fieldsVpref, decodeFields, decodeCustom2]

theorem RoundTrip.vldfe (d k rs1) : RoundTrip.Statement (.vldfe d k rs1) := by
  intro h
  refine ⟨_, rfl, ?_⟩
  simp [fieldsVldfe, decodeFields, decodeCustom2]

theorem RoundTrip.vstfe (d k rs1) : RoundTrip.Statement (.vstfe d k rs1) := by
  intro h
  refine ⟨_, rfl, ?_⟩
  simp [fieldsVstfe, decodeFields, decodeCustom2]

theorem RoundTrip.vqld (d rs1 fmt) : RoundTrip.Statement (.vqld d rs1 fmt) := by
  intro h
  refine ⟨_, rfl, ?_⟩
  simp [fieldsVqld, decodeFields, decodeCustom2]

theorem RoundTrip.vqst (d rs1 fmt ly) : RoundTrip.Statement (.vqst d rs1 fmt ly) := by
  intro h
  refine ⟨_, rfl, ?_⟩
  simp [fieldsVqst, decodeFields, decodeCustom2]

theorem RoundTrip.vamoadd (d k rs1 v2) : RoundTrip.Statement (.vamoadd d k rs1 v2) := by
  intro h
  refine ⟨_, rfl, ?_⟩
  simp [fieldsVamoadd, decodeFields, decodeCustom2]

theorem RoundTrip.vamomin (d k rs1 v2) : RoundTrip.Statement (.vamomin d k rs1 v2) := by
  intro h
  refine ⟨_, rfl, ?_⟩
  simp [fieldsVamomin, decodeFields, decodeCustom2]

theorem RoundTrip.vamomax (d k rs1 v2) : RoundTrip.Statement (.vamomax d k rs1 v2) := by
  intro h
  refine ⟨_, rfl, ?_⟩
  simp [fieldsVamomax, decodeFields, decodeCustom2]

theorem RoundTrip.vsend (d rs1) : RoundTrip.Statement (.vsend d rs1) := by
  intro h
  refine ⟨_, rfl, ?_⟩
  simp [fieldsVsend, decodeFields, decodeCustom2]

theorem RoundTrip.vrecv (d rs1) : RoundTrip.Statement (.vrecv d rs1) := by
  intro h
  refine ⟨_, rfl, ?_⟩
  simp [fieldsVrecv, decodeFields, decodeCustom2]

theorem RoundTrip.vmmaE4e4 (d v1 v2 fs3) : RoundTrip.Statement (.vmmaE4e4 d v1 v2 fs3) := by
  intro h
  refine ⟨_, rfl, ?_⟩
  simp [fieldsVmmaE4e4, decodeFields, decodeCustom3]

theorem RoundTrip.vmmaE5e4 (d v1 v2 fs3) : RoundTrip.Statement (.vmmaE5e4 d v1 v2 fs3) := by
  intro h
  refine ⟨_, rfl, ?_⟩
  simp [fieldsVmmaE5e4, decodeFields, decodeCustom3]

theorem RoundTrip.vmmaBf16 (d v1 v2 fs3) : RoundTrip.Statement (.vmmaBf16 d v1 v2 fs3) := by
  intro h
  refine ⟨_, rfl, ?_⟩
  simp [fieldsVmmaBf16, decodeFields, decodeCustom3]

theorem RoundTrip.vmmaE4q (d v1 v2 fs3) : RoundTrip.Statement (.vmmaE4q d v1 v2 fs3) := by
  intro h
  refine ⟨_, rfl, ?_⟩
  simp [fieldsVmmaE4q, decodeFields, decodeCustom3]

theorem RoundTrip.mlease (d) : RoundTrip.Statement (.mlease d) := by
  intro h
  refine ⟨_, rfl, ?_⟩
  simp [fieldsMlease, decodeFields, decodeCustom3]

theorem RoundTrip.mrel : RoundTrip.Statement .mrel := by
  intro h
  refine ⟨_, rfl, ?_⟩
  simp [fieldsMrel, decodeFields, decodeCustom3]

theorem RoundTrip.mwld (rs1 rs2) : RoundTrip.Statement (.mwld rs1 rs2) := by
  intro h
  refine ⟨_, rfl, ?_⟩
  simp [fieldsMwld, decodeFields, decodeCustom3]

theorem RoundTrip.mzero (z) : RoundTrip.Statement (.mzero z) := by
  intro h
  refine ⟨_, rfl, ?_⟩
  simp [fieldsMzero, decodeFields, decodeCustom3]

theorem RoundTrip.mld (z rs1) : RoundTrip.Statement (.mld z rs1) := by
  intro h
  refine ⟨_, rfl, ?_⟩
  simp [fieldsMld, decodeFields, decodeCustom3]

theorem RoundTrip.mst (z dir rs1 fmt ly) : RoundTrip.Statement (.mst z dir rs1 fmt ly) := by
  intro h
  refine ⟨_, rfl, ?_⟩
  simp [fieldsMst, decodeFields, decodeCustom3]

theorem RoundTrip.mmacE4e4 (z rs1 rs2 kf) : RoundTrip.Statement (.mmacE4e4 z rs1 rs2 kf) := by
  intro h
  refine ⟨_, rfl, ?_⟩
  simp [fieldsMmacE4e4, decodeFields, decodeCustom3]

theorem RoundTrip.mmacE5e4 (z rs1 rs2 kf) : RoundTrip.Statement (.mmacE5e4 z rs1 rs2 kf) := by
  intro h
  refine ⟨_, rfl, ?_⟩
  simp [fieldsMmacE5e4, decodeFields, decodeCustom3]

theorem RoundTrip.mmacE4e5 (z rs1 rs2 kf) : RoundTrip.Statement (.mmacE4e5 z rs1 rs2 kf) := by
  intro h
  refine ⟨_, rfl, ?_⟩
  simp [fieldsMmacE4e5, decodeFields, decodeCustom3]

theorem RoundTrip.mmacE5e5 (z rs1 rs2 kf) : RoundTrip.Statement (.mmacE5e5 z rs1 rs2 kf) := by
  intro h
  refine ⟨_, rfl, ?_⟩
  simp [fieldsMmacE5e5, decodeFields, decodeCustom3]

theorem RoundTrip.mmacBf16 (z rs1 rs2 kf) : RoundTrip.Statement (.mmacBf16 z rs1 rs2 kf) := by
  intro h
  refine ⟨_, rfl, ?_⟩
  simp [fieldsMmacBf16, decodeFields, decodeCustom3]

theorem RoundTrip.mmacE4q (z rs1 rs2 kf) : RoundTrip.Statement (.mmacE4q z rs1 rs2 kf) := by
  intro h
  refine ⟨_, rfl, ?_⟩
  simp [fieldsMmacE4q, decodeFields, decodeCustom3]

theorem RoundTrip.mmacF4 (z rs1 rs2 kf) : RoundTrip.Statement (.mmacF4 z rs1 rs2 kf) := by
  intro h
  refine ⟨_, rfl, ?_⟩
  simp [fieldsMmacF4, decodeFields, decodeCustom3]

theorem RoundTrip.mmacF4q (z rs1 rs2 kf) : RoundTrip.Statement (.mmacF4q z rs1 rs2 kf) := by
  intro h
  refine ⟨_, rfl, ?_⟩
  simp [fieldsMmacF4q, decodeFields, decodeCustom3]

theorem RoundTrip.rbox (d v1 rs2) : RoundTrip.Statement (.rbox d v1 rs2) := by
  intro h
  refine ⟨_, rfl, ?_⟩
  simp [fieldsRbox, decodeFields, decodeCustom3]

theorem RoundTrip.rtri (d v1 rs2) : RoundTrip.Statement (.rtri d v1 rs2) := by
  intro h
  refine ⟨_, rfl, ?_⟩
  simp [fieldsRtri, decodeFields, decodeCustom3]

theorem RoundTrip.rcand (d v1 v2) : RoundTrip.Statement (.rcand d v1 v2) := by
  intro h
  refine ⟨_, rfl, ?_⟩
  simp [fieldsRcand, decodeFields, decodeCustom3]

theorem RoundTrip.racc (d v1) : RoundTrip.Statement (.racc d v1) := by
  intro h
  refine ⟨_, rfl, ?_⟩
  simp [fieldsRacc, decodeFields, decodeCustom3]

theorem RoundTrip.rrej (d v1) : RoundTrip.Statement (.rrej d v1) := by
  intro h
  refine ⟨_, rfl, ?_⟩
  simp [fieldsRrej, decodeFields, decodeCustom3]

theorem RoundTrip.qsph (d v1 rs2) : RoundTrip.Statement (.qsph d v1 rs2) := by
  intro h
  refine ⟨_, rfl, ?_⟩
  simp [fieldsQsph, decodeFields, decodeCustom3]

theorem RoundTrip.qknn (d v1 rs2) : RoundTrip.Statement (.qknn d v1 rs2) := by
  intro h
  refine ⟨_, rfl, ?_⟩
  simp [fieldsQknn, decodeFields, decodeCustom3]

theorem RoundTrip.qkey (d v1 rs2) : RoundTrip.Statement (.qkey d v1 rs2) := by
  intro h
  refine ⟨_, rfl, ?_⟩
  simp [fieldsQkey, decodeFields, decodeCustom3]

theorem RoundTrip.vedge (d v1 rs2) : RoundTrip.Statement (.vedge d v1 rs2) := by
  intro h
  refine ⟨_, rfl, ?_⟩
  simp [fieldsVedge, decodeFields, decodeCustom3]

theorem RoundTrip.tsamp (d v1 rs2) : RoundTrip.Statement (.tsamp d v1 rs2) := by
  intro h
  refine ⟨_, rfl, ?_⟩
  simp [fieldsTsamp, decodeFields, decodeCustom3]

theorem RoundTrip.tfetch (d v1 rs2) : RoundTrip.Statement (.tfetch d v1 rs2) := by
  intro h
  refine ⟨_, rfl, ?_⟩
  simp [fieldsTfetch, decodeFields, decodeCustom3]

theorem RoundTrip.tdecode (d v1 rs2) : RoundTrip.Statement (.tdecode d v1 rs2) := by
  intro h
  refine ⟨_, rfl, ?_⟩
  simp [fieldsTdecode, decodeFields, decodeCustom3]

theorem RoundTrip.storeBufferDrain (h k) : RoundTrip.Statement (.storeBufferDrain h k) := by
  intro h; cases h

theorem RoundTrip.scalarLoadReturn (h k) : RoundTrip.Statement (.scalarLoadReturn h k) := by
  intro h; cases h

theorem RoundTrip.pageTableWalk (h va) : RoundTrip.Statement (.pageTableWalk h va) := by
  intro h; cases h

theorem RoundTrip.adUpdate (h) : RoundTrip.Statement (.adUpdate h) := by
  intro h; cases h

theorem RoundTrip.spanEntryFetch (h g) : RoundTrip.Statement (.spanEntryFetch h g) := by
  intro h; cases h

theorem RoundTrip.streamDetectorExpiry (h k) : RoundTrip.Statement (.streamDetectorExpiry h k) := by
  intro h; cases h

theorem RoundTrip.vectorGroupIssue (h q) : RoundTrip.Statement (.vectorGroupIssue h q) := by
  intro h; cases h

theorem RoundTrip.vectorAccessComplete (h k) : RoundTrip.Statement (.vectorAccessComplete h k) := by
  intro h; cases h

theorem RoundTrip.noticeUpcall (h) : RoundTrip.Statement (.noticeUpcall h) := by
  intro h; cases h

theorem RoundTrip.vcfgReconfigure (h) : RoundTrip.Statement (.vcfgReconfigure h) := by
  intro h; cases h

theorem RoundTrip.leewayConfigApply (h) : RoundTrip.Statement (.leewayConfigApply h) := by
  intro h; cases h

theorem RoundTrip.ldfeWake (h) : RoundTrip.Statement (.ldfeWake h) := by
  intro h; cases h

theorem RoundTrip.feTimeout (h q) : RoundTrip.Statement (.feTimeout h q) := by
  intro h; cases h

theorem RoundTrip.ringArrival (h k) : RoundTrip.Statement (.ringArrival h k) := by
  intro h; cases h

theorem RoundTrip.ringConsumerRelease (h k) : RoundTrip.Statement (.ringConsumerRelease h k) := by
  intro h; cases h

theorem RoundTrip.copyMove (h ch k n) : RoundTrip.Statement (.copyMove h ch k n) := by
  intro h; cases h

theorem RoundTrip.copyComplete (h ch k) : RoundTrip.Statement (.copyComplete h ch k) := by
  intro h; cases h

theorem RoundTrip.channelResetDone (h) : RoundTrip.Statement (.channelResetDone h) := by
  intro h; cases h

theorem RoundTrip.waitcRelease (h) : RoundTrip.Statement (.waitcRelease h) := by
  intro h; cases h

theorem RoundTrip.fenceVsRelease (h) : RoundTrip.Statement (.fenceVsRelease h) := by
  intro h; cases h

theorem RoundTrip.streamGroupArrival (h ep) : RoundTrip.Statement (.streamGroupArrival h ep) := by
  intro h; cases h

theorem RoundTrip.streamProbeSend (h) : RoundTrip.Statement (.streamProbeSend h) := by
  intro h; cases h

theorem RoundTrip.streamProbeHop (h) : RoundTrip.Statement (.streamProbeHop h) := by
  intro h; cases h

theorem RoundTrip.linkTurnBegin (l) : RoundTrip.Statement (.linkTurnBegin l) := by
  intro h; cases h

theorem RoundTrip.linkTurnDrained (l) : RoundTrip.Statement (.linkTurnDrained l) := by
  intro h; cases h

theorem RoundTrip.linkTurnDone (l) : RoundTrip.Statement (.linkTurnDone l) := by
  intro h; cases h

theorem RoundTrip.waysetComplete (c) : RoundTrip.Statement (.waysetComplete c) := by
  intro h; cases h

theorem RoundTrip.wdqAnswer (k) : RoundTrip.Statement (.wdqAnswer k) := by
  intro h; cases h

theorem RoundTrip.dispatch (cl) : RoundTrip.Statement (.dispatch cl) := by
  intro h; cases h

theorem RoundTrip.gangTick (h) : RoundTrip.Statement (.gangTick h) := by
  intro h; cases h

theorem RoundTrip.queueAging (q) : RoundTrip.Statement (.queueAging q) := by
  intro h; cases h

theorem RoundTrip.candidateReservation (cl q) : RoundTrip.Statement (.candidateReservation cl q) := by
  intro h; cases h

theorem RoundTrip.batchWaitExpiry (q) : RoundTrip.Statement (.batchWaitExpiry q) := by
  intro h; cases h

theorem RoundTrip.exitPerform (h) : RoundTrip.Statement (.exitPerform h) := by
  intro h; cases h

theorem RoundTrip.issueLoweringEnd (c) : RoundTrip.Statement (.issueLoweringEnd c) := by
  intro h; cases h

theorem RoundTrip.ticketApply (c k) : RoundTrip.Statement (.ticketApply c k) := by
  intro h; cases h

theorem RoundTrip.unitRetry (h) : RoundTrip.Statement (.unitRetry h) := by
  intro h; cases h

theorem RoundTrip.barrierPhaseComplete (c w) : RoundTrip.Statement (.barrierPhaseComplete c w) := by
  intro h; cases h

theorem RoundTrip.wevReturn (h) : RoundTrip.Statement (.wevReturn h) := by
  intro h; cases h

theorem RoundTrip.barrierTimeout (h) : RoundTrip.Statement (.barrierTimeout h) := by
  intro h; cases h

theorem RoundTrip.leaseGrant (cl) : RoundTrip.Statement (.leaseGrant cl) := by
  intro h; cases h

theorem RoundTrip.leaseBudgetEnd (cl) : RoundTrip.Statement (.leaseBudgetEnd cl) := by
  intro h; cases h

theorem RoundTrip.tileParkDone (cl) : RoundTrip.Statement (.tileParkDone cl) := by
  intro h; cases h

theorem RoundTrip.tileRestoreDone (cl) : RoundTrip.Statement (.tileRestoreDone cl) := by
  intro h; cases h

theorem RoundTrip.arrayCommandStart (cl) : RoundTrip.Statement (.arrayCommandStart cl) := by
  intro h; cases h

theorem RoundTrip.arrayCommandComplete (cl k) : RoundTrip.Statement (.arrayCommandComplete cl k) := by
  intro h; cases h

theorem RoundTrip.weightBufferClearDone (cl) : RoundTrip.Statement (.weightBufferClearDone cl) := by
  intro h; cases h

theorem RoundTrip.preemptTaken (h) : RoundTrip.Statement (.preemptTaken h) := by
  intro h; cases h

theorem RoundTrip.interruptTaken (h) : RoundTrip.Statement (.interruptTaken h) := by
  intro h; cases h

theorem RoundTrip.wfiWake (h) : RoundTrip.Statement (.wfiWake h) := by
  intro h; cases h

theorem RoundTrip.pauseEnd (h) : RoundTrip.Statement (.pauseEnd h) := by
  intro h; cases h

theorem RoundTrip.yieldEnd (h) : RoundTrip.Statement (.yieldEnd h) := by
  intro h; cases h

theorem RoundTrip.alarmInterrupt (h) : RoundTrip.Statement (.alarmInterrupt h) := by
  intro h; cases h

theorem RoundTrip.killComplete (c) : RoundTrip.Statement (.killComplete c) := by
  intro h; cases h

theorem RoundTrip.vstupdComplete (h) : RoundTrip.Statement (.vstupdComplete h) := by
  intro h; cases h

theorem RoundTrip.shootdownComplete : RoundTrip.Statement .shootdownComplete := by
  intro h; cases h

theorem RoundTrip.homeTableChangeDone : RoundTrip.Statement .homeTableChangeDone := by
  intro h; cases h

theorem RoundTrip.contextResidentDone (c) : RoundTrip.Statement (.contextResidentDone c) := by
  intro h; cases h

theorem RoundTrip.vsaveWrite (h) : RoundTrip.Statement (.vsaveWrite h) := by
  intro h; cases h

theorem RoundTrip.vrestoreLoad (h) : RoundTrip.Statement (.vrestoreLoad h) := by
  intro h; cases h

theorem RoundTrip.islandClockDone (cl array) : RoundTrip.Statement (.islandClockDone cl array) := by
  intro h; cases h

theorem RoundTrip.islandOffDone (cl array) : RoundTrip.Statement (.islandOffDone cl array) := by
  intro h; cases h

theorem RoundTrip.islandOnDone (cl array) : RoundTrip.Statement (.islandOnDone cl array) := by
  intro h; cases h

theorem RoundTrip.governorSample (grants throttles) : RoundTrip.Statement (.governorSample grants throttles) := by
  intro h; cases h

theorem RoundTrip.thermalTrip : RoundTrip.Statement .thermalTrip := by
  intro h; cases h

theorem RoundTrip.thermalClear : RoundTrip.Statement .thermalClear := by
  intro h; cases h

theorem RoundTrip.ethernetLinkChange (lane up) : RoundTrip.Statement (.ethernetLinkChange lane up) := by
  intro h; cases h

theorem RoundTrip.linkReplay (l) : RoundTrip.Statement (.linkReplay l) := by
  intro h; cases h

theorem RoundTrip.dieLinkError (die link) : RoundTrip.Statement (.dieLinkError die link) := by
  intro h; cases h

theorem RoundTrip.eccError (pa double) : RoundTrip.Statement (.eccError pa double) := by
  intro h; cases h

theorem RoundTrip.dieWarmReset (die) : RoundTrip.Statement (.dieWarmReset die) := by
  intro h; cases h

theorem RoundTrip.dieReadmit (die) : RoundTrip.Statement (.dieReadmit die) := by
  intro h; cases h

theorem RoundTrip.powerGood (verified) : RoundTrip.Statement (.powerGood verified) := by
  intro h; cases h

theorem RoundTrip.dieAdmit (die) : RoundTrip.Statement (.dieAdmit die) := by
  intro h; cases h

theorem RoundTrip.memoryTrained : RoundTrip.Statement .memoryTrained := by
  intro h; cases h

theorem RoundTrip.rdmaWriteIn (qp key addr data) : RoundTrip.Statement (.rdmaWriteIn qp key addr data) := by
  intro h; cases h

theorem RoundTrip.rdmaReadIn (qp key addr len) : RoundTrip.Statement (.rdmaReadIn qp key addr len) := by
  intro h; cases h

theorem RoundTrip.rdmaSendIn (qp data) : RoundTrip.Statement (.rdmaSendIn qp data) := by
  intro h; cases h

theorem RoundTrip.remoteQpush (qp key addr data) : RoundTrip.Statement (.remoteQpush qp key addr data) := by
  intro h; cases h

theorem RoundTrip.remoteResponse (h k data) : RoundTrip.Statement (.remoteResponse h k data) := by
  intro h; cases h

theorem RoundTrip.qpAckTimeout (qp) : RoundTrip.Statement (.qpAckTimeout qp) := by
  intro h; cases h

theorem RoundTrip.ptpMessage (kind) : RoundTrip.Statement (.ptpMessage kind) := by
  intro h; cases h

theorem RoundTrip.homeTableWrite (h) : RoundTrip.Statement (.homeTableWrite h) := by
  intro h; cases h

theorem RoundTrip.shootCmdWrite (h) : RoundTrip.Statement (.shootCmdWrite h) := by
  intro h; cases h

theorem RoundTrip.pgdoneWrite (h) : RoundTrip.Statement (.pgdoneWrite h) := by
  intro h; cases h

theorem RoundTrip.arrbindWrite (h) : RoundTrip.Statement (.arrbindWrite h) := by
  intro h; cases h

theorem RoundTrip.tsaveWrite (h) : RoundTrip.Statement (.tsaveWrite h) := by
  intro h; cases h

theorem RoundTrip.qctlWrite (h) : RoundTrip.Statement (.qctlWrite h) := by
  intro h; cases h

theorem RoundTrip.preemptRequest (h) : RoundTrip.Statement (.preemptRequest h) := by
  intro h; cases h

theorem RoundTrip.preemptCancel (h) : RoundTrip.Statement (.preemptCancel h) := by
  intro h; cases h

theorem RoundTrip.eventCounterClear (h) : RoundTrip.Statement (.eventCounterClear h) := by
  intro h; cases h

theorem RoundTrip.chronadjWrite (h) : RoundTrip.Statement (.chronadjWrite h) := by
  intro h; cases h

theorem RoundTrip.chronstepWrite (h) : RoundTrip.Statement (.chronstepWrite h) := by
  intro h; cases h

theorem RoundTrip.linkevRead (h) : RoundTrip.Statement (.linkevRead h) := by
  intro h; cases h

theorem RoundTrip.contextMakeResident (h) : RoundTrip.Statement (.contextMakeResident h) := by
  intro h; cases h

theorem RoundTrip.contextRelease (h) : RoundTrip.Statement (.contextRelease h) := by
  intro h; cases h

theorem RoundTrip.alarmWrite (h) : RoundTrip.Statement (.alarmWrite h) := by
  intro h; cases h

theorem RoundTrip.qpcmdApply (h) : RoundTrip.Statement (.qpcmdApply h) := by
  intro h; cases h

theorem RoundTrip.qpcmdFetch (h) : RoundTrip.Statement (.qpcmdFetch h) := by
  intro h; cases h

theorem RoundTrip.qpcmdApplyDone : RoundTrip.Statement .qpcmdApplyDone := by
  intro h; cases h

theorem RoundTrip.deviceRegisterWrite (h) : RoundTrip.Statement (.deviceRegisterWrite h) := by
  intro h; cases h

theorem RoundTrip.illegalInstruction (h w) : RoundTrip.Statement (.illegalInstruction h w) := by
  intro h; cases h

theorem RoundTrip.instructionFetchFault (h) : RoundTrip.Statement (.instructionFetchFault h) := by
  intro h; cases h

theorem RoundTrip.vaqGroupLanded (h) : RoundTrip.Statement (.vaqGroupLanded h) := by
  intro h; cases h

theorem RoundTrip.invalidRequestNak (qp) : RoundTrip.Statement (.invalidRequestNak qp) := by
  intro h; cases h

end Sys2Proof.Laws
end

