-- ==== Sys2Proof/Tests/Slice0.lean ====
section
/-!
SUPPORT. The model's own tests.
-/
namespace Sys2Proof.Machine

set_option maxRecDepth 100000

theorem test_reset_memory : Memory.wf State.reset = true := by decide

/-! ## Words written out from the spec's encodings -/

/-- Worked words of the encoding chapters: custom-0 control. -/
theorem test_decode_control :
    decode 0xFC15008B#32 = some (.vloop 10 1 (-32)) ∧ decode 0xFE06868B#32 = some (.vloop 13 0 (-10)) ∧
    decode 0x0002900B#32 = some (.vloopcfg 0 5) ∧ decode 0x0466930B#32 = some (.vsetlen 6 13 6) ∧
    decode 0x0E12958B#32 = some (.flsc 11 5 1) ∧ decode 0x1411200B#32 = some (.waitc 0 2 1 0) ∧
    decode 0x1600400B#32 = some (.fenceVs 3) := by decide

/-- Worked words of the rings, copies and full/empty accesses. -/
theorem test_decode_staging :
    decode 0x0613A50B#32 = some (.ringacq 10 7 1) ∧ decode 0x0810250B#32 = some (.ringrel 10 1) ∧
    decode 0x0A0E208B#32 = some (.ringexp 1 28) ∧ decode 0x1000250B#32 = some (.cplaunch 10 0) ∧
    decode 0x0E12A10B#32 = some (.cpset 2 5 1) ∧ decode 0x1AB5228B#32 = some (.tack 5 10 11) ∧
    decode 0x025C200B#32 = some (.stfe 24 5) ∧ decode 0x000C2F0B#32 = some (.ldfe 30 24) := by decide

/-- Worked words of the queues, tasks and commits. -/
theorem test_decode_tasks :
    decode 0x00C5B50B#32 = some (.qpush 10 11 12) ∧ decode 0x0425300B#32 = some (.exit 10 2) ∧
    decode 0x0AC5B00B#32 = some (.tcommit 11 12) ∧ decode 0x0C06B00B#32 = some (.tskip 13) ∧
    decode 0x0EC5B00B#32 = some (.tcfg 11 12) := by decide

/-- Worked words of the synchronising group. -/
theorem test_decode_sync :
    decode 0x38B6450B#32 = some (.amoaddf 10 12 11 4) ∧ decode 0x4463C28B#32 = some (.amomaxf 5 7 6 2) ∧
    decode 0x5002C00B#32 = some (.bwcfg 5 0) ∧ decode 0x6003400B#32 = some (.bwarr 6 0) ∧
    decode 0x8003C50B#32 = some (.wev 10 7) := by decide

/-- Worked words of the system group. -/
theorem test_decode_system :
    decode 0x0205D50B#32 = some (.fqpop 10 11) ∧ decode 0x0605500B#32 = some (.kill 10) ∧
    decode 0x08B5528B#32 = some (.islctl 5 10 11) ∧ decode 0x0A05500B#32 = some (.vsave 10) ∧
    decode 0x0C05500B#32 = some (.vrestore 10) := by decide

/-- Worked words of custom-1. -/
theorem test_decode_vector :
    decode 0x001121AB#32 = some (.vadd 3 2 2 1 0) ∧ decode 0x6E15012B#32 = some (.vfmacc 2 0 10 1 1) ∧
    decode 0x960E01AB#32 = some (.vmv 3 0 28 1) ∧ decode 0xF040832B#32 = some (.vbvrd 6 1 4) := by decide

/-- Worked words of custom-2. -/
theorem test_decode_vector_memory :
    decode 0x1025125B#32 = some (.vldx 4 1 10 2 0) ∧ decode 0x3085835B#32 = some (.vamomin 6 0 11 8) ∧
    decode 0x0607815B#32 = some (.vst 2 0 15 1) ∧ decode 0x2935825B#32 = some (.vqst 4 11 3 1) ∧
    decode 0x1C05015B#32 = some (.vldfe 2 0 10) := by decide

/-- Worked words of custom-3. -/
theorem test_decode_matrix :
    decode 0x8631037B#32 = some (.vmmaE4q 6 2 3 16) ∧ decode 0x000012FB#32 = some (.mlease 5) ∧
    decode 0x04B5107B#32 = some (.mwld 10 11) ∧ decode 0x0B3612FB#32 = some (.mst 1 1 12 3 2) ∧
    decode 0x0CD61F7B#32 = some (.mmacE4e4 2 12 13 7) ∧ decode 0x74B51FFB#32 = some (.mmacBf16 3 10 11 31) := by decide

/-- Worked words of the ray, raster and texture instructions. -/
theorem test_decode_graphics :
    decode 0x02A4A27B#32 = some (.rtri 4 9 10) ∧ decode 0x044222FB#32 = some (.rcand 5 4 4) ∧
    decode 0x0602A2FB#32 = some (.racc 5 5) ∧ decode 0x0070B17B#32 = some (.vedge 2 1 7) ∧
    decode 0x02B1337B#32 = some (.tsamp 6 2 11) := by decide

/-- Base words, written out from Tables 3-1 to 3-4: add, an addi of -1, a store, a branch back, an AMO, an fmadd, mret. -/
theorem test_decode_base :
    decode 0x00A50533#32 = some (.add 10 10 10) ∧ decode 0xFFF00513#32 = some (.addi 10 0 (-1)) ∧
    decode 0x00053583#32 = some (.ld 11 10 0) ∧ decode 0xFEA5BC23#32 = some (.sd 11 10 (-8)) ∧
    decode 0xFE0518E3#32 = some (.bne 10 0 (-8)) ∧ decode 0x06C5B52F#32 = some (.amoaddD 10 11 12 1 1) ∧
    decode 0x68C58543#32 = some (.fmaddS 10 0 11 12 13) ∧ decode 0x68C5D543#32 = none ∧ decode 0x30200073#32 = some .mret ∧
    decode 0x40A5D593#32 = some (.srai 11 11 10) := by decide

/-- Words that the tables leave unassigned or reserve: a wrong fn3, scope codes 6 and 7, mmac with fn7[6] set, the zero word. -/
theorem test_decode_reserved :
    decode 0x1600C00B#32 = none ∧ decode 0x3C00400B#32 = none ∧ decode 0x1E00400B#32 = none ∧
    decode 0x8CD61F7B#32 = none ∧ decode 0x00000000#32 = none := by decide

/-! ## Ill-formed instructions: one for each check of WellFormed, with the boundary value that passes beside it -/

theorem test_ill_formed :
    ([.fence 0 0 3 3 8, .fence 0 0 0 1 0, .faddS 1 5 2 3, .fcvtSW 1 6 2, .vloop 0 1 4, .vsetlen 1 2 7, .vsetlen 1 2 12,
      .ringset 1 0, .cpset 1 2 7, .exit 1 5, .fenceSv 6, .fenceVs 7, .fenceVv 6, .amoaddf 1 2 3 6, .amomaxf 1 2 3 7,
      .bwcfg 1 3, .bwarr 1 3, .bwtst 1 3, .vcvt 1 0 15 2, .vqld 1 2 6, .vqst 1 2 6 0, .vmmaE4e4 1 2 3 1, .vmmaBf16 1 2 3 15,
      .vmmaE4q 1 2 3 17, .vmmaE5e4 1 2 3 31, .mst 1 0 2 6 0, .dispatch 0] : List Instr).all (fun i => !i.wellFormed) = true := by
  decide

theorem test_well_formed_at_the_bounds :
    ([.fence 0 0 3 3 0, .fence 0 0 1 1 0, .faddS 1 4 2 3, .fcvtSW 1 7 2, .vloop 1 1 4, .vsetlen 1 2 6, .vsetlen 1 2 11,
      .ringset 1 1, .cpset 1 2 6, .exit 1 4, .fenceSv 5, .fenceVs 0, .fenceVv 5, .amoaddf 1 2 3 5, .amomaxf 1 2 3 0,
      .bwcfg 1 2, .bwarr 1 0, .bwtst 1 2, .vcvt 1 0 11 2, .vqld 1 2 5, .vqst 1 2 0 3, .vmmaE4e4 1 2 3 0, .vmmaBf16 1 2 3 16,
      .mst 1 0 2 5 0] : List Instr).all Instr.wellFormed = true := by decide

/-! ## States for the witnesses and the small tests -/

/-- A part in service, with strand 0 as given (in M-mode where nothing else is said). -/
def tH (f : Hart → Hart) : State :=
  { State.reset with
    dev := { Device.reset with powered := true, trained := true, admitted := [(0, true), (1, true), (2, true), (3, true)] }
    harts := [(0, f { Hart.reset true with on := true })] }

/-- As `tH`, with strand 0 in U-mode as a task of context 1. -/
def tU (f : Hart → Hart) : State :=
  tH (fun h => f { h with mode := .u, task := some { ctx := 1, cls := 0, prio := 0, slot := none, coord := 0 } })

/-- The x registers x1 and x2. -/
def tX (a b : Word) (h : Hart) : Hart := { h with x := [(1, a), (2, b)] }

/-- A hart with mstatus.FS = 1 and a given frm. -/
def tF (frm : BitVec 3) (h : Hart) : Hart := { h with frm := frm, csr := { h.csr with mstatus := 0x2000 } }

/-! ## Hypotheses of the statements about base instructions -/

theorem witness_jump_and_branch :
    TargetOk ((tH id).hart 0).pc ∧ TargetOk (((tH id).hart 0).pc + ((2#20) ++ 0#1).signExtend 64) ∧
    TargetOk (((tH (tX 4 4)).rx 1 + (1#12).signExtend 64) &&& ~~~1#64) ∧ (tH (tX 4 4)).rx 1 = (tH (tX 4 4)).rx 2 ∧
    (tH (tX (-1) 4)).rx 1 ≠ (tH (tX (-1) 4)).rx 2 ∧ ((tH (tX (-1) 4)).rx 1).toInt < ((tH (tX (-1) 4)).rx 2).toInt ∧
    ¬((tH (tX (-1) 4)).rx 1).toNat < ((tH (tX (-1) 4)).rx 2).toNat := by
  unfold TargetOk; decide

theorem witness_misaligned :
    ¬TargetOk (((tH id).hart 0).pc + ((1#20) ++ 0#1).signExtend 64) ∧ ¬TargetOk (((tH (tX 3 0)).rx 1 + 0) &&& ~~~1#64) ∧
    32 < ((tH (tX 31 0)).rx 1).toNat % 32 + 2 ∧ 32 < ((tH (tX 29 0)).rx 1).toNat % 32 + 4 ∧
    32 < ((tH (tX 25 0)).rx 1).toNat % 32 + 8 ∧ ((tH (tX 31 0)).rx 1).toNat % 4 ≠ 0 ∧ ((tH (tX 4 0)).rx 1).toNat % 8 ≠ 0 ∧
    (5#3).toNat ≤ 5 ∧
    fld ((tH (fun h => { h with csr := { h.csr with mstatus := 0x2000 } })).hart 0).csr.mstatus 13 2 ≠ 0 := by
  unfold TargetOk; decide

theorem witness_calls_and_returns :
    ((tU id).hart 0).mode = .u ∧ ((tH (fun h => { h with mode := .s })).hart 0).mode = .s ∧ ((tH id).hart 0).mode = .m ∧
    ((tH (fun h => { h with mode := .s })).hart 0).csr.mstatus.getLsbD 22 = false ∧
    fld ((tH (fun h => { h with csr := { h.csr with mstatus := 0x1800 } })).hart 0).csr.mstatus 11 2 = 3 ∧
    fld ((tH id).hart 0).csr.mstatus 11 2 ≠ 3 := by decide

/-- A load of 8 bytes at the own scratchpad, in M-mode: the access reaches memory and its data are at hand; a store beside it; and a
load of I/O memory or of memory that L1 does not hold waits for its data. -/
theorem witness_load_and_store :
    Reaches (tH id) (BitVec.ofNat 64 (scratchBase 0)) 8 .load false (.phys (scratchBase 0)) ∧
    (tH id).quick 0 (.phys (scratchBase 0)) 8 = true ∧
    Reaches (tH id) 0x1000 8 .load false (.phys 0x1000) ∧ (tH id).quick 0 (.phys 0x1000) 8 = false ∧
    Reaches (tH id) 0x1018 8 .store true (.phys 0x1018) ∧ ((tH id).hart 0).stores.length < 8 ∧
    8 ≤ ((tH (fun h => { h with stores := List.replicate 8 ⟨0, 64, 64, 8, 0, false, none⟩ })).hart 0).stores.length := by
  unfold Reaches MemoryAt
  refine ⟨⟨by decide, .inl ⟨0, 0, by decide⟩, by decide, by decide⟩, by decide, ⟨by decide, .inr (.inr (by decide)), by decide, by decide⟩,
    by decide, ⟨by decide, .inr (.inr (by decide)), by decide, by decide⟩, by decide, by decide⟩

/-- A store to memory of I/O type (PBMT 2): only a page table gives that type, so the witness has Sv57 on and the page in the core's
translation buffer. -/
def tIo : State :=
  { tU (fun h => { h with csr := { h.csr with satp := 0xA000000000000000 } }) with
    cores := [(0, { Core.reset with
      tlb := [{ vpn := 1, bits := 12, asid := 0, global := false, pte := 0x40000000000004D7, ptePa := 0x2008 }] })] }

theorem witness_store_io : Reaches tIo 0x1000 8 .store true { Hit.phys 0x1000 with pbmt := 2, mapped := true } ∧ Reaches tIo 0x1000 8 .load false { Hit.phys 0x1000 with pbmt := 2, mapped := true } := by
  unfold Reaches MemoryAt
  exact ⟨⟨by decide, .inr (.inr (by decide)), by decide, by decide⟩, ⟨by decide, .inr (.inr (by decide)), by decide, by decide⟩⟩

theorem witness_reserve_and_conditional :
    AtomicGoes (tH id) 0x1000 4 .reserve false false false (.phys 0x1000) ∧
    AtomicGoes (tH id) 0x1000 8 .atomic true true true (.phys 0x1000) ∧
    ((tH (fun h => { h with resv := some (0x1000, 4) })).hart 0).resv = some (0x1000, 4) ∧ ((tH id).hart 0).resv ≠ some (0x1000, 4) := by
  unfold AtomicGoes; decide

/-! ## Hypotheses of the statements about floating point, CSRs, fences, the step -/

theorem witness_float :
    FsOn (tH (tF 4)) ∧ ¬FsOn (tH id) ∧ RoundsBy (tH (tF 4)) 4 4 ∧ RoundsBy (tH (tF 4)) 7 4 ∧ ¬(∃ m, RoundsBy (tH (tF 5)) 7 m) ∧
    ¬(∃ m, RoundsBy (tH (tF 0)) 5 m) := by
  unfold FsOn RoundsBy
  exact ⟨by decide, by decide, .inl (by decide), .inr (by decide),
    fun ⟨_, h⟩ => h.elim (fun h => absurd h.1 (by decide)) (fun h => absurd h.2.1 (by decide)),
    fun ⟨_, h⟩ => h.elim (fun h => absurd h.1 (by decide)) (fun h => absurd h.1 (by decide))⟩

/-- RoundingIsCorrect: the largest rounding mode, and the least magnitude. -/
theorem witness_rounding : 4 < 5 ∧ 0 < 1 ∧ (Fmt.f32.round 0 false 1 0 false).1 = 0x3F800000 ∧
    (Fmt.f32.round 0 false (2 ^ 25 - 1) 103 false).1 = 0x7F800000 := by decide

theorem witness_csr :
    (tH id).csrValue 0 0x340 = some 0 ∧ CsrReachable (tH id) 0x340 true ∧ CsrReachable (tH id) 0xF14 false ∧
    ¬CsrReachable (tH id) 0xF14 true ∧ ¬CsrReachable (tU id) 0x340 false ∧ ¬CsrReachable (tH id) 0x001 true ∧
    CsrReachable (tH (tF 0)) 0x001 true ∧ ¬CsrReachable (tH id) 0x7FF false ∧ ¬CsrReachable (tU id) 0xC00 false := by
  refine ⟨?_, ?_, ?_, ?_, ?_, ?_, ?_, ?_, ?_⟩ <;> try dsimp only [CsrReachable, FsOn]
  all_goals decide

theorem witness_wait_and_fence :
    (tH (fun h => { h with csr := { h.csr with mipSw := 2 } })).mip 0 ≠ 0 ∧ (tH id).mip 0 = 0 ∧
    ((tH (fun h => { h with mode := .s, csr := { h.csr with mstatus := 0x300000 } })).hart 0).csr.mstatus.getLsbD 21 = true ∧
    ((tH id).hart 0).stores = [] ∧ ((tH (fun h => { h with stores := [⟨0, 64, 64, 8, 0, false, none⟩] })).hart 0).stores ≠ [] := by decide

/-- An addi x1, x0, 1 in device memory at 0x1000, with strand 0 in M-mode before it. -/
def tRun : State :=
  { tH (fun h => { h with pc := 0x1000 }) with mem := [(0x1000, 0x93), (0x1002, 0x10)] }

theorem witness_step_runs :
    tRun.agenda = [] ∧ tRun.runnable 0 = true ∧ tRun.notice 0 = none ∧ tRun.takes 0 = none ∧ tRun.work 0 = none ∧
    (tRun.hart 0).wait = .none ∧ tRun.loweredNow 0 = false ∧ tRun.fetchAt 0 = .ok (.phys 0x1000) ∧
    tRun.fetchWord 0 0x1000 = 0x00100093 ∧ decode 0x00100093#32 = some (.addi 1 0 1) ∧
    ((tRun.setAD (.phys 0x1000)).hart 0).ready (.addi 1 0 1) = true := by decide

/-- The same strand before a word of zeros, before an address outside device memory and the vaults, and at a pc of 2 modulo 4. -/
theorem witness_step_otherwise :
    decode (({ tRun with mem := [] } : State).fetchWord 0 0x1000) = none ∧
    (tH (fun h => { h with pc := BitVec.ofNat 64 (scratchBase 0) })).fetchAt 0 = .stop (.exc 1) ∧
    ((tH (fun h => { h with pc := 2 })).hart 0).pc.toNat % 4 ≠ 0 ∧ (Instr.dispatch 0).isEvent = true := by decide

theorem witness_step_keeps : State.Safe tRun ∧ State.Safe State.reset := by unfold State.Safe; decide

theorem witness_address_resolution :
    ¬((31 : Nat) % 32 + 2 ≤ 32) ∧ (24 : Nat) % 32 + 8 ≤ 32 ∧ ((tH id).hart 0).effMode .load = .m ∧
    ((tU id).hart 0).effMode .store = .u ∧ winOf 0x00FF000000000000 = .scratch 0 ∧ winOf 0x00FF0000000BFFE0 = .scratch 0xBFFE0 ∧
    winOf 0x00FF000100000000 = .vault 0 ∧
    ((tH (fun h => { h with mode := .s, csr := { h.csr with satp := 0xA000000000000000, mstatus := 0x40000 } })).hart 0).effMode .load = .s ∧
    fld ((tH (fun h => { h with csr := { h.csr with satp := 0xA000000000000000 } })).hart 0).csr.satp 60 4 = 10 ∧
    (0x40000#64).getLsbD 18 = true := by decide

/-! ## Hypotheses of the statements about the vector side -/

/-- Strand 0 with its vector side changed. -/
def tV (f : Vec → Vec) : State := tU (fun h => { h with vec := f h.vec })

/-- A vadd entry of 32 elements of i32. -/
def tEntry (op : VOp) : VEntry :=
  { seq := 0, pos := 0, entered := 0, q := .vaq, op := op, word := 0, x1 := 5, x2 := 0, fv := 0, scales := [], vl := 32, ty := 2, frm := 0,
    ncode := 2, slip := 15, next := 0, pend := [], got := [], res := none, since := none, probed := none, seen := [] }

theorem witness_vector_config :
    (tU id).cur < 2048 ∧ (6#4).toNat ≠ 7 ∧ (11#4).toNat < 12 ∧ ¬((12#4).toNat ≠ 7 ∧ (12#4).toNat < 12) ∧
    fld ((tU (tX 0xF2 0)).rx 1) 0 2 = ((tU id).hart 0).vec.ncode ∧ fld ((tU (tX 0xF0 0)).rx 1) 0 2 ≠ ((tU id).hart 0).vec.ncode ∧
    ((tU id).hart 0).vec.queue = [] ∧ ((tV (fun v => { v with queue := [tEntry (.vid 1 0)] })).hart 0).vec.queue ≠ [] ∧
    ¬(fld ((tU (tX 3 0)).rx 1) 0 2 < 3) ∧ ¬(fld ((tU (tX 6 0)).rx 1) 2 2 = 0) ∧
    ((tV (fun v => { v with resume := [⟨0, 0, 0, 0, 0, [], 4, 2, 0, 2, 0⟩] })).hart 0).vec.resume ≠ [] := by decide

/-- A loop slot with address register x14 at scale 4, P and M as given. -/
def tLoop (prev : Option Word) (miss : Nat) (count vl : Nat) : State :=
  tU (fun h => { h with
    x := [(13, BitVec.ofNat 64 count)]
    vec := { h.vec with vl := vl, loops := [(0, { cfg := 0x8E, prev := prev, miss := miss, creg := none })] } })

/-- LoopResults: a legal loop that goes on, one that ends, one that traps, a clash of two entries, and xc among the registers. -/
theorem witness_loops :
    fld ((tLoop none 0 200 64).rx 13) 0 64 = 200 ∧ 0 < ((tLoop none 0 200 64).rx 13 - 64).toInt ∧
    ¬0 < ((tLoop (some 136) 0 64 64).rx 13 - 64).toInt ∧
    2 ≤ (if ((some (200 : Word)).getD 0).toInt ≤ ((tLoop (some 200) 1 200 0).rx 13 - 0).toInt then 1 + 1 else 0) ∧
    fld (0x008E008E#64) 0 5 = fld (0x008E008E#64) 16 5 ∧ fld (0x008E008E#64) 0 5 ≠ 0 ∧
    (∀ j, j < 4 → fld (0x8E#64) (16 * j) 5 ≠ (13#5).toNat) ∧ fld (0x8E#64) 0 5 = (14#5).toNat ∧ TargetOk (0#64 + ((-10#12) ++ 0#1).signExtend 64) := by
  unfold TargetOk; decide

theorem witness_leeway_and_scale :
    fld (0xFF0100#64) 0 9 = 256 ∧ fld (0xFF0100#64) 16 8 = 255 ∧ fld (0xFF0100#64) 9 7 = 0 ∧
    fld (0x0#64) 0 9 = 0 ∧ (VOp.qst 1 3 1).names 1 = true ∧ (VOp.qst 1 3 1).names 0 = false ∧ (tU id).acmds 0 = [] ∧
    FsOn (tU (tF 0)) ∧ fld ((tU (tX 0x7CD 0)).rx 1) 0 12 = 0x7CD ∧ 16 ≤ 0x7CD ∧ 0x7CD < 4080 := by
  unfold FsOn; decide

theorem witness_vector_enters :
    VregOk (tU id) 31 ∧ ¬VregOk (tV (fun v => { v with ncode := 0 })) 8 ∧ IntType (tU id) ∧ FloatType (tV (fun v => { v with vetype := 4 })) ∧
    FloatType (tV (fun v => { v with vetype := 6 })) ∧ ¬IntType (tV (fun v => { v with vetype := 4 })) ∧ FrmOk (tU id) ∧ ¬FrmOk (tU (tF 5)) ∧
    HasRoom (tU id) .vaq ∧ HasRoom (tU id) .vlq ∧ HasRoom (tU id) .vsq ∧
    ¬HasRoom (tV (fun v => { v with queue := List.replicate 16 (tEntry (.vid 1 0)) })) .vaq ∧
    HasRoom (tV (fun v => { v with queue := List.replicate 15 (tEntry (.vid 1 0)) })) .vaq ∧
    ((tU id).rx 1).toNat ≤ 3 ∧ ((tV (fun v => { v with vl := 8192 })).hart 0).vec.vl % 32 = 0 := by
  dsimp only [VregOk, IntType, FloatType, FrmOk, HasRoom]; decide

/-- A receiving endpoint 0 whose peer is strand 4. -/
def tEp : Endpoint := { ctx := 1, parked := none, peer := 4, recv := true, link := .alone, buf := [], skip := false }

theorem witness_stream_enters :
    ∃ e, (tU (fun h => { h with stg := { h.stg with eps := [(0, tEp)] } })).endpoint 0 0 = some e ∧ e.recv = true :=
  ⟨tEp, by decide, by decide⟩

/-- The premises of the statements about elements: 32 elements of i32 from group 0, one of f32; an active element. -/
theorem witness_elements :
    (tEntry (.int .add true 3 2 1 0)).ty.toNat < 4 ∧ (tEntry (.int .add true 3 2 1 0)).vl * ebits (tEntry (.int .add true 3 2 1 0)).ty ≤ 65536 ∧
    (tEntry (.vid 1 0)).vl ≤ 8192 ∧ fmtOf 6 = some Fmt.f32 ∧ fmtOf 4 = some Fmt.f16 ∧ fmtOf 5 = some Fmt.bf16 ∧
    ActiveIn (tEntry (.vid 1 0)) (Vec.start 32) 0 0 31 ∧ ¬ActiveIn (tEntry (.vid 1 0)) (Vec.start 32) 1 0 31 := by
  dsimp only [ActiveIn]; decide

theorem witness_scalar_results :
    (List.range 32).all (fun i => !(Vec.start 32).mbit 1 i) = true ∧
    (((tV (fun v => { v with queue := [{ tEntry (.mvxs 5 2) with next := 1, res := some 7 }] })).hart 0).vec.queue.find?
      (fun a => decide (a.q = .vaq) && decide (a.groups ≤ a.next))).isSome = true ∧
    ((tV (fun v => { v with queue := [{ tEntry (.mvxs 5 2) with next := 1, res := some 7 }] })).landVaq 0).isSome = true := by decide

/-! ## Hypotheses of the statements about staging -/

/-- Strand 0 in M-mode with x1 at a doubleword of its own scratchpad, the line full or empty. -/
def tFe (full : Bool) : State :=
  { tH (tX (BitVec.ofNat 64 (scratchBase 0)) 7) with fe := if full then [(scratchBase 0 / 128, true)] else [] }

theorem witness_full_empty :
    (tFe true).access 0 ((tFe true).rx 1) 8 .load = .ok (.phys (scratchBase 0)) ∧
    (tFe true).access 0 ((tFe true).rx 1) 8 .store = .ok (.phys (scratchBase 0)) ∧
    (∃ c o, regionOf (scratchBase 0) = .scratch c o) ∧ (tFe true).full (scratchBase 0 / 128) = true ∧
    (tFe false).full (scratchBase 0 / 128) = false ∧ ((tFe true).hart 0).storing (scratchBase 0) 8 = false ∧
    ((tFe true).hart 0).loading (scratchBase 0) 8 = false ∧
    (tFe true).held 0 0 (scratchBase 0) 8 true = false ∧ ((tH (tX 4 0)).rx 1).toNat % 8 ≠ 0 ∧
    (tH (tX 0x1000 0)).access 0 0x1000 8 .load = .ok (.phys 0x1000) ∧
    (tH (tX 0x1000 0)).access 0 0x1000 8 .store = .ok (.phys 0x1000) ∧ ¬(∃ c o, regionOf 0x1000 = .scratch c o) := by
  refine ⟨by decide, by decide, ⟨0, 0, by decide⟩, by decide, by decide, by decide, by decide, by decide, by decide, by decide, by decide, ?_⟩
  rintro ⟨c, o, h⟩
  rw [show regionOf 0x1000 = .dram by decide] at h
  cases h

/-- A formed ring of four stages of 128 bytes in the own scratchpad, with one producer and one consumer, and strand 0 in it. -/
def tRing (rs : RingSlot) (r : Ring → Ring) (x : Word) : State :=
  { tU (fun h => { h with x := [(1, x)], stg := { h.stg with rings := [(1, rs)] } }) with
    clusters := [(0, { Cluster.reset with
      rings := [r { id := 0, group := (1, 0), desc := 0, vault := false, basePa := scratchBase 0, z := 128, n := 4, d := 4, p := 1, q := 1,
                    prods := 1, cons := 1, formed := true, r := 0, pendExp := 0
                    stages := [⟨0, 1, 1, true, 0⟩, ⟨1, 1, 0, false, 0⟩, ⟨2, 1, 0, false, 0⟩, ⟨3, 1, 0, false, 0⟩] }]
      ringSerial := 1 })] }

theorem witness_rings :
    (tU id).ringOf 0 1 = none ∧ ((tRing ⟨0, true, [], []⟩ id 0).ringOf 0 1).isSome = true ∧
    (((tRing ⟨0, true, [], []⟩ id 0).ringOf 0 1).map (fun p => (p.2.completeAt 0, p.2.completeAt 1, p.2.d, p.2.n))) = some (true, false, 4, 4) ∧
    4 ≤ ((tRing ⟨0, true, [], []⟩ id 4).rx 1).toNat ∧ ((tRing ⟨0, true, [0], []⟩ id 0).rx 1).toNat < 4 ∧
    (((tRing ⟨0, true, [0], []⟩ id 0).ringOf 0 1).map (fun p => decide (p.2.r ∈ p.1.acq))) = some true ∧
    (((tRing ⟨0, false, [2, 1], []⟩ id 0).ringOf 0 1).map (fun p => decide (∀ y ∈ p.1.acq, 1 ≤ y))) = some true ∧
    (((tRing ⟨0, false, [], []⟩ id 0).ringOf 0 1).map (fun p => p.1.acq)) = some [] := by decide

theorem witness_ring_membership :
    ((tU id).hart 0).stg.rings.find 1 = none ∧ ((tRing ⟨0, false, [], []⟩ id 0).hart 0).stg.rings.find 1 = some ⟨0, false, [], []⟩ ∧
    (((tRing ⟨0, false, [], []⟩ id 65535).ringOf 0 1).map (fun p => (p.2.stage p.2.open_).map Stage.exp)) = some (some 1) ∧
    65535 < 1 + ((tRing ⟨0, false, [], []⟩ id 65535).rx 1).toNat ∧ 1 + ((tRing ⟨0, false, [], []⟩ id 65534).rx 1).toNat ≤ 65535 ∧
    65535 < ((tRing ⟨0, false, [], []⟩ id 65536).rx 1).toNat ∧
    (((tRing ⟨0, false, [], []⟩ (fun r => { r with stages := [⟨0, 1, 1, true, 0⟩, ⟨1, 1, 1, true, 0⟩, ⟨2, 1, 1, true, 0⟩, ⟨3, 1, 1, true, 0⟩] }) 1).ringOf
      0 1).map (fun p => p.2.stage p.2.open_)) = some none := by decide

/-- A ring descriptor in device memory at 0x1000 as R205 lays it out (stage size 128, four stages, depth 4, one producer, one consumer,
base at the own scratch window), with x1 at it. -/
def tDesc (x : Word) : State :=
  { tH (fun h => { h with x := [(1, x)], task := some { ctx := 1, cls := 0, prio := 0, slot := none, coord := 0 } }) with
    mem := Tab.ins (Tab.ins (Tab.ins (Tab.ins (Tab.ins [] 0x1000 128) 0x1004 4) 0x1005 4) 0x1006 1) 0x1007 1 }

theorem witness_ringset_reads : ReadsNow (tDesc 0x1000) 0x1000 32 (.phys 0x1000) ∧ fld ((tDesc 0x1002).rx 1) 1 4 ≠ 0 ∧
    ((tDesc 0x1000).cluster 0).rings.length < 32 := by
  unfold ReadsNow Reaches MemoryAt
  exact ⟨⟨⟨by decide, .inr (.inr (by decide)), by decide, by decide⟩, by decide⟩, by decide, by decide⟩

/-- Strand 0 with channel 0 as given. -/
def tChan (c : Chan → Chan) : State := tH (fun h => { h with stg := { h.stg with chans := [(0, c Chan.start)] } })

/-- A transfer of 32 bytes, moved in whole or not at all. -/
def tXfer (moved : List Nat) : Xfer :=
  { id := 0, src := 0x1000, dst := 0x2000, len := 32, dims := [], zero := false, full := false, noAlloc := false, srcRing := none,
    dstRing := none, hart := 0, ctx := 16, mode := .m, pos := 0, satp := 0, mstatus := 0, moved := moved, stagesDone := [], tag := none }

theorem witness_copies :
    (6#5).toNat < 7 ∧ (6#5) ≠ 7 ∧ (0x8000000000000000#64).getLsbD 63 = true ∧
    ((tChan id).hart 0).stg.chans.get Chan.start 0 = Chan.start ∧ (Chan.start).xfers = [] ∧
    8 ≤ (((tChan (fun c => { c with xfers := List.replicate 8 (tXfer []) })).hart 0).stg.chans.get Chan.start 0).xfers.length ∧
    (((tChan (fun c => { c with xfers := List.replicate 7 (tXfer []) })).hart 0).stg.chans.get Chan.start 0).xfers.length < 8 ∧
    ((tChan (fun c => { c with xfers := List.replicate 8 (tXfer []) })).scoreboard 0).length = 8 ∧
    (tChan id).counts 0 = (0, 0, 0, 0) ∧ ¬((tChan (fun c => { c with xfers := [tXfer []] })).counts 0).2.2.1 ≤ (0#3).toNat := by decide

theorem witness_copy_launch :
    let c : Chan := { Chan.start with sh := [(0, 0x1000), (1, 0x2000), (2, 32)] }
    let s := tChan (fun _ => c)
    let x := s.newXfer 0 c
    fld (c.sh.get 0 2) 32 32 = 0 ∧ fld (c.sh.get 0 2) 0 32 ≠ 0 ∧ fld (c.sh.get 0 6) 3 61 = 0 ∧
    overlap x.srcBound.1 x.srcBound.2 x.dstBound.1 x.dstBound.2 = false ∧ x.virt = false ∧ regRange x.srcBound = false ∧ regRange x.dstBound = false := by
  decide

theorem witness_streams_and_turns :
    (tU id).endpoint 0 0 = none ∧ ((tU (fun h => { h with stg := { h.stg with eps := [(0, tEp)] } })).endpoint 0 0).isSome = true ∧
    (∀ e, e < 4 → ((tU (fun h => { h with stg := { h.stg with eps := [(0, tEp), (1, tEp), (2, tEp), (3, tEp)] } })).endpoint 0 e).isSome = true) ∧
    (tU (fun h => { h with stg := { h.stg with eps := [(0, tEp)] } })).epIdle 0 0 = true ∧
    fld ((tU (tX 2048 0)).rx 1) 0 12 = 2048 ∧ fld ((tU (tX 2047 0)).rx 1) 0 12 < 2048 ∧ fld ((tU (tX 0x2000 0)).rx 1) 13 51 ≠ 0 ∧
    fld (3#64) 0 2 = 3 ∧ (linkGroups (linkOf 0 0).1) - 2 < 63 ∧ ¬(linkGroups (linkOf 0 0).1 - 2 < (2#64).toNat) ∧
    ((tH id).link (linkOf 0 0).1).down = false ∧ (∀ d ∈ linkDies (linkOf 0 0).1, (tH id).dieUp d = true) ∧
    (∃ d ∈ linkDies (linkOf 1 0).1, State.reset.dieUp d = false) ∧ ((tH id).link (linkOf 0 0).1).fifo.length < 8 ∧
    (((tU id).ctxs.get { Context.reset with ctl := 2 } 1).ctl.getLsbD 1) = true := by decide

theorem witness_wayset :
    (tH (tX 0 1)).waysetOk 0 1 = true ∧ (tH id).waysetOk 512 0 = false ∧ (tH id).waysetOk 0 3 = false ∧ ((tH id).core 0).waysNew = none ∧
    ((tH id).hart 0).mode ≠ .u := by decide

theorem witness_directional_fences :
    (5#3).toNat < 6 ∧ 6 ≤ (6#3).toNat ∧ (tU id).vsReady 0 true = true ∧
    (tV (fun v => { v with queue := [{ tEntry (.st .unit false 1 0 0) with q := .vsq }], nextSeq := 1 })).vsReady 0 false = false ∧
    HasRoom (tU id) .vlq ∧ HasRoom (tU id) .vsq ∧
    ¬HasRoom (tV (fun v => { v with queue := List.replicate 16 { tEntry (.st .unit false 1 0 0) with q := .vsq } })) .vsq ∧
    ({ tH id with cur := 2048 } : State).cur = 2048 ∧ (({ tH id with cur := 2048 } : State).hart 2048).stores = [] := by
  dsimp only [HasRoom]; decide

/-! ## Hypotheses of the statements about queues, tasks, commits, barriers -/

/-- Queue 5 of context 1, valid, with watermark 2 of 3 and the records given, and strand 0 of that context in U-mode under Bare
translation of its own windows: x1 names the queue, x2 a 64-byte line of the scratch window. -/
def tQ (recs : List Record) (f : Hart → Hart) (qctl : Word := 0x11) : State :=
  { tU (fun h => f { h with x := [(1, 5), (2, 0x00FF000000000040)] }) with
    queues := [(5, { Queue.reset with qctl := qctl, qlim := 0x30002, recs := recs })] }

theorem witness_queues :
    fld ((tQ [] id).rx 1) 10 54 = 0 ∧ fld ((tU (tX 0x400 0)).rx 1) 10 54 ≠ 0 ∧ ((tQ [] id).rx 2).toNat % 64 = 0 ∧
    ((tU (tX 5 0x20)).rx 2).toNat % 64 ≠ 0 ∧ (tQ [] id).dieUp (5 / 256) = true ∧
    (∀ i, i < 8 → (tQ [] id).access 0 ((tQ [] id).rx 2 + BitVec.ofNat 64 (8 * i)) 8 .load = .ok (.phys (scratchBase 0 + 64 + 8 * i))) ∧
    (∀ i, i < 8 → (tQ [] id).access 0 ((tQ [] id).rx 2 + BitVec.ofNat 64 (8 * i)) 8 .store = .ok (.phys (scratchBase 0 + 64 + 8 * i))) ∧
    (∀ i, i < 8 → regionOf (scratchBase 0 + 64 + 8 * i) = .scratch 0 (64 + 8 * i)) ∧
    ((tQ [] id).queue 5).valid = true ∧ (tQ [] id).ctxOf 0 = some ((tQ [] id).queue 5).ctx ∧ ((tQ [] id).queue 5).bound = false ∧
    ((tQ [] id).queue 5).wmark = 2 ∧ ((tQ [] id).queue 5).hard = 3 ∧ (tQ [] id).held 0 0 0x00FF000000000040 64 false = false ∧
    ((tQ [] (fun h => { h with stores := [⟨0, 64, 64, 8, 0, false, none⟩] })).hart 0).stores ≠ [] ∧
    (tQ [] id).held 0 0 0x00FF000000000040 64 true = false := by decide

/-- qpop takes the older of two records of equal key; the second is younger. -/
theorem witness_qpop_key :
    (∀ (j : Nat) (r : Record), j < 64 → ([⟨7, 0, 0, false, 0⟩, ⟨3, 1, 0, false, 0⟩, ⟨3, 2, 0, false, 0⟩] : List Record)[j]? = some r →
      (⟨3, 1, 0, false, 0⟩ : Record).key ≤ r.key ∧ (r.key = (⟨3, 1, 0, false, 0⟩ : Record).key → 1 ≤ j)) := by
  intro j r hj
  match j with
  | 0 => intro h; cases h; decide
  | 1 => intro h; cases h; decide
  | 2 => intro h; cases h; decide
  | j + 3 => intro h; cases h

theorem witness_tasks :
    (4#5).toNat ≤ 4 ∧ 4 < (5#5).toNat ∧ ((tU (tX 4 0)).rx 1).toNat % 8 ≠ 0 ∧ ({ tH id with cur := 2048 } : State).cur = 2048 ∧
    fld ((tU (tX 63 0x00FF000000000008)).rx 1) 6 58 = 0 ∧ fld ((tU (tX 64 0)).rx 1) 6 58 ≠ 0 ∧
    (tU (tX 63 0x00FF000000000008)).access 0 0x00FF000000000008 8 .store = .ok (.phys (scratchBase 0 + 8)) ∧
    winOf 0x00FF000000000008 = .scratch 8 ∧ ((tU id).hart 0).effMode .store = .u ∧
    (tH (tX 63 0x1000)).access 0 0x1000 8 .store = .ok (.phys 0x1000) ∧ ((tH id).hart 0).effMode .store = .m ∧
    fld ((tH (tX 0x100000007 5)).rx 1) 36 28 = 0 ∧ (tH (tX 0x100000007 5)).rx 2 ≠ 0 ∧ (tH id).dev.gangs.length < 16 ∧
    16 ≤ (List.replicate 16 ((2, 9, 5) : Nat × Nat × Word)).length := by decide

/-- exit with one successor, J = 0: the list at scratch offset 64 names the block at scratch offset 128. -/
def tExit : State :=
  let b := scratchBase 0
  { tQ [] (fun h => { h with x := [(1, 0x00FF000000000040)] }) with
    mem := [(b + 64, 128), (b + 70, 0xFF), (b + 144, 0x21), (b + 148, 0xA0)] }

theorem witness_exit_reads :
    ReadsNow tExit 0x00FF000000000040 8 (.phys (scratchBase 0 + 64)) ∧ tExit.seenNat (scratchBase 0 + 64) 8 = 0x00FF000000000080 ∧
    ReadsNow tExit 0x00FF000000000090 16 (.phys (scratchBase 0 + 144)) ∧ tExit.setAD (.phys (scratchBase 0 + 64)) = tExit ∧
    fld (BitVec.ofNat 128 (tExit.seenNat (scratchBase 0 + 144) 16)) 0 5 = 1 ∧ fld (BitVec.ofNat 128 (tExit.seenNat (scratchBase 0 + 144) 16)) 5 5 = 1 ∧
    fld (BitVec.ofNat 128 (tExit.seenNat (scratchBase 0 + 144) 16)) 37 10 = 5 ∧
    (BitVec.ofNat 128 (tExit.seenNat (scratchBase 0 + 144) 16)).getLsbD 47 = false ∧ (tExit.queue 5).valid = true ∧
    tExit.ctxOf 0 = some (tExit.queue 5).ctx ∧ 0x00FF000000000080 % 128 = 0 := by
  unfold ReadsNow Reaches MemoryAt
  refine ⟨⟨⟨by decide, .inl ⟨0, 64, by decide⟩, by decide, by decide⟩, by decide⟩, by decide,
    ⟨⟨by decide, .inl ⟨0, 144, by decide⟩, by decide, by decide⟩, by decide⟩, by decide, by decide, by decide, by decide, by decide, by decide,
    by decide, by decide⟩

/-- Tile 0 with one draw at its home core 0, and strand 0 a task of context 1 and class 0. -/
def tTile (d : Draw → Draw) (tickets : List Ticket) (x1 x2 : Word) : State :=
  { tU (tX x1 x2) with
    cores := [(0, { Core.reset with
      tiles := [{ tile := 0, draws := [d { ctx := 1, serial := 3, np := 4, pi := 0, cls := 0, blend := 0, full := false, off := 0, seen := [],
                                           applied := 0, appliedList := [] }] }]
      tickets := tickets })] }

theorem witness_tile_commits :
    (tTile id [] 0 0).backing (scratchBase 0) = .ok ∧ State.reset.backing (scratchBase 128) ≠ .ok ∧ ((tTile id [] 0 0).tile 0).isSome = true ∧
    (((tTile id [] 0 0).tile 0).map (fun T => (T.draws.find? (fun d => decide (d.serial = 3))).isSome)) = some true ∧
    ((tU id).hart 0).task.map Task.cls = some 0 ∧ (3 : Nat) + 1 ≤ 4 ∧
    64 ≤ ((List.replicate 64 (⟨0, 3, 2, 1, none, 1⟩ : Ticket)).filter (fun x => decide ((tTile id [] 0 0).ticketNow x < x.run))).length ∧
    (tTile id [] 0 0).ticketNow ⟨0, 3, 2, 1, none, 1⟩ < 1 ∧ (tTile id [] 0 0).ticketNow ⟨0, 3, 0, 1, none, 1⟩ = 1 ∧
    fld (0x0100000003000000#64) 56 8 ≠ 0 ∧ fld (0x3000000#64) 56 8 = 0 ∧ fld (0x3000000#64) 24 16 = 3 ∧
    winOf 0x00FF000000000040 = .scratch 64 ∧ winOf (0x00FF000000000040 + 319) = .scratch (64 + 319) ∧
    (tU id).resolve 0 0x00FF000000000040 8 .load = .ok (.phys (scratchBase 0 + 64)) ∧ (tU id).svOk 0 0 = true ∧
    fld (0x400000#64) 20 24 = 4 ∧ fld (0x400000#64) 3 2 ≠ 3 ∧ fld (0xBFF00#64) 8 12 = 3071 ∧
    (((tTile id [] 0 0).tile 0).map (fun T => T.draws.getLast?.map Draw.serial)) = some (some 3) ∧ (tU id).tile 0 = none ∧
    8 ≤ (List.replicate 8 (0 : Nat)).length ∧ ((tU id).core 0).tiles.length < 32 := by decide

/-- Core 0 with the row wire held by strand 0. -/
def tWire (w : Wire → Wire) (x : Word) : State :=
  { tU (tX x 0) with cores := [(0, { Core.reset with wires := [(0, w { Wire.reset with part := some 0, ctx := 1, cols := 1, rows := 1 })] })] }

theorem witness_barriers :
    ((tWire id 0).wire 0 0).part = some 0 ∧ ((tWire id 0).wire 0 0).parked = none ∧ ((tWire id 0).wire 0 0).arrival = none ∧
    ((tWire id 0).wire 0 1).part = none ∧ ((tWire (fun w => { w with arrival := some (true, 0) }) 0).wire 0 0).arrival ≠ none ∧
    ((tWire (fun w => { w with part := some 1 }) 0).wire 0 0).part ≠ some 0 ∧
    (0x0000000001010001#64).getLsbD 24 = true ∧ fld (0xC1010001#64) 28 4 = 12 ∧ fld (0xD1010001#64) 28 4 = 13 ∧
    0 ∈ wireMembers 0 0 (BitVec.ofNat 16 1) (BitVec.ofNat 8 1) ∧ (∀ r, r < 8 → r ≠ rowOf 0 → (0x1010001#64).getLsbD (16 + r) = false) ∧
    (∀ c, c < 16 → c ≠ colOf 0 → (0x1010001#64).getLsbD c = false) ∧ (2#3).toNat < 3 ∧ 3 ≤ (3#3).toNat ∧
    fld ((tWire id 1).rx 1) 1 63 = 0 ∧ fld ((tWire id 2).rx 1) 1 63 ≠ 0 ∧ (0x15#64) &&& ~~~0x15#64 = 0 ∧ (2#64) &&& ~~~0x15#64 ≠ 0 ∧
    ((tWire (fun w => { w with done := false }) 1).wire 0 0).done = false := by decide

theorem witness_upret_and_fqpop :
    ((tU id).hart 0).mode = .u ∧ ((tU id).hart 0).vec.frames = [] ∧ ((tV (fun v => { v with frames := [⟨0, .u, 0x1000⟩] })).hart 0).vec.frames ≠ [] ∧
    fld ((tU (tX 0x00FF000000000040 0)).rx 1) 0 6 = 0 ∧ fld ((tU (tX 1 0)).rx 1) 0 6 ≠ 0 ∧ ((tU id).ctx 1).fqctl.getLsbD 30 = false ∧
    ({ Context.reset with fqctl := 0x40000000 } : Context).fqctl.getLsbD 30 = true ∧
    ({ Context.reset with fqhead := 1, fqtail := 1 } : Context).fqtail ≤ 1 ∧
    (tU id).access 0 0x00FF000000000040 8 .store = .ok (.phys (scratchBase 0 + 64)) ∧
    (0 : Nat) + 64 ≤ scratchBase 0 + 64 := by decide

/-! ## Hypotheses of the statements about system instructions, images and the array -/

theorem witness_tables_kills_islands :
    fld ((tH (tX 0x10007FFFF 0x0FFFFFFF)).rx 1) 19 13 = 0 ∧ fld ((tH (tX 0x10007FFFF 0x0FFFFFFF)).rx 2) 28 36 = 0 ∧
    fld ((tH (tX 0x100080000 0)).rx 1) 19 13 ≠ 0 ∧ fld ((tH (tX 0 0x10000000)).rx 2) 28 36 ≠ 0 ∧
    ({ Context.reset with ctl := 1 } : Context).ctl.getLsbD 0 = true ∧ (tH id).ctxOf 0 ≠ some 3 ∧ (tU id).ctxOf 0 = some 1 ∧
    ((tH id).ctx 3).killing = false ∧ ((tH id).ctx 3).ctl.getLsbD 0 = false ∧ ((tH id).hart 0).mode ≠ .u ∧ ((tU id).hart 0).mode = .u ∧
    ((tH id).cluster 0).coreIsland.change = none ∧ ((tH id).cluster 0).coreIsland.on = true ∧ ((tH id).cluster 0).coreIsland.code = 48 ∧
    fld (0x4901#64) 8 8 = 73 ∧ fld (0x4801#64) 8 8 ≤ 72 ∧ fld (0x4801#64) 0 2 = 1 ∧ ((tH id).cluster 0).arrbind.getLsbD 4 = false ∧
    (∃ k, k < 16 ∧ ((tU id).hart (strandAt 0 k)).task ≠ none) ∧ (∀ k, k < 16 → ((tH id).hart (strandAt 0 k)).task = none) := by decide

/-- An access of 32 aligned bytes of low device memory succeeds in M-mode. -/
theorem low_access (k : Acc') (hk : k = .load ∨ k = .store) (v : Nat) (hv : v < 0x20000) (hm : v % 32 = 0) :
    (tH id).access 0 (BitVec.ofNat 64 v) 32 k = .ok (Hit.phys v) := by
  have hn : (BitVec.ofNat 64 v).toNat = v := by simp only [BitVec.toNat_ofNat]; omega
  have h1 : ((tH id).hart 0).effMode k = .m := by rcases hk with rfl | rfl <;> decide
  have h2 : regionOf v = .dram := by unfold regionOf; rw [if_pos (by omega)]
  have h3 : (tH id).backing v = .ok := by unfold State.backing; rw [h2]; rfl
  have h4 : (tH id).poisoned v 32 = false := rfl
  have h5 : (tH id).homeOk 0 = true := rfl
  have h6 : v < 281474976710656 := by omega
  rcases hk with rfl | rfl <;>
    simp [State.access, State.resolve, State.target, hn, h1, h2, h3, h4, h5, h6, hm, Hit.phys]

theorem witness_images :
    (∀ i, i < 2560 → ∃ y, (tH id).access 0 (0x1000#64 + BitVec.ofNat 64 (32 * i)) 32 .store = .ok y ∧ MemoryAt y.pa) ∧
    (∀ i, i < 2560 → ∃ y, (tH id).access 0 (0x1000#64 + BitVec.ofNat 64 (32 * i)) 32 .load = .ok y ∧ MemoryAt y.pa) ∧
    fld (0x1000#64) 1 7 = 0 ∧ fld (0x102#64) 1 7 ≠ 0 ∧ (0x101#64).getLsbD 0 = true ∧ ((tH id).hart 0).arr.susp = 0 ∧
    ((tH id).hart 0).vec.resume = [] := by
  have key : ∀ k, k = Acc'.load ∨ k = Acc'.store → ∀ i, i < 2560 →
      ∃ y, (tH id).access 0 (0x1000#64 + BitVec.ofNat 64 (32 * i)) 32 k = .ok y ∧ MemoryAt y.pa := by
    intro k hk i hi
    have e : 0x1000#64 + BitVec.ofNat 64 (32 * i) = BitVec.ofNat 64 (0x1000 + 32 * i) := by
      rw [BitVec.ofNat_add]
    refine ⟨_, by rw [e]; exact low_access k hk _ (by omega) (by omega), .inr (.inr ?_)⟩
    unfold regionOf; rw [if_pos (by simp only [Hit.phys]; omega)]
  exact ⟨key _ (.inr rfl), key _ (.inl rfl), by decide, by decide, by decide, by decide, by decide⟩

/-- Cluster 0 with its array bound to context 1 and the lease as given; strand 0 a task of that context. -/
def tArr (l : Lease → Lease) (f : Cluster → Cluster) : State :=
  { tU id with clusters := [(0, f { Cluster.reset with arrbind := 0x11, lease := l Lease.reset })] }

/-- A command of strand 0. -/
def tCmd (op : AOp) (x1 x2 : Word) (range : List (Nat × Nat)) : ACmd :=
  { hart := 0, pos := 0, op := op, word := 0, x1 := x1, x2 := x2, range := range, va := x1.toNat, since := 0 }

/-- A lease that strand 0 holds with a number of commands left. -/
def tHeld (n : Nat) (l : Lease) : Lease := { l with holder := some 0, cmds := n, start := some 0 }

theorem witness_leases :
    (tArr id id).leaseCheck 0 = tArr id id ∧ (tArr (tHeld 256) id).leaseCheck 0 = tArr (tHeld 256) id ∧
    ((tArr (tHeld 256) id).cluster 0).lease.holder = some 0 ∧ (0 : Nat) < 0 + 16384 ∧ ((tArr id id).cluster 0).lease.holder = none ∧
    ((tArr id id).cluster 0).arrbind.getLsbD 4 = true ∧ (tArr id id).ctxOf 0 = some (fld ((tArr id id).cluster 0).arrbind 0 4) ∧
    ((tU id).cluster 0).arrbind.getLsbD 4 = false ∧ ((tArr id id).cluster 0).cmdq = [] ∧
    (∀ k, k < 16 → strandAt 0 k ≠ 0 → ((tArr id id).hart (strandAt 0 k)).arr.req = false) ∧ ((tArr id id).hart 0).arr.area = none := by decide

theorem witness_array_commands :
    ((tArr (tHeld 1) id).cluster 0).lease.cmds = 1 ∧ 1 < ((tArr (tHeld 2) id).cluster 0).lease.cmds ∧
    8 ≤ ((tArr (tHeld 1) (fun c => { c with cmdq := List.replicate 8 (tCmd (.mzero 0) 0 0 []) })).cluster 0).cmdq.length ∧
    ((tArr (tHeld 1) (fun c => { c with cmdq := List.replicate 7 (tCmd (.mzero 0) 0 0 []) })).cluster 0).cmdq.length < 8 ∧
    ((tArr (tHeld 1) id).leaseCheck 0).arrayChk 0 0 (.mzero 3) 0 0 = .ok [] ∧
    (tArr (tHeld 1) id).arrayChk 0 0 (.mld 0) 0x00FF0000000A0000 0 = .ok [(scratchBase 0 + 0xA0000, 131072)] ∧
    winOf 0x00FF0000000A0000 = .scratch 0xA0000 ∧ 0xA0000 + 131072 ≤ 0xC0000 ∧
    (match (tArr (tHeld 1) id).arrayChk 0 0 (.mld 0) 0x00FF0000000A0008 0 with | .error (.exc _, _) => true | _ => false) = true ∧
    fld (0x2000000000#64) 22 22 = 32768 ∧ fld (0x0000080000000000#64) 22 22 = 2097152 ∧ 2097152 % 8 = 0 ∧ fld (0x200000#64) 21 1 ≠ 0 ∧
    (5#3).toNat < 6 ∧ 6 ≤ (6#3).toNat := by decide

/-! ## Hypotheses of the statements about what happens of itself: accesses, translation, waits -/

theorem witness_scalar_events :
    let x : Store := ⟨0, 64, 64, 8, 5, false, none⟩
    ((tH (fun h => { h with stores := [x] })).hart 0).stores[0]? = some x ∧ ((tH id).hart 0).stores.length ≤ 0 ∧
    shareGranule 64 8 80 8 = true ∧ shareGranule 64 8 96 8 = false ∧ overlap 64 8 71 1 = true ∧ overlap 64 8 72 1 = false ∧
    ((tH (fun h => { h with loads := [⟨0, 5, false, 64, 8, true⟩] })).hart 0).loads[0]? = some ⟨0, 5, false, 64, 8, true⟩ ∧
    ((tH (fun h => { h with wait := .ldfe 5 (scratchBase 0) 0 0 })).hart 0).wait = .ldfe 5 (scratchBase 0) 0 0 ∧
    (tFe true).full (scratchBase 0 / 128) = true ∧ (0 : Nat) + 2 ^ 20 ≤ 2 ^ 20 ∧ (2 ^ 20 - 1 : Nat) < 0 + 2 ^ 20 := by decide

/-- Extends has a value for the bytes of any load. -/
theorem witness_extends : Extends 1 true (fun _ => 0x80#8) 0xFFFFFFFFFFFFFF80#64 := by
  unfold Extends; decide

/-- Strand 0 under Sv57 with an empty translation buffer, its table at 0x4000_0000. -/
def tWalk (mem : List Host.Cell) : State :=
  { tU (fun h => { h with csr := { h.csr with satp := 0xA000000000040000 } }) with mem := mem }

theorem witness_translation_events :
    fld ((tWalk []).hart 0).csr.satp 60 4 = 10 ∧ winOf 0x1000 = .none ∧ (tWalk []).tlbHit 0 0x1000 = none ∧
    (tWalk []).walkStart 0 0x1000 = (4, 0x40000000) ∧ ((tWalk []).core 0).walking.length < 2 ∧ (tWalk []).walkable 0x40000000 = true ∧
    (tWalk []).walkable (scratchBase 0) = false ∧
    walkTest ((tWalk []).hart 0).csr .u 4 0x10000401 = .next 0x40001000 ∧ walkTest ((tWalk []).hart 0).csr .u 0 0x8000D7 = .leaf ∧
    (match walkTest ((tWalk []).hart 0).csr .u 4 0 with | .stop _ => true | _ => false) = true ∧
    (tU id).ctxOf 0 = some 1 ∧ (524287 : Nat) < 524288 ∧ ((tU id).core 0).span = [] ∧
    ((tH (fun h => { h with detector := [(64, 3, 0)] })).hart 0).detector[0]? = some (64, 3, 0) := by decide

/-- An ld x1, 0(x1) at 0x1000 whose data page has its A bit clear; both pages are in the translation buffer. -/
def tAd : State :=
  { tU (fun h => { h with pc := 0x1000, x := [(1, 0x2000)], csr := { h.csr with satp := 0xA000000000000000 } }) with
    mem := [(0x1000, 0x83), (0x1001, 0xB0), (0x3010, 0x93), (0x3011, 0x08)]
    cores := [(0, { Core.reset with
      tlb := [{ vpn := 1, bits := 12, asid := 0, global := false, pte := 0x4D9, ptePa := 0x3008 },
              { vpn := 2, bits := 12, asid := 0, global := false, pte := 0x893, ptePa := 0x3010 }] })] }

theorem witness_ad_update :
    tAd.atBoundary 0 = true ∧ tAd.nextWord 0 = some 0x0000B083 ∧ tAd.accessOf 0 0x0000B083 = some (0x2000, 8, .load) ∧
    (match tAd.access 0 0x2000 8 .load with | .ok x => x.ad.isSome | _ => false) = true := by decide

theorem witness_waits :
    ((tU (fun h => { h with wait := .vcfg 5 0 15 })).hart 0).wait = .vcfg 5 0 15 ∧ (tU (fun h => { h with wait := .lyclr 1 })).lyReady 0 1 = true ∧
    (tU id).counts 0 = (0, 0, 0, 0) ∧ ((tU (fun h => { h with wait := .waitc 7 0 0 0 })).hart 0).wait = .waitc 7 0 0 0 ∧
    (tH id).vsReady 0 true = true ∧ ((tU (fun h => { h with wait := .pause 0 })).hart 0).wait = .pause 0 ∧ (0 : Nat) ≤ (tU id).dev.cy ∧
    ((tU (fun h => { h with wait := .yield_ 0 [1] })).hart 0).wait = .yield_ 0 [1] ∧ ((tU id).hart 1).on = false ∧
    (0#64).toNat ≤ (tU id).dev.chron ∧ (tU id).dev.chron < (1#64).toNat := by decide

/-- A strand in U-mode with UE set and notices of tags 2 and 1. -/
def tNotes (async : List Nat) : State :=
  tU (fun h => { h with csr := { h.csr with upvec := 0x101 }, stg := { h.stg with tags := [1, 2], notices := [⟨2, false, 0⟩, ⟨1, true, 3⟩], async := async } })

theorem witness_notices :
    (tNotes []).noticeable 0 = true ∧ (tU id).noticeable 0 = false ∧ ((tNotes [7]).hart 0).stg.async = [7] ∧
    (⟨1, true, 3⟩ : Notice) ∈ ((tNotes []).hart 0).stg.notices ∧
    (∀ m ∈ ((tNotes []).hart 0).stg.notices, m = (⟨1, true, 3⟩ : Notice) ∨ 1 < m.tag) := by decide

/-- A strand in U-mode with a delegated interrupt pending and enabled, or with a pre-emption request. -/
theorem witness_interrupts :
    (tU (fun h => { h with csr := { h.csr with mie := 2, mipSw := 2, mideleg := 2 } })).takes 0 = some 1 ∧
    (tU (fun h => { h with preempt := true })).takes 0 = some 17 ∧ (tU id).takes 0 = none ∧
    (tU id).atBoundary 0 = true ∧ assigned 0#32 = false ∧ assigned 0x00000013#32 = true ∧
    (tH (fun h => { h with pc := 2 })).fetchAt 0 = .stop (.exc 0) ∧ (tH (fun h => { h with pc := 0x1000 })).nextWord 0 = some 0 := by decide

/-! ## Hypotheses of the statements about what happens of itself: vector queues, rings, copies, streams, links -/

/-- Strand 0 in U-mode under Bare translation with one entry at the head of a vector queue, x1 as given. -/
def tIss (op : VOp) (q : VQueue) (x1 : Word) (f : VEntry → VEntry) : State :=
  tV (fun v => { v with queue := [f { tEntry op with q := q, x1 := x1, vl := 2 }], nextSeq := 1 })

/-- A begun access of element 0 at physical address 0x1000. -/
def tAcc (k : AccKind) : Acc := { group := 0, idx := 0, va := 0x1000, pa := 0x1000, width := 4, kind := k, val := 7, nt := false }

theorem witness_vector_queue_begins :
    (∃ e, MayBegin (tIss (.int .add true 3 2 1 0) .vaq 0 id) 0 .vaq e ∧ e.op.InRegisters) ∧
    (∃ e, MayBegin (tIss (.ld .unit false 3 0 0) .vlq 0x00FF000000000040 id) 0 .vlq e ∧
      (e.actives (Vec.start 32) 0 0).all (VEntry.indexed (Vec.start 32) .unit 0) = true ∧
      (match (tIss (.ld .unit false 3 0 0) .vlq 0x00FF000000000040 id).checked 0 e .unit 0 (e.actives (Vec.start 32) 0 0) false with
        | .ok els => !els.isEmpty | _ => false) = true) ∧
    (∃ e, MayBegin (tIss (.st .unit false 3 0 0) .vsq 0x00FF000000000041 id) 0 .vsq e ∧ e.ty.toNat ≠ 10 ∧
      (match (tIss (.st .unit false 3 0 0) .vsq 0x00FF000000000041 id).checked 0 e .unit 0 [0, 1] true with
        | .error (.exc c, _) => decide (c < 64) | _ => false) = true ∧
      (match (tIss (.st .unit false 3 0 0) .vsq 0x00FF000000000040 id).checked 0 { e with x1 := 0x00FF000000000040 } .unit 0 [0, 1] true with
        | .ok els => !els.isEmpty | _ => false) = true) ∧
    ((tU id).hart 0).vec.head .vaq = none := by
  unfold MayBegin VOp.InRegisters
  refine ⟨⟨{ tEntry (.int .add true 3 2 1 0) with q := .vaq, x1 := 0, vl := 2 }, by decide, trivial⟩,
    ⟨{ tEntry (.ld .unit false 3 0 0) with q := .vlq, x1 := 0x00FF000000000040, vl := 2 }, by decide, by decide, by decide⟩,
    ⟨{ tEntry (.st .unit false 3 0 0) with q := .vsq, x1 := 0x00FF000000000041, vl := 2 }, by decide, by decide, by decide, by decide⟩, by decide⟩

theorem witness_vector_queue_accesses :
    (let e := { tEntry (.ld .unit false 3 0 0) with q := .vlq, next := 1, pend := [tAcc .load] }
     ((tV (fun v => { v with queue := [e] })).hart 0).vec.queue = [e] ∧ (tV (fun v => { v with queue := [e] })).accReady 0 e (tAcc .load) = true ∧
     e.q ≠ .vaq ∧ e.ty.toNat ≠ 10 ∧ 8 * (tAcc .load).width = ebits e.ty) ∧
    (let e := { tEntry (.st .unit false 3 0 0) with q := .vsq, next := 1, pend := [tAcc .store] }
     (tV (fun v => { v with queue := [e] })).accReady 0 e (tAcc .store) = true) ∧
    (let e := { tEntry (.st .unit false 3 0 0) with q := .vsq, pos := 1, entered := 1, next := 1, pend := [tAcc .store] }
     (tU (fun h => { h with stores := [⟨0, 0x1000, 0x1000, 4, 0, false, none⟩], vec := { h.vec with queue := [e] } })).accReady 0 e (tAcc .store) = false) ∧
    (let s := tIss (.recv 3) .vlq 0 (fun e => { e with since := some 0 })
     let s := s.onStg 0 (fun g => { g with eps := [(0, tEp)] })
     (match s.issue 0 .vlq (s.allSeq 0) with | some (e, .ext) => decide (e.since = some 0) | _ => false) = true) ∧
    (let s := tIss (.ldfe 3 0) .vlq 0x00FF000000000080 (fun e => { e with since := some 0 })
     (match s.issue 0 .vlq (s.allSeq 0) with | some (e, .ext) => (match s.feChecked 0 e 0 false with
       | .ok els => els.any (fun x => !s.full (x.2.2 / 128)) | _ => false) | _ => false) = true) := by
  decide

/-- A piece's range is whole (8 bytes), and nothing older holds its granules. -/
def tFree (r : Except (Stop × Nat) (List Hit)) (c : State) (write : Bool) : Bool :=
  match r with
  | .ok l => decide (l.length = 8) && l.all (fun z => !c.copyWaits (tXfer []) z.pa 1 write)
  | .error _ => false

theorem witness_rings_and_copies :
    let r1 : Ring → Ring := fun r => { r with stages := [⟨0, 2, 0, false, 0⟩, ⟨1, 1, 0, false, 0⟩] }
    let s := (tRing ⟨0, false, [], []⟩ r1 0).onStg 0 (fun g => { g with releases := [⟨0, 0, true, 0⟩, ⟨0, 0, false, 0⟩] })
    let u := (tRing ⟨0, true, [], []⟩ id 0).onStg 0 (fun g => { g with releases := [⟨0, 0, false, 0⟩, ⟨0, 5, true, 0⟩] })
    let c := tChan (fun c => { c with xfers := [tXfer []] })
    (s.hart 0).stg.releases[0]? = some ⟨0, 0, true, 0⟩ ∧ (s.ring 0 0).map (fun r => s.releaseReady 0 ⟨0, 0, true, 0⟩ r) = some true ∧
    ((s.ring 0 0).bind (fun r => r.stage 0)).map Stage.complete = some false ∧ (s.ring 0 0).map Ring.open_ = some 0 ∧ (2 : Nat) ≤ 1 + 1 ∧
    ((u.ring 0 0).bind (fun r => r.stage 0)).map Stage.complete = some true ∧ ((u.ring 0 0).bind (fun r => r.stage 5)) = none ∧
    (u.ring 0 0).map (fun r => u.releaseReady 0 ⟨0, 0, false, 0⟩ r) = some true ∧ (u.ring 0 0).map (fun r => (r.q, r.r)) = some (1, 0) ∧
    (tU id).ring 0 0 = none ∧ c.xfer 0 0 0 = some (tXfer []) ∧ (tXfer []).piece 0 = (0x1000, 0x2000, 8) ∧ 0 < (tXfer []).runs * (tXfer []).perRun ∧
    tFree (c.engineRange (tXfer []) false 0x1000 8 []) c false = true ∧ tFree (c.engineRange (tXfer []) true 0x2000 8 []) c true = true ∧
    winOf 0x2000 = .none ∧ (tXfer [3, 2, 1, 0]).done = true ∧ (tXfer []).done = false ∧ (tXfer []).id = Chan.start.wm ∧ Chan.start.above = [] := by decide

/-- Strand 0 sends to endpoint 1 of strand 4, which holds the groups given. -/
def tSend (buf : List MsgGroup) : State :=
  let s := tIss (.send 3) .vsq 0 (fun e => { e with since := some 0 })
  let s := s.onStg 0 (fun g => { g with eps := [(0, { tEp with recv := false, link := .joined 1 })] })
  s.onStg 4 (fun g => { g with eps := [(1, { tEp with peer := 0, link := .joined 0, buf := buf })] })

theorem witness_streams :
    (∃ e, MayBegin (tSend []) 0 .vsq e ∧ e.op = .send 3 ∧ e.x1.toNat = 0) ∧ ((tSend []).endpoint 0 0).map Endpoint.link = some (.joined 1) ∧
    ((tSend []).endpoint 4 1).map (fun y => (y.skip, y.buf.length)) = some (false, 0) ∧
    (((tSend (List.replicate 8 ⟨0, 2, 32, [], 0, true⟩)).endpoint 4 1).map (fun y => y.buf.length)) = some 8 ∧
    (tSend []).creditWait 0 = some (4, some 1) ∧ (tSend []).recvWait 0 = none ∧
    (let s := (tIss (.recv 3) .vlq 0 (fun e => { e with since := some 0 })).onStg 0 (fun g => { g with
       eps := [(0, tEp)], probe := some { origin := 0, at_ := 0, ep := none, hops := 3, due := 0 } })
     (s.recvWait 0).map Prod.snd = some (4, none) ∧ (s.hart 0).stg.probe = some { origin := 0, at_ := 0, ep := none, hops := 3, due := 0 } ∧ 0 ≤ s.dev.cy) ∧
    ((tIss (.recv 3) .vlq 0 (fun e => { e with since := some 0 })).hart 0).stg.probe = none ∧
    (0 : Nat) + 4096 ≤ 4096 ∧ ¬(0 + 4096 ≤ (4095 : Nat)) := by
  refine ⟨⟨{ tEntry (.send 3) with q := .vsq, x1 := 0, vl := 2, since := some 0 }, ?_, rfl, rfl⟩, ?_⟩
  · unfold MayBegin; decide
  · decide

/-- Link 0 as given. -/
def tLink (f : Link → Link) : State := (tH id).onDev (fun d => { d with links := [(0, f (Link.reset 0))] })

theorem witness_links_and_ways :
    ((tLink (fun k => { k with fifo := [(none, 16)] })).link 0).fifo = (none, 16) :: [] ∧ (16 : Nat) = ((tLink id).link 0).out ∧
    (15 : Nat) ≠ ((tLink id).link 0).out ∧ ((tLink (fun k => { k with lastChange := some 0 })).link 0).lastChange = some 0 ∧
    ¬(0 + 2400 ≤ (2399 : Nat)) ∧ (0 : Nat) + 2400 ≤ 2400 ∧
    ((tLink (fun k => { k with turning := some (15, none) })).link 0).turning = some (15, none) ∧
    ((tLink (fun k => { k with turning := some (15, some 0) })).link 0).turning = some (15, some 0) ∧
    (let s := (tH id).onCore 3 (fun c => { c with waysNew := some 1 })
     (s.core 3).waysNew = some 1 ∧ fld (s.core 3).ways (2 * 0) 2 ≠ fld (1#32) (2 * 0) 2 ∧
       (∀ w, w < 16 → fld (s.core 3).ways (2 * w) 2 ≠ fld (1#32) (2 * w) 2 → s.wayBusy 3 w = false)) ∧
    (((tH (fun h => { h with wait := .wayset 3 })).harts.find? (fun p => decide (p.2.wait = .wayset 3))).map Prod.fst) = some 0 ∧
    ((tH id).harts.find? (fun p => decide (p.2.wait = .wayset 3))) = none := by decide

/-! ## Hypotheses of the statements about what happens of itself: tasks, commits, barriers -/

/-- Device memory as a list of bytes from an address. -/
def tMem (a : Nat) (bs : List Nat) : List Host.Cell := ((bs.zipIdx).filter (fun p => p.1 ≠ 0)).map (fun p => (a + p.2, BitVec.ofNat 8 p.1))

/-- Queue 0 of context 1 with a launch record of key 0 for a block at 0x1000 of one task with its entry at 0x2000; a pool of stack slots
or none. -/
def tDisp (stks : Word) : State :=
  { tH id with
    mem := [(0x1001, 0x20), (0x1010, 0x21)]
    queues := [(0, { Queue.reset with qctl := 0x11, qlim := 0x30002, recs := [{ data := 0x10000100000000000000, at_ := 0, rank := 0, overflow := false, serial := 0 }] })]
    ctxs := [(1, { Context.reset with ctl := 1, stks := stks })] }

theorem witness_dispatch :
    (tDisp 0).freeStrands 0 ≠ [] ∧ ((tDisp 0).cluster 0).coreIsland.backed = true ∧ (tDisp 0).dieUp 0 = true ∧ ((tDisp 0).cluster 0).reserved = none ∧
    (tDisp 0).considered 0 = [0] ∧ ((tDisp 0).queue 0).bound = false ∧ ((tDisp 0).queue 0).recs.length ≤ ((tDisp 0).queue 0).hard ∧
    (tDisp 0).candidate 0 = some 0 ∧ (((tDisp 0).queue 0).recs[0]?.map (fun r => (fld r.data 64 64, fld r.data 128 32))) = some (0x1000, 0) ∧
    fld ((tDisp 0).ctx 1).stks 4 28 = 0 ∧ fld ((tDisp 0x10).ctx 1).stks 4 28 ≠ 0 ∧ ((tDisp 0x10).ctx 1).freeSlots = some [0] ∧
    (match (tDisp 0).readBlock 0 1 0x1000 with
      | some b => decide (fld b 0 64 = 0x2000) && decide (fld b 128 5 = 1) && decide (fld b 128 5 ≤ ((tDisp 0).freeStrands 0).length) | none => false) = true ∧
    (tH id).considered 0 = [] := by decide

/-- Two queries of strand 0 on counter 3 of context 1, the older one as given. -/
def tQry (a : Option Word) (c : Tab Word) : State :=
  (tU id).onDev (fun d => { d with counters := c, queries := [⟨0, 1, 3, scratchBase 0 + 8, 0, a⟩, ⟨0, 1, 3, scratchBase 0 + 16, 1, none⟩] })

theorem witness_tasks_of_themselves :
    ((tQry none []).dev.queries[0]?.map Query.answer) = some none ∧ ((tQry none []).dev.queries[1]?.map Query.answer) = some none ∧
    ((tQry (some 7) []).dev.queries[0]?.map Query.answer) = some (some 7) ∧ ((tQry (some 7) []).hart 0).stores = [] ∧
    fld ((tQry none [(135, 0x100000004)]).dev.counters.get 0 (2 * (64 * 1 + 3) + 1)) 32 16 = 1 ∧
    fld ((tQry none [(135, 0x100000004)]).dev.counters.get 0 (2 * (64 * 1 + 3) + 1)) 0 32 = 4 ∧
    ((tU (fun h => { h with wait := .exit [] })).hart 0).wait = .exit [] ∧ (tU (fun h => { h with wait := .exit [] })).drained 0 = true ∧
    (tU (fun h => { h with stores := [⟨0, 64, 64, 8, 0, false, none⟩] })).drained 0 = false ∧ ((tU id).ctx 1).killing = false ∧
    (let e : ExitEdge := ⟨0x1000, 0, 5, none⟩
     ((tQ [] (fun h => { h with wait := .exit [e] })).hart 0).wait = .exit [e] ∧ ((tQ [] id).queue e.queue).recs.length < ((tQ [] id).queue e.queue).hard ∧
     e.join = none) ∧
    (let e : ExitEdge := ⟨0x1000, 0, 5, some 0x101C⟩
     let s := { tQ [] (fun h => { h with wait := .exit [e] }) with mem := [(0x101C, 2)] }
     e.join = some 0x101C ∧ 2 ≤ s.mem64 0x101C 4 ∧ s.drained 0 = true) ∧
    (let s := (tDisp 0).onQueue 0 (fun q => { q with eligible := some 0, passed := [(0, 0)] })
     let s := s.onDev (fun d => { d with cy := 65536 })
     (s.queue 0).eligible = some 0 ∧ s.eligible 0 = true ∧ 0 + 65536 ≤ s.dev.cy ∧ (s.queue 0).aged < 7 ∧ (s.queue 0).passed.find 0 = some 0 ∧
       s.inScope 0 0 = true ∧ (s.cluster 0).reserved = none) ∧
    (let s := tQ [⟨1 <<< 56, 0, 0, false, 0⟩] id 0x411
     (s.queue 5).bound = true ∧ (s.queue 5).eligible = none ∧ s.eligible 5 = true) ∧
    (∃ l ∈ ((tH id).onCore 0 (fun c => { c with lowered := [(1, 0), (2, 5)] })).dev.gangs.map (fun _ => 0) ++ [0], l ≤ (tH id).dev.cy) ∧
    (((tH id).onCore 0 (fun c => { c with lowered := [(1, 0), (2, 5)] })).core 0).lowered = [(1, 0), (2, 5)] := by decide

theorem witness_commits_and_barriers :
    ((tTile id [⟨0, 3, 0, 1, none, 1⟩] 0 0).core 0).tickets[0]? = some ⟨0, 3, 0, 1, none, 1⟩ ∧ (0 : Nat) = 0 % 4 * 128 + 0 / 4 * 37 % 128 ∧
    ((tTile id [] 0 0).tile 0).map (fun T => T.draws.length) = some 1 ∧ (tTile id [] 0 0).ticketNow ⟨0, 3, 0, 1, none, 1⟩ = 1 ∧ 0 + 1 < (4 : Nat) ∧
    (tTile (fun d => { d with applied := 3, full := true }) [] 0 0).ticketNow ⟨0, 3, 3, 1, none, 1⟩ = 1 ∧ (4 : Nat) ≤ 3 + 1 ∧
    (tTile (fun d => { d with cls := 2 }) [] 0 0).ticketNow ⟨0, 3, 2, 2, some (5, List.replicate 256 0), 1⟩ = 2 ∧
    ((tU (fun h => { h with wait := .unit 0x0C00000B 3 0 64 })).hart 0).wait = .unit 0x0C00000B 3 0 64 ∧ (0x0C00000B#32).extractLsb' 25 7 = 6#7 ∧
    (let s := tWire (fun w => { w with arrival := some (true, 0) }) 0
     (s.wire 0 0).arrival ≠ none ∧ s.arrivalAt 0 0 (s.wire 0 0).count = some true ∧ wireMembers 0 0 (s.wire 0 0).cols (s.wire 0 0).rows = [0]) ∧
    (let s := (tWire (fun w => { w with done := false, bound := 100 }) 0).onHart 0 (fun h => { h with wait := .wev 5 1 0 })
     (s.hart 0).wait = .wev 5 1 0 ∧ (s.wire (coreOf 0) 0).part = some 0 ∧ (s.wire (coreOf 0) 0).done = false ∧ (s.wire (coreOf 0) 0).bound ≤ 2 ^ 24) := by
  decide

/-! ## Hypotheses of the statements about what happens of itself: the array, the part, the network -/

theorem witness_array_of_itself :
    (let s := (tArr id id).onHart 0 (fun h => { h with arr := { h.arr with req := true } })
     (s.cluster 0).lease.last = 15 ∧ strandAt 0 ((15 + 1 + 0) % 16) = 0 ∧ (s.hart 0).arr.req = true ∧ (s.hart 0).arr.area = none ∧
       (s.cluster 0).lease.holder = none ∧ (s.cluster 0).cmdq = []) ∧
    (let s := (tArr (tHeld 256) id).onHart 4 (fun h => { h with arr := { h.arr with req := true, area := some 3 } })
     (s.cluster 0).lease.holder = some 0 ∧ (s.cluster 0).lease.start = some 0 ∧ (∃ j, j < 16 ∧ strandAt 0 j ≠ 0 ∧ (s.hart (strandAt 0 j)).arr.req = true)) ∧
    ((tArr id (fun c => { c with executing := some (tCmd (.mzero 1) 0 0 []) })).cluster 0).executing ≠ none ∧
    ((tArr (fun l => { l with parking := some (0, 3) }) id).cluster 0).lease.parking = some (0, 3) ∧
    (let s := (tArr (fun l => { tHeld 256 l with restoring := true, start := none }) (fun c => { c with areas := [(3, [(5, 7)])] })).onHart 0
        (fun h => { h with arr := { h.arr with area := some 3, mask := 1 } })
     (s.cluster 0).lease.restoring = true ∧ (s.cluster 0).lease.holder = some 0 ∧ (s.cluster 0).lease.ending = none ∧
       (s.hart 0).arr.area = some 3 ∧ (s.cluster 0).areas.find 3 = some [(5, 7)]) ∧
    (tArr (tHeld 256) (fun c => { c with cmdq := [tCmd (.mzero 1) 0 0 []] })).arrayReady 0 (tCmd (.mzero 1) 0 0 []) = true ∧
    (tArr (tHeld 256) (fun c => { c with clearing := true })).arrayReady 0 (tCmd (.mzero 1) 0 0 []) = false ∧
    (tArr (tHeld 256) id).arrayReady 0 (tCmd .mwld 0 0 [(scratchBase 0, 64)]) = true ∧
    (tArr (tHeld 256) id).badPiece (tCmd (.mld 1) 0 0 [(scratchBase 0, 131072)]) = none ∧
    (tArr (tHeld 256) id).badPiece (tCmd (.mmac 0 1 0) 0 0 [(scratchBase 0, 4096)]) = none ∧
    ((tArr (tHeld 256) id).cluster 0).lease.ending = none := by decide

theorem witness_tables_and_images_of_themselves :
    (let s := (tH id).onCtx 3 (fun c => { c with killing := true })
     (s.ctx 3).killing = true ∧ s.killQuiet 3 = true ∧ Tab.rising 0 s.harts = true ∧ (s.ctx 3).fqctl.getLsbD 30 = false) ∧
    ((tU id).onCtx 1 (fun c => { c with killing := true })).killQuiet 1 = true ∧
    ((tU (fun h => { h with wait := .kill 1, stores := [⟨0, 64, 64, 8, 0, false, none⟩] })).onCtx 1 (fun c => { c with killing := true })).killQuiet 1 = false ∧
    ((tH (fun h => { h with wait := .vstupd 1 5 })).hart 0).wait = .vstupd 1 5 ∧ (tH id).rangeBusy (5 - 1) 0x200000 = false ∧
    (tH (fun h => { h with stores := [⟨0, 64, 64, 8, 0, false, none⟩] })).rangeBusy (64 - 1) 0x200000 = true ∧
    (let s := (tH id).onDev (fun d => { d with shoot := some 0x50000, shootPos := [(0, 0)] })
     s.dev.shoot = some 0x50000 ∧ s.olderInFlight s.dev.shootPos = false) ∧
    ((tH id).onDev (fun d => { d with homeChange := some (3, 5) })).dev.homeChange = some (3, 5) ∧
    (((tH id).onCtx 3 (fun c => { c with entering := true })).ctx 3).entering = true ∧
    ((tH (fun h => { h with wait := .vsave 0x1000 false })).hart 0).wait = .vsave 0x1000 false ∧
    (tH (fun h => { h with wait := .vsave 0x1000 true })).arraySettled 0 = true ∧
    ((tH (fun h => { h with wait := .vrestore 0x1000 false })).hart 0).wait = .vrestore 0x1000 false ∧
    ((tH id).imageBytes 0 false).all (fun p => decide (p.1 + p.2.length ≤ 81920)) = true := by decide

theorem witness_the_part :
    (let s := (tH id).onCluster 0 (fun c => { c with coreIsland := { c.coreIsland with change := some (1, 40) }, arrayIsland := { c.arrayIsland with change := some (2, 0) } })
     ((s.cluster 0).island false).change = some (1, 40) ∧ ((s.cluster 0).island true).change = some (2, 0)) ∧
    ((tH id).dev.tripped = false) ∧ ((tH id).onDev (fun d => { d with tripped := true })).dev.tripped = true ∧ regionOf 0x1000 = .dram ∧
    regionOf (scratchBase 0) = .scratch 0 0 ∧ (tH id).dieUp 1 = true ∧ (tH id).dieClear 1 = true ∧ (tU id).dieClear 0 = false ∧
    ((tH id).onDev (fun d => { d with offline := [(1, true)] })).dev.offline.get false 1 = true ∧ State.reset.dev.powered = false ∧
    State.reset.dev.locked = false ∧ (tH id).dev.powered = true ∧ (List.replicate 64 (0 : Word)).length = 64 ∧ (tH id).dev.linkev.length < 64 := by decide

/-- Queue pair 2 ready for context 1 or Pilot's, region 0 of context 1 at 0x8000 with key 9 and the given right, and queue 0 valid. -/
def tNet (w0 : Word) (right : Nat) : State :=
  (tQ [] id).onDev (fun d => { d with
    qps := [(2, [w0, 0, 0, 0, 0, 0, 0x10000000000000])]
    regions := [(0, [BitVec.ofNat 64 (1 + 2 ^ right + 16 + 9 * 2 ^ 32), 0x8000, 0x1000, 0x1000])] }) |>.onCtx 1 (fun c => { c with ctl := 1 })

theorem witness_network :
    (tNet 0x13 2).qpReady 2 = true ∧ (tNet 0x11 2).qpReady 2 = false ∧ (tNet 0x1B 2).qpPilot 2 = true ∧ (tNet 0x13 2).qpPilot 2 = false ∧
    (tNet 0x13 2).pushKey 9 = false ∧ ((tNet 0x13 2).regionFor 2 9 0x8010 16 2).isSome = true ∧ (tNet 0x13 2).regionFor 2 9 0x8FF8 16 2 = none ∧
    (tNet 0x13 2).dev.trained = true ∧ 0x1010 + 16 ≤ 0x7735940000 ∧ ((tNet 0x13 1).regionFor 2 9 0x8010 16 1).isSome = true ∧
    (tNet 0x13 2).poisoned 0x1010 16 = false ∧ (tNet 0x13 3).pushKey 9 = true ∧ ((tNet 0x13 3).regionFor 2 9 0x8140 64 3).isSome = true ∧
    (0x8140#64).toNat % 64 = 0 ∧ ((0x8140#64).toNat - 0x8000) / 64 = 5 ∧ ((tNet 0x13 3).queue 5).valid = true ∧ ((tNet 0x13 3).queue 5).ctx = (tNet 0x13 3).qpCtx 2 ∧
    ((tNet 0x13 3).queue 5).recs.length < ((tNet 0x13 3).queue 5).wmark ∧ ((tNet 0x13 3).qpWord 2 6 = 0x10000000000000) ∧
    (let s := tH (fun h => { h with remotes := [⟨0, 0, some 1, some ⟨0, 5, false, 0x800000000000, 8, true⟩, none, 0, 2⟩, ⟨1, 0, none, none, none, 0, 3⟩, ⟨2, 0, none, none, none, 0, 2⟩] })
     (s.hart 0).remotes[0]? = some ⟨0, 0, some 1, some ⟨0, 5, false, 0x800000000000, 8, true⟩, none, 0, 2⟩ ∧ (s.hart 0).remotes[1]? = some ⟨1, 0, none, none, none, 0, 3⟩ ∧
       (∀ x ∈ (s.hart 0).remotes.take 1, x.qp ≠ 3) ∧ ¬(∀ x ∈ (s.hart 0).remotes.take 2, x.qp ≠ 2)) ∧
    ((tH id).onDev (fun d => { d with qpBusy := some (0x1002, [0]) })).dev.qpBusy = some (0x1002, [0]) := by decide

/-! ## Hypotheses of the statement about the device registers -/

/-- sd x2, 0(x1) at 0x1000, or ld x2, 0(x1), with x1 the address of a device register: at Pilot's hart 2048 in M-mode or S-mode, or at strand
0 in U-mode under Bare translation. -/
def tReg (h : Nat) (md : Mode) (off : Nat) (v : Word) (store : Bool) : State :=
  { tH id with
    mem := (if store then [(0x1000, 0x23), (0x1001, 0xB0), (0x1002, 0x20)] else [(0x1000, 0x03), (0x1001, 0xB1)])
    harts := [(h, { Hart.reset true with on := true, mode := md, pc := (0x1000 : Word), x := [(1, BitVec.ofNat 64 (0x018000000000 + off)), (2, v)] })] }

/-- The sd x2, 0(x1) of `tReg`. -/
def tSd (off : Nat) : MemOp := { store := true, base := 1, reg := 2, va := BitVec.ofNat 64 (0x018000000000 + off), bytes := 8, signed := false }

/-- Such a store stands next, and reaches its register. -/
theorem stores_reg (h : Nat) (md : Mode) (off : Nat) (v : Word) (r : DevReg)
    (h1 : (tReg h md off v true).nextReg h = some (tSd off, off, r)) (h2 : (tReg h md off v true).x h 2 = v)
    (h3 : (tReg h md off v true).access h (BitVec.ofNat 64 (0x018000000000 + off)) 8 .store = .ok (Hit.phys (0x018000000000 + off))) :
    StoresReg (tReg h md off v true) h r (BitVec.ofNat 64 (0x018000000000 + off)) v :=
  ⟨_, off, _, h1, rfl, rfl, rfl, h2, h3, ⟨rfl, rfl, rfl, rfl⟩⟩

theorem witness_registers :
    (∀ p ∈ ([(0x2018, .home 3), (0x3008, .shootCmd), (0x3010, .pgdone), (0x10018, .arrbind 3), (0x11068, .tsave 3 1), (0x20140, .queue 5 0),
        (0x20160, .queue 5 4), (0x41000, .preempt), (0x42000, .pwrcap), (0x43008, .event 1), (0x44000, .chronAdj), (0x44008, .chronStep),
        (0x48080, .ctx 1 0), (0x50018, .alarm 3), (0x60080, .qpcmd)] : List (Nat × DevReg)),
      StoresReg (tReg 2048 .m p.1 1 true) 2048 p.2 (BitVec.ofNat 64 (0x018000000000 + p.1)) 1) ∧
    StoresReg (tReg 0 .u 0x2018 1 true) 0 (.home 3) (BitVec.ofNat 64 (0x018000000000 + 0x2018)) 1 := by
  refine ⟨?_, stores_reg 0 .u 0x2018 1 (.home 3) (by decide +kernel) (by decide +kernel) (by decide +kernel)⟩
  intro p hp
  simp only [List.mem_cons, List.not_mem_nil, or_false] at hp
  rcases hp with rfl | rfl | rfl | rfl | rfl | rfl | rfl | rfl | rfl | rfl | rfl | rfl | rfl | rfl | rfl <;> dsimp only <;>
    exact stores_reg _ _ _ _ _ (by decide +kernel) (by decide +kernel) (by decide +kernel)

theorem witness_register_values :
    (∃ op, (tReg 2048 .m 0x44010 0 false).nextReg 2048 = some (op, 0x44010, .linkev) ∧ op.store = false ∧ op.bytes = 8 ∧
      (tReg 2048 .m 0x44010 0 false).access 2048 op.va 8 .load = .ok (Hit.phys 0x018000044010)) ∧
    (2048 ≤ 2048 ∧ ((tReg 2048 .m 0 0 true).hart 2048).mode ≠ .u ∧ ((tReg 0 .u 0 0 true).hart 0).mode = .u) ∧
    fld (0x70005#64) 19 45 = 0 ∧ fld (0x80000#64) 19 45 ≠ 0 ∧ fld (0x13#64) 5 59 = 0 ∧ fld (0x33#64) 5 59 ≠ 0 ∧
    fld (0x611#64) 8 2 = 2 ∧ fld (0x311#64) 8 2 = 3 ∧ fld (0x800000#64) 23 41 ≠ 0 ∧ fld (0x1FFF#64) 13 51 = 0 ∧ fld (0x2000#64) 13 51 ≠ 0 ∧
    (0x1004#64).getLsbD 12 = true ∧ ¬(1400 < (1400#64).toNat) ∧ 1400 < (1401#64).toNat ∧ (State.reset.applyOk 0 [] = State.reset.applyOk 0 []) ∧
    (let t : Notice := ⟨2, false, 0⟩
     t.tag ∈ ((tU (fun h => { h with stg := { h.stg with tags := [2] } })).hart 0).stg.tags) ∧
    ((tReg 2048 .m 0x44010 0 false).nextReg 0 = none) ∧ fld (3#64) 2 62 = 0 ∧ fld (4#64) 2 62 ≠ 0 := by
  refine ⟨⟨{ store := false, base := 1, reg := 2, va := 0x018000044010, bytes := 8, signed := true }, by decide +kernel, by decide +kernel, by decide +kernel, by decide +kernel⟩, ?_⟩
  decide +kernel

/-! ## Hypotheses of the statements about accesses that stop, requests, registers and remote windows -/

/-- Strand 0 in U-mode as a task of context 1, with UE set and a handler, and the pager queue 5 of its context: valid, of depth 3. -/
def tReq (f : Hart → Hart) (qctl : Word := 0x11) : State :=
  { tU (fun h => f { h with csr := { h.csr with upvec := 0x1001 } }) with
    ctxs := [(1, { Context.reset with ctl := 1, pager := 0x405 })]
    queues := [(5, { Queue.reset with qctl := qctl, qlim := 0x30002 })] }

/-- A loop slot 2 whose first entry names x9, with count register x13. -/
def tSlot (h : Hart) : Hart :=
  { h with x := [(9, 64), (13, 7)], vec := { h.vec with loops := [(2, { cfg := 9, prev := none, miss := 0, creg := some 13 })] } }

theorem witness_access_stops :
    (tH id).access 0 0x7735940000 8 .load = .stop (.exc 5) ∧ (tH id).access 0 0x7735940000 8 .store = .stop (.exc 7) ∧
    ((tH id).onDev (fun d => { d with offline := [(1, true)] })).access 0 (BitVec.ofNat 64 (scratchBase 128)) 8 .load = .stop (.offline 5) ∧
    (tH id).ctxOf 0 = none ∧ (tReq id).ctxOf 0 = some 1 ∧ (tReq id).access 0 0x80000000000008 8 .load = .stop (.absent true) ∧
    (tReq id).access 0 0x80000000000008 8 .atomic = .stop (.absent true) ∧
    ((tReq id).queue (fld ((tReq id).ctx 1).pager 0 10)).recs.length < ((tReq id).queue (fld ((tReq id).ctx 1).pager 0 10)).hard := by decide

/-- The lowest free tag of such a strand is 1 where it holds tag 0; none may be asked for with UE clear, or where the pager's queue is not
valid. -/
theorem witness_requests :
    MayRequest (tReq (fun h => { h with stg := { h.stg with tags := [0] } })) 0 1 1 ∧ MayRequest (tReq id) 0 0 1 ∧
    (∀ tag c, ¬MayRequest (tU id) 0 tag c) ∧ (∀ tag c, ¬MayRequest (tReq id 1) 0 tag c) := by
  refine ⟨by unfold MayRequest; decide, by unfold MayRequest; decide, fun tag c h => ?_, fun tag c h => ?_⟩
  · exact absurd h.2.2.1 (by decide)
  · have e : c = 1 := by have := h.1; revert this; simp [tReq, tU, tH, State.hart, Tab.find]; exact fun h => h.symm
    subst e
    exact absurd h.2.2.2.2.2.2.2.2.1 (by decide)

/-- A slot, or none, for a base register; and a request that waits for a load in flight to a register of its slot, or for a die. -/
theorem witness_request_waits :
    SlotFor ((tReq tSlot).hart 0) (some 9) (some 2) ∧ SlotFor ((tReq tSlot).hart 0) (some 10) none ∧ SlotFor ((tReq tSlot).hart 0) none none ∧
    RequestWaits (tReq (fun h => { tSlot h with loads := [⟨0, 13, false, 64, 8, true⟩] })) 0 1 (some 2) ∧
    RequestWaits ((tReq id).onDev (fun d => { d with offline := [(0, true)] })) 0 1 none ∧ ¬RequestWaits (tReq tSlot) 0 1 (some 2) := by
  unfold SlotFor RequestWaits
  refine ⟨⟨by decide, ⟨9, 0, rfl, by decide, by decide, by decide⟩, ?_⟩, ?_, ?_, .inr ⟨2, rfl, _, List.mem_cons_self .., rfl, .inl (by decide)⟩,
    .inl (by decide), ?_⟩
  · rintro k hk ⟨r, j, h1, h2, h3, h4⟩
    cases h1; revert h4; revert j; revert k; decide
  · show ∀ i, i < 4 → ¬_
    rintro i hi ⟨r, j, h1, h2, h3, h4⟩
    cases h1; revert h4; revert j; revert i; decide
  · show ∀ i, i < 4 → ¬_
    rintro i hi ⟨r, j, h1, h2, h3, h4⟩
    cases h1
  · rintro (h | ⟨i, h, l, hl, -⟩)
    · revert h; decide
    · revert hl; simp [tReq, tSlot, tU, tH, State.hart, Tab.find, Hart.reset]

/-- The device registers at 0x018000000000, in M-mode at hart 2048, and remote window 3 over queue pair 2, ready or not. -/
def tDev (f : Device → Device) : State :=
  (tReg 2048 .m 0 0 true).onDev (fun d => f { d with windows := [(3, [5, 0x1000, 9])] }) |> fun s => { s with cur := 2048 }

theorem witness_registers_and_remotes :
    let s := tDev (fun d => { d with qps := [(2, [3, 0])] })
    let u := tDev (fun d => { d with qps := [(2, [1, 0])] })
    s.access s.cur 0x018000044010 8 .load = .ok (.phys 0x018000044010) ∧ regionOf 0x018000044010 = .reg 0x44010 ∧ (s.devLoad 0x44010 8).isSome = true ∧
    s.devLoad 0x47000 8 = none ∧ s.access s.cur 0x018000047000 8 .load = .ok (.phys 0x018000047000) ∧
    (match s.devStore s.cur 0x44010 8 0 with | .fault => true | _ => false) = true ∧
    (match s.devStore s.cur 0x42000 8 1400 with | .ok _ => true | _ => false) = true ∧
    (match s.devStore s.cur 0x2018 8 1 with | .held _ => true | _ => false) = true ∧
    (match (s.onDev (fun d => { d with homeChange := some (3, 5) })).devStore s.cur 0x2018 8 1 with | .wait => true | _ => false) = true ∧
    s.access s.cur 0x830000000010 8 .store = .ok (.phys 0x830000000010) ∧ s.access s.cur 0x830000000010 8 .load = .ok (.phys 0x830000000010) ∧
    isRemote 0x830000000010 = true ∧ fld ((s.dev.qps.get [] 2).getD 0 0) 1 2 = 1 ∧ fld ((u.dev.qps.get [] 2).getD 0 0) 1 2 ≠ 1 ∧
    s.ctxOf s.cur = none ∧ ((tU id).onDev (fun d => { d with windows := [(3, [5, 0x1000, 9])], qps := [(2, [1, 0])] })).ctxOf 0 = some 1 := by
  decide +kernel

/-! ## Hypotheses of the statements about rounding, CSRs, translation and regions -/

/-- RoundingIsCorrect: finite codes and others at the bounds, the kinds of NaN, a product of numbers, of infinities, and none. -/
theorem witness_rounding_cases :
    FiniteCode Fmt.f32 0x7F7FFFFF ∧ ¬FiniteCode Fmt.f32 0x7F800000 ∧ FiniteCode Fmt.bf16 0xFF7F ∧ ¬FiniteCode Fmt.f16 0x7C00 ∧
    Fmt.f32.val 0x7F800000 = .inf false ∧ (Fmt.f32.val 0x7FC00000).isNan = true ∧ (Fmt.f32.val 0x7F800001).snan = true ∧
    (Fmt.f32.val 0x7FC00000).snan = false ∧ ProductIs (.fin true 1 0) (.fin false 3 0) (.fin true 3 0) ∧
    ProductIs (.inf true) (.fin true 1 0) (.inf false) ∧ ZeroTimesInf (.inf true) (.fin false 0 0) ∧ Below (.inf true) (.fin false 0 0) := by
  unfold FiniteCode ProductIs ZeroTimesInf Below
  refine ⟨by decide, by decide, by decide, by decide, by decide, by decide, by decide, by decide, ⟨⟨3, 0, rfl⟩, by norm_num [FVal.rat]⟩,
    ⟨by decide, rfl⟩, .inl ⟨true, false, 0, rfl, rfl⟩, rfl⟩

/-- A CSR that has a value and may be written; one of a held resume state; one after a vrestore. -/
theorem witness_csr_values :
    (tH id).csrValue 0 0x300 = some 0xA00000000 ∧ CsrReachable (tH id) 0x300 true ∧ CsrReachable (tH id) 0x180 true ∧
    (((tV (fun v => { v with resume := [⟨3, 0, 0, 0, 0, [], 4, 2, 0, 2, 0⟩] })).hart 0).vec.resume.head?.isSome) = true ∧
    ((tV (fun v => { v with restored := some (0, 5), queue := [tEntry (.vid 1 0)] })).hart 0).vec.restored = some (0, 5) ∧
    (∃ e ∈ ((tV (fun v => { v with restored := some (0, 5), queue := [tEntry (.vid 1 0)] })).hart 0).vec.queue, e.seq = 0) := by
  refine ⟨by decide, ?_, ?_, by decide, by decide, _, List.mem_cons_self .., rfl⟩ <;> dsimp only [CsrReachable, FsOn] <;> decide

/-- Strand 0 in U-mode with the VST entry of granule 0 given. -/
def tSpan (e : BitVec 32) : State := (tReq id).onDev (fun d => { d with vst := [(524288, e)] })

theorem witness_windows :
    (0x80000000000004 : Nat) % 32 + 8 ≤ 32 ∧ 0x80000000000004 % 8 ≠ 0 ∧ winOf 0x80000000000008 = .span 0 8 ∧ winOf 0x800100000000000 = .none ∧
    winOf 0x0080FFFFFFFFFFFF = .none ∧ winOf 0x008000FFFFFFFFFF = .span 524287 0x1FFFFF ∧ (tSpan 0xC0001).ctxOf 0 = some 1 ∧
    ((tSpan 0xC0001).vstEntry 0 1 0).getLsbD 18 = true ∧ ((tSpan 0xC0001).vstEntry 0 1 0).getLsbD 19 = true ∧
    ((tSpan 0x40001).vstEntry 0 1 0).getLsbD 19 = false ∧ ((tSpan 1).vstEntry 0 1 0).getLsbD 18 = false ∧
    winOf 0xFF010000000000 = .ring 0 0 ∧ winOf 0xFF0100000001FF = .ring 0 511 ∧
    (let s := tRing ⟨0, false, [0], []⟩ id 0
     (s.hart 0).stg.rings.find 1 = some ⟨0, false, [0], []⟩ ∧ ((s.ring 0 0).map (fun r => (r.formed, r.n * r.z))) = some (true, 512) ∧
      (s.hart 0).stg.acquired ⟨0, false, [0], []⟩ 0 = [0]) ∧
    winOf 0xFF0000000C0000 = .hole ∧ winOf 0xFF000102000000 = .hole ∧
    fld ((tH (fun h => { h with mode := .s, csr := { h.csr with satp := 0xA000000000000000 } })).hart 0).csr.mstatus 18 1 = 0 := by decide

/-- The table at 0x4000_0000 whose entry 0 leads back to it, and whose entry 1 is as given: the walk of 0x1000 ends there at level 0. -/
def tLoopWalk (pte : List Nat) : State :=
  tWalk ([(0x40000000, 1), (0x40000003, 0x10)] ++ ((pte.zipIdx).filter (fun p => p.1 ≠ 0)).map (fun p => (0x40000008 + p.2, BitVec.ofNat 8 p.1)))

theorem witness_walks :
    (∃ e, (tLoopWalk [0xD7, 4]).WalkReads 0x1000 0 0x40000008 e 4 0x40000000) ∧ (tLoopWalk [0xD7, 4]).TableAt 0x40000008 ∧
    (∃ e, (tLoopWalk []).WalkReads 0x1000 4 0x40000000 e 4 0x40000000) ∧ ¬(tLoopWalk []).TableAt (scratchBase 0) ∧
    (tLoopWalk [0xD7, 4]).walkEntry 0 0x1000 = none ∧ Pointer 0x10000001 ∧ ¬BadEntry ((tWalk []).hart 0).csr 0 0x4D7 ∧ LeafEntry 0x4D7 ∧
    LeafPermits ((tWalk []).hart 0).csr .u .load 0x4D7 ∧ ¬LeafPermits ((tWalk []).hart 0).csr .u .load 0x4C7 ∧
    BadEntry ((tWalk []).hart 0).csr 2 0x4D7 ∧ fld (0x4000000004D7#64) 46 8 ≠ 0 ∧ fld (0x100#64) 8 2 = 1 := by
  have h0 : (tLoopWalk [0xD7, 4]).TableAt 0x40000000 := by unfold State.TableAt; decide +kernel
  have p0 : Pointer (BitVec.ofNat 64 ((tLoopWalk [0xD7, 4]).mem64 0x40000000 8)) := by unfold Pointer; decide +kernel
  have b0 : fld (BitVec.ofNat 64 ((tLoopWalk [0xD7, 4]).mem64 0x40000000 8)) 10 36 * 4096 = 0x40000000 := by decide +kernel
  refine ⟨⟨BitVec.ofNat 64 ((tLoopWalk [0xD7, 4]).mem64 0x40000008 8), ?_⟩, ?_, ⟨_, .inl ⟨rfl, rfl, rfl⟩⟩, ?_, ?_, ?_, ?_, ?_, ?_, ?_, ?_, ?_, ?_⟩
  · have step : ∀ k e, 0x1000 / 2 ^ (12 + 9 * (k + 1)) % 512 = 0 → (tLoopWalk [0xD7, 4]).WalkReads 0x1000 0 0x40000008 e k 0x40000000 →
        (tLoopWalk [0xD7, 4]).WalkReads 0x1000 0 0x40000008 e (k + 1) 0x40000000 := by
      intro k e h1 h2
      have q : 0x40000000 + 0x1000 / 2 ^ (12 + 9 * (k + 1)) % 512 * 8 = 0x40000000 := by rw [h1]
      unfold State.WalkReads
      rw [q]
      exact .inr ⟨h0, p0, by rw [b0]; exact h2⟩
    refine step 3 _ (by decide) (step 2 _ (by decide) (step 1 _ (by decide) (step 0 _ (by decide) ?_)))
    exact ⟨rfl, rfl, rfl⟩
  all_goals try unfold State.TableAt
  all_goals try unfold Pointer
  all_goals try unfold BadEntry LeafEntry
  all_goals try unfold LeafEntry
  all_goals try unfold LeafPermits
  all_goals decide +kernel

theorem witness_regions :
    (tH id).backing 0x773593FFFF = .ok ∧ (tH id).backing 0x7735940000 = .unbacked ∧ (2 ^ 48 : Nat) ≤ 2 ^ 48 ∧
    ((tH id).onDev (fun d => { d with offline := [(1, true)] })).backing (scratchBase 128) = .offline ∧
    ((tH id).onDev (fun d => { d with poison := [(0x1000, 32)] })).poisoned 0x1008 8 = true ∧ (tH id).poisoned 0x1008 8 = false ∧
    (tH id).homeOk 0 = true ∧ (tH id).homeOk 1 = false ∧ regionOf 0x018000000010 = .reg 0x10 ∧ regionOf (vaultBase 0) = .vault 0 0 ∧
    (tH id).wayVault 0 0 = false ∧ (tH id).dieUp (dieOfCore 0) = true ∧ regionOf 0x830000000010 = .remote 3 16 ∧ regionOf 0x7735940000 = .nothing := by
  decide

/-! ## Hypotheses of the statements about the checks of vector accesses and array commands -/

theorem low_scratch (v : Nat) (h1 : 0x00FF000000000000 ≤ v) (h2 : v < 0x00FF0000000C0000) : winOf v = .scratch (v - 0x00FF000000000000) := by
  unfold winOf
  rw [if_neg (by omega), if_pos (by omega)]
  exact if_pos (by omega)

theorem scratch_region (off : Nat) (h : off < 0xC0000) : regionOf (scratchBase 0 + off) = .scratch 0 off := by
  have e : scratchBase 0 = 0x010100000000 := by decide
  unfold regionOf
  rw [e, if_neg (by omega), if_neg (by omega), if_pos (by omega)]
  have e1 : 0x010100000000 + off - 0x010100000000 = off := by omega
  have e2 : off / 0x10000000 * 128 + off / 0x100000 % 256 = 0 := by omega
  have e3 : off % 0x100000 = off := by omega
  dsimp only
  rw [e1, if_pos (by omega), e2, e3]

theorem scratch_backed (off : Nat) (h : off < 0xC0000) : (tArr (tHeld 1) id).backing (scratchBase 0 + off) = .ok := by
  unfold State.backing
  rw [scratch_region off h]
  rfl

/-- No ring is bound, or a legal one. -/
theorem witness_rings_legal :
    (∀ w rs r, SlotBound (tU id) 0 w rs r → r.Legal) ∧
    (∀ w rs r, SlotBound (tRing ⟨0, false, [0], []⟩ id 0) 0 w rs r → w = 1 ∧ rs = ⟨0, false, [0], []⟩ ∧ r.basePa = scratchBase 0 ∧ r.Legal) := by
  constructor
  · rintro w rs r ⟨h, -⟩
    exact absurd h (by simp [tU, tH, State.hart, Hart.reset, Staging.start, Tab.find])
  · rintro w rs r ⟨h, h'⟩
    have hw : w = 1 ∧ rs = ⟨0, false, [0], []⟩ := by
      revert h; simp [tRing, tU, tH, State.hart, Tab.find]; rintro h1 h2; exact ⟨h1.symm, h2.symm⟩
    obtain ⟨rfl, rfl⟩ := hw
    have e : (tRing ⟨0, false, [0], []⟩ id 0).ring (clOf 0) 0 = some
        { id := 0, group := (1, 0), desc := 0, vault := false, basePa := scratchBase 0, z := 128, n := 4, d := 4, p := 1, q := 1, prods := 1,
          cons := 1, formed := true, r := 0, pendExp := 0
          stages := [⟨0, 1, 1, true, 0⟩, ⟨1, 1, 0, false, 0⟩, ⟨2, 1, 0, false, 0⟩, ⟨3, 1, 0, false, 0⟩] } := by decide
    rw [e] at h'; cases h'
    exact ⟨rfl, rfl, rfl, by decide, by decide, by decide, by decide, .inl ⟨0, 0, by decide, rfl, by decide⟩⟩

/-- Each check of Table 5-3 passed and failed: by an address across the end of the window, in S-mode, at odd places, in a stage not acquired,
in a granule absent, read-only, unbacked or of a home code without a home, in a way of the vault, of a die in reset, at a marked word. -/
theorem witness_vector_checks :
    ¬SameExtent (winOf 0x00FF0000000BFFFF) (winOf 0x00FF0000000C0000) ∧ SameExtent (winOf 0x00FF0000000BFFF8) (winOf (0x00FF0000000BFFF8 + 8 - 1)) ∧
    ((tH (fun h => { h with mode := .s })).hart 0).csr.mstatus.getLsbD 18 = false ∧ ¬(0x00FF000000000001 % 2 = 0) ∧
    RingAllows (tRing ⟨0, false, [0], []⟩ id 0) 0 0 true 0x00FF01010000007F ∧ ¬RingAllows (tRing ⟨0, false, [0], []⟩ id 0) 0 0 false 0x00FF010100000080 ∧
    SpanEntryIs (tSpan 0xC0001) 0 0 0xC0001 ∧ SpanEntryIs (tSpan 0x40001) 0 0 0x40001 ∧ SpanEntryIs (tSpan 1) 0 0 1 ∧
    regionOf (fld (0xFFFFF#32) 0 18 * 2 ^ 21) ≠ .dram ∧ regionOf (fld (0xC0001#32) 0 18 * 2 ^ 21) = .dram ∧ (tH id).homeOk (fld (0x2C0001#32) 21 7) = false ∧
    WindowPlace (tU id) 0 0x00FF000000000040 (scratchBase 0 + 64) ∧ WindowPlace (tU id) 0 0x00FF000100000000 (vaultBase 0) ∧
    (tU id).backing (vaultBase 0) = .unbacked ∧ (tU id).backing (scratchBase 0 + 64) = .ok ∧
    ((tU id).onDev (fun d => { d with offline := [(0, true)] })).backing (scratchBase 0) = .offline ∧
    ((tU id).onDev (fun d => { d with poison := [(scratchBase 0 + 64, 8)] })).poisoned (scratchBase 0 + 64) 4 = true := by
  have r0 := (witness_rings_legal.2)
  have e : (tRing ⟨0, false, [0], []⟩ id 0).ring (clOf 0) 0 = some
      { id := 0, group := (1, 0), desc := 0, vault := false, basePa := scratchBase 0, z := 128, n := 4, d := 4, p := 1, q := 1, prods := 1,
        cons := 1, formed := true, r := 0, pendExp := 0
        stages := [⟨0, 1, 1, true, 0⟩, ⟨1, 1, 0, false, 0⟩, ⟨2, 1, 0, false, 0⟩, ⟨3, 1, 0, false, 0⟩] } := by decide
  refine ⟨?_, ?_, by decide, by decide, ?_, ?_, ⟨1, by decide, by decide⟩, ⟨1, by decide, by decide⟩, ⟨1, by decide, by decide⟩, by decide,
    by decide, by decide, .inl ⟨64, by decide, by decide⟩, .inr (.inl ⟨0, by decide, by decide⟩), by decide, by decide, by decide, by decide⟩
  · rw [show winOf 0x00FF0000000BFFFF = .scratch 0xBFFFF by decide, show winOf 0x00FF0000000C0000 = .hole by decide]; exact id
  · rw [low_scratch _ (by decide) (by decide), low_scratch _ (by decide) (by decide)]; trivial
  · intro w off hw
    rw [show winOf 0x00FF01010000007F = .ring 1 127 by decide] at hw; cases hw
    exact ⟨⟨0, false, [0], []⟩, _, ⟨by decide, e⟩, by decide, by decide, by decide, by decide⟩
  · intro h
    obtain ⟨rs, r, hb, -, -, ha, -⟩ := h 1 128 (by decide)
    obtain ⟨-, rfl, -, -⟩ := r0 _ _ _ hb
    have h' := hb.2; rw [e] at h'; cases h'
    revert ha; decide

/-- An mld at the last 131,072 bytes of the own scratch window passes every check of Table 8-4; one that begins 8 bytes later leaves the window,
one at an odd address is misaligned; a weight-buffer offset of 4, or one past the end, fails check 8. -/
theorem witness_array_checks :
    (∀ v, (∃ r ∈ [(0x00FF0000000A0000, 131072)], r.1 ≤ v ∧ v < r.1 + r.2) → SameExtent (winOf 0x00FF0000000A0000) (winOf v) ∧
      RingAllows (tArr (tHeld 1) id) 0 0 false v ∧ (∃ o, winOf v = .scratch o) ∧ WindowPlace (tArr (tHeld 1) id) 0 v (scratchBase 0 + (v - 0x00FF000000000000)) ∧
      (tArr (tHeld 1) id).backing (scratchBase 0 + (v - 0x00FF000000000000)) = .ok) ∧
    ¬SameExtent (winOf 0x00FF0000000A0008) (winOf 0x00FF0000000C0007) ∧ (0x00FF0000000A0004 % 8 ≠ 0) ∧ (4 % 8 ≠ 0) ∧
    2097152 < 2097144 + fld (0x400000000#64 : Word) 22 22 ∧ 8 ≤ fld (0x2000000#64 : Word) 22 22 ∧
    ((tArr (tHeld 1) id).hart 0).mode ≠ .s ∧ (∀ w rs r, SlotBound (tArr (tHeld 1) id) 0 w rs r → r.Legal) := by
  refine ⟨?_, ?_, by decide, by decide, by decide, by decide, by decide, ?_⟩
  · rintro v ⟨r, hr, h1, h2⟩
    simp only [List.mem_singleton] at hr; subst hr
    have hw : winOf v = .scratch (v - 0x00FF000000000000) := low_scratch v (by omega) (by omega)
    refine ⟨?_, ?_, ⟨_, hw⟩, .inl ⟨_, hw, by rw [show coreOf (0 : Nat) = 0 by decide]⟩, ?_⟩
    · rw [hw, low_scratch _ (by decide) (by decide)]; trivial
    · intro w off h; rw [hw] at h; cases h
    · exact scratch_backed _ (by omega)
  · rw [show winOf 0x00FF0000000A0008 = .scratch 0xA0008 by decide, show winOf 0x00FF0000000C0007 = .hole by decide]; exact id
  · rintro w rs r ⟨h, -⟩
    exact absurd h (by simp [tArr, tU, tH, State.hart, Hart.reset, Staging.start, Tab.find])

/-- A vector access that an offline die answers, and one that is absent, at strand 0 with a request to make. -/
theorem witness_vector_stops :
    (let s := (tReq (fun h => { h with vec := { h.vec with
       queue := [{ tEntry (.ld .unit false 3 0 0) with q := .vlq, x1 := 0x80000000000000, vl := 2 }], nextSeq := 1 } }))
     (match s.checked 0 { tEntry (.ld .unit false 3 0 0) with q := .vlq, x1 := 0x80000000000000, vl := 2 } .unit 0 [0, 1] false with
       | .error (.absent true, 0x80000000000000) => true | _ => false) = true ∧ (2 : Nat) < 2 ^ 16 ∧ s.ctxOf 0 = some 1) ∧
    (let s := (tIss (.ld .unit false 3 0 0) .vlq 0x00FF000000000040 id).onDev (fun d => { d with offline := [(0, true)] })
     (match s.checked 0 { tEntry (.ld .unit false 3 0 0) with q := .vlq, x1 := 0x00FF000000000040, vl := 2 } .unit 0 [0, 1] false with
       | .error (.offline 5, _) => true | _ => false) = true) := by decide

/-! ## Hypotheses of the statements about quantised accesses, tiles, slots and textures -/

/-- One block of 32 elements of f32 at a block address, codes and tail in the own scratch window; a misaligned address; one in a hole. -/
theorem witness_quantised :
    (∃ e, MayBegin (tIss (.qld 3 1) .vlq 0x00FF000000000000 (fun e => { e with vl := 32, ty := 6 })) 0 .vlq e ∧ e.vl % 32 = 0 ∧ e.op = .qld 3 1) ∧
    (∃ e, MayBegin (tIss (.qst 3 5 1) .vsq 0x00FF000000000000 (fun e => { e with vl := 32, ty := 6 })) 0 .vsq e ∧ e.op = .qst 3 5 1 ∧ fmtOf e.ty = some Fmt.f32) ∧
    (blockPlace 0x00FF000000000000 1 0 = (0, 0x00FF000000000000, 0x00FF000000000080) ∧ (0x00FF000000000000 : Nat) / 4 % 2 = 0 ∧
      0x00FF000000000004 / 4 % 2 = 1) ∧
    RunOk (tIss (.qld 3 1) .vlq 0x00FF000000000000 id) 0 0 0x00FF000000000000 32 false (fun i => scratchBase 0 + i) ∧
    RunOk (tIss (.qld 3 1) .vlq 0x00FF000000000000 id) 0 0 0x00FF000000000080 8 true (fun i => scratchBase 0 + 128 + i) ∧
    RunStops (tIss (.qld 3 1) .vlq 0x00FF000000000000 id) 0 0 0x00FF0000000BFFE8 32 false (.exc 30) 0x00FF0000000C0000 ∧
    (let s := tIss (.qld 3 1) .vlq 0x00FF000000000000 id
     s.held 0 0 0x00FF000000000000 1 false = false ∧ s.acmds 0 = [] ∧ ∀ b ∈ (s.hart 0).vec.queue, ¬b.seq < 0) := by
  have ok : ∀ store : Bool, ∀ i < 160, (tIss (.qld 3 1) .vlq 0x00FF000000000000 id).vchk 0 0 (0x00FF000000000000 + i) 1 1 store = .ok (scratchBase 0 + i) := by
    decide
  have ext : ∀ i < 160, winOf (0x00FF000000000000 + i) = .scratch i := by decide
  unfold MayBegin
  refine ⟨⟨{ tEntry (.qld 3 1) with q := .vlq, x1 := 0x00FF000000000000, vl := 32, ty := 6 }, by decide, by decide, rfl⟩,
    ⟨{ tEntry (.qst 3 5 1) with q := .vsq, x1 := 0x00FF000000000000, vl := 32, ty := 6 }, by decide, rfl, rfl⟩, by decide, fun i hi => ⟨?_, ok _ i (by omega)⟩,
    fun i hi => ⟨?_, ?_⟩, ⟨24, by decide, by decide, .inl ⟨?_, rfl, fun j hj => ?_⟩⟩, by decide⟩
  · rw [show winOf 0x00FF000000000000 = .scratch 0 by decide, ext i (by omega)]; trivial
  · have := ext (128 + i) (by omega)
    rw [← Nat.add_assoc] at this
    rw [show winOf 0x00FF000000000080 = .scratch 128 by decide, this]; trivial
  · have := ok true (128 + i) (by omega)
    rwa [← Nat.add_assoc, ← Nat.add_assoc] at this
  · dsimp only; rw [show winOf 0x00FF0000000BFFE8 = .scratch 0xBFFE8 by decide, show winOf (0x00FF0000000BFFE8 + 24) = .hole by decide]; exact id
  · dsimp only; rw [low_scratch _ (by decide) (by decide), low_scratch _ (by omega) (by omega)]; trivial

/-- A block of fp4 whose codes and tail have all been read, and one whose last datum is still to come. -/
theorem witness_quantised_lands :
    (let e := { tEntry (.qld 3 2) with q := .vlq, x1 := 0x00FF000000000000, vl := 32, ty := 6, next := 1,
                                       got := (List.range 16 ++ [63]).map (fun i => ⟨0, i, BitVec.ofNat 64 i, true⟩) }
     (∀ d ∈ e.got, d.group = 0 → d.val = BitVec.ofNat 64 d.idx) ∧ e.vl * ebits e.ty ≤ 65536 ∧ e.frm.toNat < 5 ∧ fmtOf e.ty = some Fmt.f32 ∧
     ∀ i, i < 16 ∨ i = 63 → ∃ d ∈ e.got, d.group = 0 ∧ d.idx = i) ∧
    (let e := { tEntry (.qld 3 2) with q := .vlq, x1 := 0x00FF000000000000, vl := 32, ty := 6, next := 1, pend := [tAcc .load] }
     ((tV (fun v => { v with queue := [e] })).hart 0).vec.queue = [e] ∧ (tV (fun v => { v with queue := [e] })).accReady 0 e (tAcc .load) = true ∧
     e.q ≠ .vaq ∧ ∀ d ∈ e.got, d.group = (tAcc .load).group) := by
  refine ⟨⟨by decide, by decide, by decide, rfl, ?_⟩, by decide⟩
  rintro i (h | rfl)
  · exact ⟨⟨0, i, BitVec.ofNat 64 i, true⟩, List.mem_map_of_mem (List.mem_append_left _ (List.mem_range.mpr h)), rfl, rfl⟩
  · exact ⟨⟨0, 63, BitVec.ofNat 64 63, true⟩, List.mem_map_of_mem (by simp), rfl, rfl⟩

/-- An mst of format 0 executing, its codes and tails in one piece of scratch: each byte has a place of its own. -/
theorem witness_quantised_tile :
    let a := tCmd (.mst 1 0 1 false) 0x00FF000000000000 0 [(scratchBase 0, 34816)]
    let s := tArr (tHeld 1) (fun c => { c with executing := some a })
    (s.cluster 0).executing = some a ∧ (s.cluster 0).lease.ending = none ∧ s.badPiece a = none ∧
    (∀ j i j' i', j < 1024 → i < 32 → j' < 1024 → i' < 32 →
      rangeAt a.range (j / 4 * 136 + j % 4 * 32 + i) = rangeAt a.range (j' / 4 * 136 + j' % 4 * 32 + i') → j = j' ∧ i = i') ∧
    (∀ m i m' i', m < 256 → i < 8 → m' < 256 → i' < 8 → rangeAt a.range (m * 136 + 128 + i) = rangeAt a.range (m' * 136 + 128 + i') → m = m' ∧ i = i') ∧
    (∀ j i m i', j < 1024 → i < 32 → m < 256 → i' < 8 → rangeAt a.range (j / 4 * 136 + j % 4 * 32 + i) ≠ rangeAt a.range (m * 136 + 128 + i')) := by
  have r : ∀ o, o < 34816 → rangeAt [(scratchBase 0, 34816)] o = scratchBase 0 + o := fun o h => if_pos h
  refine ⟨rfl, rfl, by decide +kernel, fun j i j' i' h1 h2 h3 h4 h => ?_, fun m i m' i' h1 h2 h3 h4 h => ?_, fun j i m i' h1 h2 h3 h4 h => ?_⟩ <;>
    · dsimp only [tCmd] at h
      rw [r _ (by omega), r _ (by omega)] at h
      first | omega | (obtain h' | h' | h' := Nat.lt_trichotomy (j / 4) m <;> omega)

/-- A tile product, a box test over two slots, an edge tile and a decode of four BC1 texels. -/
theorem witness_tiles_and_rays :
    (tEntry (.mma .bf16 1 2 3)).op = .mma .bf16 1 2 3 ∧ RayOp.rbox ∈ [RayOp.rbox, .rtri, .rcand, .racc, .rrej, .qsph, .qknn, .qkey] ∧
    RayOp.qkey ∈ [RayOp.rbox, .rtri, .rcand, .racc, .rrej, .qsph, .qknn, .qkey] ∧
    ({ tEntry (.ray .rbox 1 2 3) with vl := 64 } : VEntry).vl % 32 = 0 ∧ (64 * 0 ≤ 32 * 1 ∧ 32 * 1 < 64 * (0 + 1) ∧ 32 * 1 < 64) ∧
    fld (0x100000000#64) 32 2 < 2 ∧ 3 ≤ fld (0x3#64) 0 3 ∧ fld (0x6#64) 0 3 < 7 ∧ (tEntry (.ray .tdecode 1 2 0)).vl ≤ 2048 := by decide

/-- A tfetch or tsamp of one element, its descriptor at the start of the own scratch window: a texture of one RGBA texel 256 bytes on, or an
unsupported one of no levels. -/
def tTex (f : RayOp) (levels : Nat) : State :=
  { tIss (.ray f 1 2 0) .vlq 0 (fun e => { e with x2 := 0x00FF000000000000, vl := 1, ty := 6 }) with
    mem := tMem (scratchBase 0) [0, 1, 0, 0, 0, 0, 0xFF, 0, 0, 0, 0, 0, 0, levels] }

/-- What tsamp or tfetch takes of such a texture for a record of zeros: its one texel. -/
theorem witness_textures :
    (∀ f, f = .tsamp ∨ f = .tfetch → ∃ e, MayBegin (tTex f 1) 0 .vlq e ∧ e.op = .ray f 1 2 0 ∧ e.vl ≤ 2048 ∧
      (tTex f 1).vchk 0 e.pos e.x2.toNat 32 32 false = .ok (scratchBase 0) ∧ (tTex f 1).mayDo 0 e e.x2.toNat (scratchBase 0) 32 false = true ∧
      ((tTex f 1).hart 0).vec.queue = [e] ∧ e.pend = [] ∧ e.got = [] ∧
      ∀ i < 4, (tTex f 1).vchk 0 e.pos (0x00FF000000000100 + i) 1 1 false = .ok (scratchBase 0 + 256 + i) ∧
        (tTex f 1).mayDo 0 e (0x00FF000000000100 + i) (scratchBase 0 + 256 + i) 1 false = true) ∧
    (let d := (tTex .tsamp 1).mem64 (scratchBase 0) 32
     TexSupported d ∧ ¬TexSupported ((tTex .tsamp 0).mem64 (scratchBase 0) 32) ∧ Samples d (fun _ => 0) [⟨0, 0, 0, 1⟩] 0 ∧
     Fetches d (fun _ => 0) [⟨0, 0, 0, 1⟩] 0 ∧ SampledAt d ⟨0, 0, 0, 1⟩ (0x00FF000000000100, 0)) := by
  have hd : (tTex .tsamp 1).mem64 (scratchBase 0) 32 = (2 ^ 104 + 0x00FF000000000100) := by decide
  refine ⟨?_, ?_⟩
  · rintro f (rfl | rfl) <;> unfold MayBegin
    · exact ⟨{ tEntry (.ray .tsamp 1 2 0) with q := .vlq, x1 := 0, x2 := 0x00FF000000000000, vl := 1, ty := 6 }, by decide⟩
    · exact ⟨{ tEntry (.ray .tfetch 1 2 0) with q := .vlq, x1 := 0, x2 := 0x00FF000000000000, vl := 1, ty := 6 }, by decide⟩
  · rw [hd]
    have z : ∀ lo hi : ℚ, lo ≤ 0 → 0 ≤ hi → CoordIs 0 lo hi 0 := fun lo hi h1 h2 => by
      show 0 = max lo (min hi (FVal.fin false 0 (-149)).rat)
      simp [FVal.rat, h1, h2]
    have l0 : texLevels (2 ^ 104 + 0x00FF000000000100) = 1 := by decide
    refine ⟨by unfold TexSupported; decide, fun h => absurd h.2.2.2.2.2.2.1 (by decide), ⟨0, 0, 0, z _ _ (by norm_num) (by norm_num), z _ _ (by norm_num) (by norm_num),
      z _ _ le_rfl (by rw [l0]; norm_num), fun _ => ⟨rfl, 0, ⟨⟨0, by simp⟩, ?_⟩, by simp⟩, fun h => absurd h (by decide), fun h => absurd h (by decide)⟩,
      ⟨rfl, fun _ => by simp, fun h => absurd ?_ h⟩, ⟨0, 0, by unfold Addressed; decide, by unfold Addressed; decide, by decide⟩⟩
    · rintro y ⟨i, rfl⟩
      by_cases hi : i = 0
      · exact .inr (.inl (by simp [hi]))
      · refine .inl ?_
        simpa using hi
    · refine ⟨by decide, by rw [l0]; decide, by decide, by decide, by decide, by decide⟩

/-- Vector full-empty accesses: one element in a full line, an empty one, one line in the vault window, one in a stage of a ring. -/
theorem witness_full_empty_vectors :
    (∀ full store, ∃ e, e.op = (if store then VOp.stfe 3 0 else .ldfe 3 0) ∧
      let s := { tIss e.op (if store then .vsq else .vlq) 0x00FF000000000000 id with fe := if full then [(scratchBase 0 / 128, true)] else [] }
      MayBegin s 0 (if store then .vsq else .vlq) e ∧ e.actives (s.hart 0).vec 0 e.next = [0, 1] ∧ s.full (scratchBase 0 / 128) = full ∧
      (∀ i < 2, s.vchk 0 e.pos (0x00FF000000000000 + 4 * i) 4 4 store = .ok (scratchBase 0 + 4 * i) ∧ (scratchBase 0 + 4 * i) / 128 = scratchBase 0 / 128 ∧
        s.mayDo 0 e (0x00FF000000000000 + 4 * i) (scratchBase 0 + 4 * i) 4 store = true) ∧
      s.lowerConsumer 0 (scratchBase 0 / 128) = false ∧ (s.hart 0).vec.queue = [e] ∧ e.pend = [] ∧ e.got = [] ∧ e.ty ≠ 10) ∧
    (∀ off, winOf 0x00FF000100000000 ≠ .scratch off) ∧ (∀ w off, winOf 0x00FF000100000000 ≠ .ring w off) ∧
    (∃ off, winOf 0x00FF000000000000 = .scratch off) := by
  refine ⟨?_, ?_, ?_, ⟨0, by decide⟩⟩
  · rintro full store
    refine ⟨{ tEntry (if store then VOp.stfe 3 0 else .ldfe 3 0) with q := (if store then .vsq else .vlq), x1 := 0x00FF000000000000, vl := 2 }, ?_⟩
    unfold MayBegin
    revert full store; decide
  · rw [show winOf 0x00FF000100000000 = .vault 0 by decide]; rintro off ⟨⟩
  · rw [show winOf 0x00FF000100000000 = .vault 0 by decide]; rintro w off ⟨⟩

/-! ## Hypotheses of the statements about vector groups and streams, continued -/

/-- A reduction, a conversion and a compress of two groups: the last group and one before it; bounds of the element counts. -/
theorem witness_last_groups :
    (∀ op, op = .red .sum 3 2 1 0 ∨ op = .compress 3 2 1 → let e := { tEntry op with vl := 65 }
      0 + 1 < e.groups ∧ 1 + 1 = e.groups ∧ e.vl * ebits e.ty ≤ 65536 ∧ e.vl ≤ 8192) ∧
    (let e := { tEntry (.cvt 3 2 7 0) with ty := 6 }; e.vl * ebits 7 ≤ 65536 ∧ e.vl * ebits e.ty ≤ 65536) ∧
    ({ tEntry (.lysave 3 1) with vl := 8192 } : VEntry).vl ≤ 8192 ∧ FiniteCode Fmt.f32 0x80000000 ∧ ¬FiniteCode Fmt.f32 0x7FC00000 := by
  unfold FiniteCode
  refine ⟨?_, by decide, by decide, by decide, by decide⟩
  rintro op (rfl | rfl) <;> decide

/-- An amo of two elements, its addresses passed and one failed; a prefetch alone in its queue. -/
theorem witness_vector_queue_others :
    (∃ e, MayBegin (tIss (.amo .add 3 2 0) .vsq 0x00FF000000000000 id) 0 .vsq e ∧ e.op = .amo .add 3 2 0 ∧
      (match (tIss (.amo .add 3 2 0) .vsq 0x00FF000000000000 id).checked 0 e .index 2 [0, 1] true with | .ok els => els.length = 2 | _ => false) = true) ∧
    (∃ e, MayBegin (tIss (.amo .add 3 2 0) .vsq 0x00FF0000000C0000 id) 0 .vsq e ∧
      (match (tIss (.amo .add 3 2 0) .vsq 0x00FF0000000C0000 id).checked 0 e .index 2 [0, 1] true with | .error (.exc 30, _) => true | _ => false) = true) ∧
    (∃ e, MayBegin (tIss (.pref false) .vlq 0x00FF000000000000 id) 0 .vlq e ∧ e.op = .pref false ∧
      ((tIss (.pref false) .vlq 0x00FF000000000000 id).hart 0).vec.queue = [e] ∧ e.pend = [] ∧ e.got = []) ∧
    (∀ k ∈ [AccKind.nibble true, .nibble false, .tail 12 12, .amo .max 6 0, .amo .add 2 0, .fill],
      let e := { tEntry (.st .unit false 3 0 0) with q := .vsq, next := 1, pend := [tAcc k] }
      ((tV (fun v => { v with queue := [e] })).hart 0).vec.queue.flatMap (fun e => e.pend.map (fun x => (e, x))) = [(e, tAcc k)] ∧
        (tV (fun v => { v with queue := [e] })).accReady 0 e (tAcc k) = true) ∧ 12 + 12 ≤ 64 ∧ ebits 2 = 8 * (tAcc .fill).width ∧
    (let e := { tEntry (.ld .stride false 3 0 0) with q := .vlq, next := 1, pend := [tAcc .load], seen := [(0x1000, 9)] }
     e.seen.find (tAcc .load).pa = some (BitVec.ofNat 64 9) ∧ 9 < 2 ^ ebits e.ty ∧ (tV (fun v => { v with queue := [e] })).accReady 0 e (tAcc .load) = true) := by
  unfold MayBegin
  refine ⟨⟨{ tEntry (.amo .add 3 2 0) with q := .vsq, x1 := 0x00FF000000000000, vl := 2 }, by decide, rfl, by decide +kernel⟩,
    ⟨{ tEntry (.amo .add 3 2 0) with q := .vsq, x1 := 0x00FF0000000C0000, vl := 2 }, by decide, by decide +kernel⟩,
    ⟨{ tEntry (.pref false) with q := .vlq, x1 := 0x00FF000000000000, vl := 2 }, by decide, rfl, by decide, rfl, rfl⟩, by decide, by decide, by decide, by decide⟩

/-- A vrecv at an endpoint with one group of its message buffered, with a group and its last, with none, closed or open; a vsend to no one. -/
def tRecv (x : Endpoint → Endpoint) : State := (tIss (.recv 3) .vlq 0 id).onStg 0 (fun g => { g with eps := [(0, x tEp)] })

theorem witness_stream_groups :
    (∀ x ∈ [tEp, { tEp with link := .closed }, { tEp with buf := [⟨0, 2, 32, [], 0, true⟩] },
        { tEp with buf := [⟨0, 2, 32, [], 0, false⟩, ⟨0, 2, 32, [], 0, true⟩] }, { tEp with buf := [⟨0, 4, 16, [], 0, false⟩] }],
      ∃ e, MayBegin (tRecv (fun _ => x)) 0 .vlq e ∧ e.op = .recv 3 ∧ e.x1.toNat = 0 ∧ (tRecv (fun _ => x)).endpoint 0 0 = some x ∧
        ((tRecv (fun _ => x)).hart 0).vec.queue = [e] ∧ e.pend = [] ∧ e.got = [] ∧ e.groups ≤ e.next + 1) ∧
    (∀ l ∈ [EpLink.closed, .alone], ∃ e,
      let s := (tIss (.send 3) .vsq 0 id).onStg 0 (fun g => { g with eps := [(0, { tEp with recv := false, link := l })] })
      MayBegin s 0 .vsq e ∧ e.op = .send 3 ∧ e.x1.toNat = 0 ∧ (s.endpoint 0 0).map Endpoint.link = some l ∧ (s.hart 0).vec.queue = [e] ∧
        e.pend = [] ∧ e.got = []) := by
  unfold MayBegin
  refine ⟨fun x hx => ⟨{ tEntry (.recv 3) with q := .vlq, x1 := 0, vl := 2 }, ?_⟩, fun l hl => ⟨{ tEntry (.send 3) with q := .vsq, x1 := 0, vl := 2 }, ?_⟩⟩
  · revert x; decide
  · revert l; decide

/-! ## Hypotheses of the statements about barriers, images and the array, continued -/

/-- A member set without the core; a row mask with a row beside its own, a column mask with a column beside its own; an inheritance of votes. -/
theorem witness_barrier_misses :
    0 ∉ wireMembers 0 0 (BitVec.ofNat 16 (fld (0x1010002#64) 0 16)) (BitVec.ofNat 8 (fld (0x1010002#64) 16 8)) ∧
    (∃ r, r < 8 ∧ r ≠ rowOf 0 ∧ (0x1030001#64).getLsbD (16 + r) = true) ∧ (∃ c, c < 16 ∧ c ≠ colOf 0 ∧ (0x1010003#64).getLsbD c = true) ∧
    (let s := { tWire (fun w => { w with votes := [(0, true)] }) 0 with
       cores := [(0, { Core.reset with wires := [(0, { Wire.reset with part := some 0, ctx := 1, cols := 3, rows := 1, votes := [(0, true)] })] }),
         (1, { Core.reset with wires := [(0, { Wire.reset with part := some 8, ctx := 1, cols := 3, rows := 1 })] })] }
     ∃ c ∈ wireMembers 0 0 (BitVec.allOnes 16) (BitVec.allOnes 8), c ≠ 0 ∧ (s.wire c 0).part.isSome = true ∧ (s.wire c 0).ctx = (s.wire 0 0).ctx) := by
  refine ⟨by decide, ⟨1, by decide⟩, ⟨1, by decide⟩, 1, by decide⟩

/-- An image whose first part, or whose last, lies where nothing is; a replica of a die in reset. -/
theorem witness_images_and_tables_fail :
    (tH id).access 0 (0x7735940000#64 + BitVec.ofNat 64 (32 * 0)) 32 .store = .stop (.exc 7) ∧
    (tH id).access 0 (0x7735940000#64 + BitVec.ofNat 64 (32 * 0)) 32 .load = .stop (.exc 5) ∧
    (let s := (tH id).onDev (fun d => { d with offline := [(0, true)] })
     s.dev.offline.get false 0 = true ∧ s.dev.offline.get false 1 = false ∧ ((tH id).ctx 3).killing = false) ∧
    ((tH (fun h => { h with arr := { h.arr with susp := 1 } })).hart 0).arr.susp ≠ 0 ∧
    ((tU (fun h => { h with stores := [⟨0, scratchBase 0, scratchBase 0, 8, 0, false, none⟩] })).hart 0).storing (scratchBase 0) 8 = true := by decide

/-- A lease whose cy have run out, with a request of another strand and without. -/
theorem witness_lease_runs_out :
    (let s := (tArr (tHeld 256) id).onDev (fun d => { d with cy := 16384 })
     (s.cluster 0).lease.holder = some 0 ∧ (s.cluster 0).lease.start = some 0 ∧ 0 + 16384 ≤ s.dev.cy ∧
       ∀ k, k < 16 → strandAt 0 k ≠ 0 → (s.hart (strandAt 0 k)).arr.req = false) ∧
    (let s := ((tArr (tHeld 256) id).onDev (fun d => { d with cy := 16384 })).onHart 4 (fun h => { h with arr := { h.arr with req := true } })
     ∃ k, k < 16 ∧ strandAt 0 k ≠ 0 ∧ (s.hart (strandAt 0 k)).arr.req = true) ∧
    ((tArr (fun l => { tHeld 256 l with start := none }) id).cluster 0).lease.start = none ∧
    (let s := tArr (fun l => { l with ending := some (0, true), parking := some (0, 3) }) id
     (s.cluster 0).lease.holder ≠ some 0 ∧ (s.cluster 0).lease.ending.map Prod.fst = some 0 ∧ (s.cluster 0).lease.parking ≠ none) := by decide

/-! ## Hypotheses of the statements about copies, tasks, tables, the part, the network and registers, continued -/

/-- A launch whose source leaves its window, or lies in the device registers; a piece whose source is backed by nothing; one held back. -/
theorem witness_copies_fail :
    (let c : Chan := { Chan.start with sh := [(0, 0x00FF0000000C0000), (1, 0x2000), (2, 32)] }
     let s := tU (fun h => { h with stg := { h.stg with chans := [(0, c)] } })
     (s.newXfer 0 c).virt = true ∧ (s.newXfer 0 c).zero = false ∧
       (match s.boundChk 0 0 false (s.newXfer 0 c).srcBound with | .error (30, 0x00FF0000000C0000) => true | _ => false) = true) ∧
    regRange (0x018000000000 - 8, 32) = true ∧ winOf (0x018000000000 - 8) = .none ∧
    (let x := { tXfer [] with src := 0x7735940000 }
     let s := tChan (fun c => { c with xfers := [x] })
     x.piece 0 = (0x7735940000, 0x2000, 8) ∧ x.tag = none ∧ 0 ∉ x.moved ∧
       (match s.engineRange x false 0x7735940000 8 [] with | .error (.exc 5, _) => true | _ => false) = true) ∧
    (let x := { tXfer [] with pos := 1 }
     let s := tH (fun h => { h with stores := [⟨0, 0x1000, 0x1000, 8, 0, false, none⟩], stg := { h.stg with chans := [(0, { Chan.start with xfers := [x] })] } })
     s.copyWaits x 0x1000 1 false = true ∧ (∀ l, s.engineRange x false 0x1000 8 [] ≠ .ok l ∨ l ≠ [])) := by
  refine ⟨by decide, by decide, by decide, by decide, by decide, fun l => ?_⟩
  by_cases h : l = []
  · left; subst h; decide
  · exact .inr h

/-- A block of one task; an exit held by a store; the candidate of a queue; a core with no strand lowered. -/
theorem witness_tasks_continued :
    (tU (fun h => { h with wait := .exit [], stores := [⟨0, 64, 64, 8, 0, false, none⟩] })).drained 0 = false ∧
    ((tDisp 0).onQueue 0 (fun q => { q with eligible := some 0, passed := [(0, 0, 0)] })).candId 0 = some 0 ∧
    ((tDisp 0).queue 0).bound = false ∧ ((tQ [] id).eligible 5 = false) ∧ (∀ l ∈ ((tH id).core 0).lowered, (tH id).dev.cy < l.2) ∧
    ¬((tH id).dev.queries ≠ []) := by decide

/-- A wdq address in the own scratch window; a list of 16 gangs, and one of 15. -/
theorem witness_queries :
    ((tU id).hart 0).effMode .store = .u ∧ winOf (0x00FF000000000008#64 : Word).toNat = .scratch 8 ∧
    (tU id).access 0 0x00FF000000000008 8 .store = .ok (.phys (scratchBase 0 + 8)) ∧ winOf (0x00FF000100000000#64 : Word).toNat = .vault 0 ∧
    fld (63#64) 6 58 = 0 ∧ fld (64#64) 6 58 ≠ 0 ∧ ((List.replicate 15 ((2, 9, 5) : Nat × Nat × Word)).length < 16) := by decide

/-- Strands that wait for a remote save, a vsave, a vrestore whose image is all zeros; a vstupd with no old frame. -/
theorem witness_images_continued :
    ((tH (fun h => { h with wait := .remoteSave })).hart 0).wait = .remoteSave ∧ ((tH id).hart 0).remotes = [] ∧
    ((tH (fun h => { h with wait := .vstupd 1 0 })).hart 0).wait = .vstupd 1 0 ∧ QueriesTaken (tH id) 0 0 ∧
    (match (tH id).image 0 0x1000 .load with | .ok xs => decide (xs.length = 1280) && xs.all (fun x => decide (isRemote x.pa = false)) | _ => false) = true ∧
    (tH id).held 0 0 0x1000 81920 false = false ∧ Tab.rising 0 (tH id).cores = true := by
  refine ⟨by decide, by decide, by decide, ?_, by decide +kernel, by decide, by decide⟩
  rintro p hp; exact absurd hp List.not_mem_nil

/-- The part before its start and after; a die not admitted; a word of the vault and of stacked memory. -/
theorem witness_part_continued :
    State.reset.dev.admitted.get false 1 = false ∧ (State.reset.link 1).down = true ∧
    regionOf (vaultBase 0) = .vault 0 0 ∧ ((tH id).onDev (fun d => { d with locked := true })).dev.locked = true := by decide

/-- An entry that puts queue pair 2 out of use, with a store in flight on it; one that leaves it in use; a window and a region. -/
theorem witness_applies :
    (let s := (tU (fun h => { h with remotes := [⟨0, 0x800000000000, some 1, none, none, 0, 2⟩] })).onDev (fun d => { d with qpBusy := some (2, [4]) })
     fld (2#64) 12 2 = 0 ∧ fld (4#64) 1 2 ≠ 1 ∧ (s.hart 0).remotes = [⟨0, 0x800000000000, some 1, none, none, 0, 2⟩] ∧ s.ctxOf 0 = some 1 ∧
       ∀ p ∈ s.harts, p.1 ≠ 0 → p.2.remotes = []) ∧ fld (3#64) 1 2 = 1 ∧ fld (0x1003#64) 12 2 = 1 ∧ fld (0x2003#64) 12 2 = 2 := by decide

/-- PGDONE's tag held by a copy in flight and by none; the fault queue, overflow and consumer registers; a context to make resident. -/
theorem witness_register_continued :
    (∀ p ∈ ([(0x40040, .fq 1 0), (0x20150, .queue 5 2), (0x48100, .ctx 2 0)] : List (Nat × DevReg)),
      StoresReg (tReg 2048 .m p.1 0x1000 true) 2048 p.2 (BitVec.ofNat 64 (0x018000000000 + p.1)) 0x1000) ∧
    (let x := { tXfer [] with tag := some (2, 0x1000) }
     let s := tH (fun h => { h with stg := { h.stg with tags := [2], chans := [(0, { Chan.start with xfers := [x] })] } })
     (s.hart 0).chanAt 0 = some { Chan.start with xfers := [x] } ∧ x.tag = some (2, 0x1000) ∧ 2 ∈ (s.hart 0).stg.tags) ∧
    (∀ ch, ((tU id).hart 0).stg.chans.find ch = none) ∧
    fld (0x1000#64) 0 12 = 0 ∧ regionOf (0x1000#64 : Word).toNat = .dram ∧ regionOf (0x010100000000#64 : Word).toNat ≠ .dram ∧
    ((tH id).onCtx 0 (fun c => { c with ctl := 1 })).applyOk 0x2000 (List.replicate 8 0) = true ∧ (tH id).applyOk 0 [0x20] = false := by
  refine ⟨?_, by decide, fun ch => rfl, by decide, by decide, by decide, by decide, by decide⟩
  intro p hp
  simp only [List.mem_cons, List.not_mem_nil, or_false] at hp
  rcases hp with rfl | rfl | rfl <;> dsimp only <;> exact stores_reg _ _ _ _ _ (by decide +kernel) (by decide +kernel) (by decide +kernel)

/-! ## Hypotheses of the statements, continued: returns, walks in the way, older stores, leases, copies -/

/-- A held resume state with the traps taken since. -/
def tBack (frames : List Frame) : Vec :=
  { Vec.start 32 with resume := [⟨0, 0, 0, 0, 0, [], 4, 2, 0, 2, 0⟩], frames := frames }

/-- A return back at the code of the only trap, one that ends a nested trap, one that ends none; levels too low for sret and mret. -/
theorem witness_returns :
    (Frame.mode ⟨1, .u, 0x1000⟩ = Mode.u ∧ (tBack [⟨1, .u, 0x1000⟩]).frames = [] ++ ⟨1, .u, 0x1000⟩ :: []) ∧
    (∀ g ∈ (tBack [⟨1, .s, 0x2000⟩, ⟨0, .u, 0x1000⟩]).frames.take 1, ¬(g.mode = Mode.u ∧ g.pc = 0x1000)) ∧
    (∀ g ∈ (tBack []).frames, ¬(g.mode = Mode.u ∧ g.pc = 0x1000)) ∧
    ((tH (fun h => { h with mode := .s, csr := { h.csr with mstatus := 0x400000 } })).hart 0).csr.mstatus.getLsbD 22 = true ∧
    ((tU id).hart 0).mode = .u ∧ ((tU id).hart 0).mode ≠ .m ∧ ((tRun.hart 0).arr.back = false) := by decide

/-- Two walks under way at core 0: of an address as given for strand 0, and of another for strand 4. -/
def tTwo (va asid : Nat) (f : Hart → Hart) : State :=
  { tWalk [] with
    harts := [(0, f ((tWalk []).hart 0))]
    cores := [(0, { Core.reset with walking := [⟨0, asid, va, 4, 0x40000000, []⟩, ⟨4, 0, 0x9000, 4, 0x40000000, []⟩] })] }

/-- An access or a fetch behind two walks; a walk that no access needs any more, in M-mode or of another asid; one of a span address. -/
theorem witness_walks_in_the_way :
    2 ≤ ((tTwo 0x1000 0 id).core (coreOf 0)).walking.length ∧ (tTwo 0x1000 0 id).walkEntry 0 0x1000 = none ∧
    (tTwo 0x1000 0 id).tlbHit 0 0x1000 = none ∧ ((tTwo 0x1000 0 id).hart 0).effMode .load = .u ∧ fld ((tTwo 0 0 id).hart 0).csr.satp 60 4 = 10 ∧
    (tTwo 0x2000 0 id).access 0 0x1000 8 .load = .stop .busy ∧ (tTwo 0x2000 0 (fun h => { h with pc := 0x1000 })).fetchAt 0 = .stop .busy ∧
    (((tTwo 0x1000 0 (fun h => { h with mode := .m })).core 0).walking.find? (fun w => decide (w.hart = 0))).isSome = true ∧
    ((tTwo 0x1000 0 (fun h => { h with mode := .m })).hart 0).mode = .m ∧
    (((tTwo 0x1000 7 id).core 0).walking.find? (fun w => decide (w.hart = 0))).map Walk.asid = some 7 ∧
    fld ((tTwo 0x1000 7 id).hart 0).csr.satp 44 16 = 0 ∧
    (((tTwo 0x1000 7 id).core 0).walking.find? (fun w => decide (w.hart = 0 ∧ w.va = 0x3000))) = none ∧
    winOf 0x80000000000008 = .span 0 8 ∧ ((tSpan 1).vstEntry 0 1 0).getLsbD 18 = false ∧ ((tSpan 1).core 0).walking = [] := by decide

/-- Older stores of a strand that have performed, one to a remote window not yet acknowledged, and a query not yet taken. -/
theorem witness_older_stores :
    StoresOut (tH id) 0 5 ∧ ¬StoresOut (tH (fun h => { h with remotes := [⟨0, 0, none, none, none, 0, 2⟩] })) 0 5 ∧
    ¬StoresOut ((tH id).onDev (fun d => { d with queries := [⟨0, 1, 3, 0, 0, none⟩] })) 0 5 ∧
    StoresOut ((tH id).onDev (fun d => { d with queries := [⟨0, 1, 3, 0, 0, some 7⟩] })) 0 5 := by
  unfold StoresOut QueriesTaken; decide

/-- A vstfe group behind an older vector store of its queue, and in front of one. -/
theorem witness_stfe_order :
    (let b := { tEntry (.st .unit false 1 0 0) with q := .vsq, vl := 2 }
     let e := { tEntry (.stfe 3 0) with seq := 1, q := .vsq, x1 := 0x00FF000000000040, vl := 2 }
     (∃ b' ∈ [b, e], b'.seq < e.seq ∧ b'.q = .vsq ∧ b'.next < b'.groups) ∧ ¬(∃ b' ∈ [e], b'.seq < e.seq ∧ b'.q = .vsq ∧ b'.next < b'.groups)) ∧
    (let e := { tEntry (.stfe 3 0) with q := .vsq, next := 1, pend := [tAcc .fill] }
     (∀ y ∈ e.pend, y.kind = .fill ∨ (tAcc .fill).group < y.group) ∧ ((tV (fun v => { v with queue := [e] })).hart 0).vec.before e.pos = [] ∧
       (tV (fun v => { v with queue := [e] })).accReady 0 e (tAcc .fill) = true) := by decide

/-- The lease of cluster 0 free since cy 0, requested by strand 0 in cy 0: due to it in that cy; and one not free. -/
def tDue (area : Option Nat) (now : Nat) : State :=
  ((tArr id id).onHart 0 (fun h => { h with arr := { h.arr with req := true, reqAt := 0, area := area, mask := 1 } })).onDev (fun d => { d with cy := now })

theorem witness_lease_due :
    LeaseDue (tDue none 5) 0 0 0 ∧ 0 < (tDue none 5).dev.cy ∧ (tDue none 5).dev.cy < 0 + 16384 ∧ ((tDue (some 3) 20000).hart 0).arr.area ≠ none ∧
    LeaseDue (tDue (some 3) 20000) 0 0 0 ∧ (∀ w d, ¬LeaseDue (tArr (tHeld 256) id) 0 w d) := by
  refine ⟨⟨by unfold LeaseFree; decide, by decide, .inl (by decide), 0, by decide, by decide, by decide, by decide⟩, by decide, by decide, by decide,
    ⟨by unfold LeaseFree; decide, by decide, .inl (by decide), 0, by decide, by decide, by decide, by decide⟩, ?_⟩
  rintro w d ⟨⟨h, -⟩, -⟩
  exact absurd h (by decide)

/-- A lease whose cy ran out while a command executes; one with vacant tiles; tiles being read back for a holder, or for the last one's
accepted commands, with a command still to complete; and an mrel in the midst of that. -/
theorem witness_lease_ends :
    (let s := ((tArr (tHeld 256) (fun c => { c with executing := some (tCmd (.mzero 1) 0 0 []) })).onDev (fun d => { d with cy := 16384 })).onHart 4
       (fun h => { h with arr := { h.arr with req := true } })
     (s.cluster 0).executing ≠ none ∧ (s.cluster 0).lease.start = some 0 ∧ (∃ k, k < 16 ∧ strandAt 0 k ≠ 0 ∧ (s.hart (strandAt 0 k)).arr.req = true)) ∧
    ((tArr (tHeld 256) id).cluster 0).live = 0 ∧ ((tArr (tHeld 256) (fun c => { c with live := 1 })).cluster 0).live ≠ 0 ∧
    ((tArr (tHeld 256) (fun c => { c with live := 1 })).cluster 0).areas = [] ∧
    (let s := (tArr (fun l => { l with restoring := true, ending := some (0, false) }) (fun c => { c with areas := [(3, [(5, 7)])], cmdq := [tCmd (.mzero 1) 0 0 []] })).onHart 0
        (fun h => { h with arr := { h.arr with area := some 3, mask := 1 } })
     (s.cluster 0).lease.restoring = true ∧ (s.cluster 0).lease.holder = none ∧ (s.cluster 0).lease.ending = some (0, false) ∧ (s.hart 0).arr.area = some 3 ∧
       (s.cluster 0).areas.find 3 = some [(5, 7)] ∧ ¬((s.cluster 0).cmdq = [] ∧ (s.cluster 0).executing = none ∧ (s.cluster 0).fills = []) ∧
       s.leaseCheck 0 = s) ∧
    (let s := (tArr (fun l => { tHeld 256 l with restoring := true, start := none }) id)
     (s.cluster 0).lease.restoring = true ∧ (s.cluster 0).lease.holder = some 0 ∧ ((s.cluster 0).cmdq = [] ∧ (s.cluster 0).executing = none ∧ (s.cluster 0).fills = [])) ∧
    ((tArr (fun l => { l with ending := some (0, true) }) id).cluster 0).lease.holder ≠ some 0 := by decide

/-- A pre-empted strand whose array side is on its way back, with its request posted. -/
theorem witness_array_back :
    (let s := (tArr id id).onHart 0 (fun h => { h with preempt := true, arr := { h.arr with back := true, req := true } })
     (s.hart 0).arr.back = true ∧ (s.hart 0).arr.req = true) ∧
    (let s := (tArr (tHeld 256) id).onHart 0 (fun h => { h with preempt := true, arr := { h.arr with back := true, req := true } })
     s.leaseCheck 0 = s ∧ (s.hart 0).arr.back = true ∧ s.takes 0 = some 17) := by decide

/-! ## Hypotheses of the statements, continued: exits, commands before a group, fences, messages, copies, network -/

/-- Strand 0 with remote window 3 over queue pair 2, ready. -/
def tWin (f : Hart → Hart) : State := (tU f).onDev (fun d => { d with windows := [(3, [5, 0x1000, 9])], qps := [(2, [3, 0])] })

/-- An exit whose list lies in a remote window, or at a device register that no load reads; one whose join counter is 0, or in a remote window. -/
theorem witness_exits_elsewhere :
    (tWin id).access 0 0x830000000010 8 .load = .ok (.phys 0x830000000010) ∧ isRemote 0x830000000010 = true ∧
    fld (((tWin id).dev.qps.get [] (fld (((tWin id).dev.windows.get [] (0x830000000010 / 2 ^ 40 - 128)).getD 0 0) 1 12)).getD 0 0) 1 2 = 1 ∧
    (tWin id).access 0 0x018000047000 8 .load = .ok (.phys 0x018000047000) ∧ regionOf 0x018000047000 = .reg 0x47000 ∧
    (tWin id).devLoad 0x47000 8 = none ∧ (0x830000000010#64).toNat % 8 = 0 ∧ ((tWin id).hart 0).remotes = [] ∧
    (∃ r ∈ ((tWin (fun h => { h with remotes := [⟨0, 0, some 1, some ⟨0, 0, false, 0, 8, true⟩, some 0, 3, 2⟩] })).hart 0).remotes, r.img ≠ none) ∧
    (let s := tWin (fun h => { h with wait := .exit [⟨0x1000, 0, 5, some 0x101C⟩] })
     s.mem64 0x101C 4 = 0 ∧ s.ctxOf 0 = some 1 ∧ s.drained 0 = true ∧ (s.ctx 1).killing = false ∧ regionOf 0x101C = .dram) ∧
    (let s := tWin (fun h => { h with wait := .exit [⟨0x1000, 0, 5, some 0x830000000010⟩] })
     s.drained 0 = true ∧ (s.ctx 1).killing = false) := by decide

/-- An accepted command of strand 0 that comes before an entry and one that comes after; one that a pre-emption recorded, while the strand's
array side is suspended: before a reinstated entry, not before one issued since. -/
theorem witness_commands_before :
    (let a := tCmd (.mzero 1) 0 0 []
     let s := tArr (tHeld 256) (fun c => { c with cmdq := [a] })
     CommandBefore s 0 { tEntry (.vid 1 0) with pos := 1, entered := 1 } a ∧ ¬CommandBefore s 0 (tEntry (.vid 1 0)) a) ∧
    (let a := tCmd (.mzero 1) 0 0 []
     let s := (tArr id id).onHart 0 (fun h => { h with arr := { h.arr with resume := [a], susp := 1 } })
     CommandBefore s 0 { tEntry (.vid 1 0) with pos := 1, entered := 9 } a ∧ ¬CommandBefore s 0 { tEntry (.vid 1 0) with pos := 9, entered := 9 } a) ∧
    (∀ a, ¬CommandBefore (tU id) 0 (tEntry (.vid 1 0)) a) := by
  refine ⟨?_, ?_, ?_⟩
  · unfold CommandBefore; decide
  · unfold CommandBefore; decide
  · rintro a ⟨-, h | ⟨h, -⟩⟩
    · revert h
      rw [show (tU id).acmds 0 = [] by decide]
      exact List.not_mem_nil
    · revert h
      rw [show ((tU id).hart 0).arr.resume = [] by decide]
      exact List.not_mem_nil

/-- A fence.vv at the head of its queue, alone there; a load with its line in device memory. -/
theorem witness_fences :
    (∃ e, MayBegin (tIss (.fence true) .vlq 0 id) 0 .vlq e ∧ e.op = .fence true ∧ e.q ≠ .vaq ∧
      ((tIss (.fence true) .vlq 0 id).hart 0).vec.queue = [e] ∧ e.pend = [] ∧ e.got = [] ∧ ((tIss (.fence true) .vlq 0 id).hart 0).remotes = []) ∧
    (∃ r ∈ ((tU (fun h => { h with remotes := [⟨0, 0, none, none, none, 0, 2⟩] })).hart 0).remotes, ¬1 ≤ r.pos) := by
  unfold MayBegin
  refine ⟨⟨{ tEntry (.fence true) with q := .vlq, x1 := 0, vl := 2 }, by decide, rfl, by decide, by decide, rfl, rfl, by decide⟩, by decide⟩

/-- A message of no element. -/
theorem witness_empty_message : ({ tEntry (.send 3) with vl := 0 } : VEntry).vl = 0 ∧ (∃ e, MayBegin (tSend []) 0 .vsq e ∧ e.op = .send 3) := by
  unfold MayBegin
  exact ⟨rfl, { tEntry (.send 3) with q := .vsq, x1 := 0, vl := 2, since := some 0 }, by decide, rfl⟩

/-- A copy's piece behind two walks; a fixed-window range inside, across the end, in S-mode without SUM, and in a vault way not in that role. -/
theorem witness_copies_and_ranges :
    (let x := { tXfer [] with mode := .u, satp := 0xA000000000040000 }
     let s := (tTwo 0x9000 0 (fun h => { h with stg := { h.stg with chans := [(0, { Chan.start with xfers := [x] })] } }))
     (match s.engineRange x false 0x1000 8 [] with | .error (.busy, _) => true | _ => false) = true) ∧
    SameExtent (winOf 0x00FF0000000BFFF0) (winOf 0x00FF0000000BFFFF) ∧ ¬SameExtent (winOf 0x00FF0000000BFFF0) (winOf 0x00FF0000000C000F) ∧
    ((tH (fun h => { h with mode := .s })).hart 0).csr.mstatus.getLsbD 18 = false ∧
    (WindowPlace (tU id) 0 0x00FF000100000000 (vaultBase 0) ∧ (tU id).backing (vaultBase 0) = .unbacked) ∧
    ¬RingAllows (tRing ⟨0, false, [0], []⟩ id 0) 0 0 false 0x00FF010100000080 ∧ winOf 0x1000 = .none ∧ (0 : Nat) < (0x1000, 8).2 := by
  refine ⟨by decide, ?_, ?_, by decide, ⟨.inr (.inl ⟨0, by decide, by decide⟩), by decide⟩, ?_, by decide, by decide⟩
  · rw [show winOf 0x00FF0000000BFFF0 = .scratch 0xBFFF0 by decide, show winOf 0x00FF0000000BFFFF = .scratch 0xBFFFF by decide]; trivial
  · rw [show winOf 0x00FF0000000BFFF0 = .scratch 0xBFFF0 by decide, show winOf 0x00FF0000000C000F = .hole by decide]; exact id
  · intro h
    obtain ⟨rs, r, hb, -, -, ha, -⟩ := h 1 128 (by decide)
    obtain ⟨-, rfl, -, -⟩ := witness_rings_legal.2 _ _ _ hb
    have h' := hb.2
    rw [show (tRing ⟨0, false, [0], []⟩ id 0).ring (clOf 0) 0 = some
      { id := 0, group := (1, 0), desc := 0, vault := false, basePa := scratchBase 0, z := 128, n := 4, d := 4, p := 1, q := 1, prods := 1,
        cons := 1, formed := true, r := 0, pendExp := 0
        stages := [⟨0, 1, 1, true, 0⟩, ⟨1, 1, 0, false, 0⟩, ⟨2, 1, 0, false, 0⟩, ⟨3, 1, 0, false, 0⟩] } by decide] at h'
    cases h'
    revert ha; decide

/-- A range of a command with a marked word in it, and nothing of it lost; an mmac's function. -/
theorem witness_array_pieces :
    (let s := (tArr (tHeld 256) id).onDev (fun d => { d with poison := [(scratchBase 0 + 64, 8)] })
     s.lostIn (scratchBase 0) 131072 = none ∧ s.dev.poison = [(scratchBase 0 + 64, 8)] ∧ (AOp.mld 1).ly = none) ∧
    6 ≤ (6 : Nat) ∧ (13 : Nat) < 14 := by decide

/-- Push regions that allow writes and that do not; applies refused and not. -/
theorem witness_push_rights :
    ((((tNet 0x13 3).dev.regions.get [] 0)).getD 0 0).getLsbD 2 = false ∧
    ((((tNet 0x13 2).onDev (fun d => { d with regions := [(0, [BitVec.ofNat 64 (1 + 4 + 8 + 16 + 9 * 2 ^ 32), 0x8000, 0x1000, 0x1000])] })).regionFor 2 9 0x8140 64 3)).isSome = true ∧
    (BitVec.ofNat 64 (1 + 4 + 8 + 16 + 9 * 2 ^ 32)).getLsbD 2 = true ∧
    ApplyRefused (tH id) 0 (fun j => if j = 0 then 0x20 else 0) ∧ ¬ApplyRefused (tNet 0x13 2) 0x1000 (fun j => if j = 0 then 5 else 0) ∧
    (let r : Remote := ⟨0, 0, some 1, none, none, 0, 2⟩
     ((tH (fun h => { h with remotes := [r] })).hart 0).remotes = [r] ∧ r.load = none ∧ r.ctx = some 1) := by
  unfold ApplyRefused
  refine ⟨by decide, by decide, by decide, .inl ⟨by decide, by decide⟩, ?_, by decide⟩
  rintro (⟨h, -⟩ | ⟨-, h⟩ | ⟨h, -⟩)
  · exact absurd h (by decide)
  · rcases h with h | h | ⟨i, h1, -, h⟩ | h
    · exact absurd h (by decide)
    · exact absurd h (by decide)
    · exact h (if_neg (by omega))
    · exact absurd h (by decide)
  · exact absurd h (by decide)

/-- A kill with a remote access of the context in flight; a way set's slice whose way holds a queue's storage, and one that is free. -/
theorem witness_kills_and_ways :
    (let s := (tH (fun h => { h with remotes := [⟨0, 0, some 3, none, none, 0, 2⟩] })).onCtx 3 (fun c => { c with killing := true })
     let s := s.onDev (fun d => { d with qps := [(2, [3, 0])] })
     (∃ r ∈ (s.hart 0).remotes, r.ctx = some 3 ∧ r.load = none ∧ s.dev.qps.get [] r.qp ≠ []) ∧ (s.ctx 3).killing = true) ∧
    (let s := (tH id).onQueue 5 (fun q => { q with qctl := 0x11, qbat := 0x300000000 })
     (s.queue 5).valid = true ∧ fld (s.queue 5).qbat 32 4 = 3) ∧ (tH id).wayRole 0 0 ≠ 1 ∧ fld (1#64) 0 2 = 1 ∧
    (tH id).rangeBusy 0x1000 64 = false := by decide

/-! ## Hypotheses of the statements about images, continued -/

/-- Strand 0 in M-mode at a vrestore of an image at 0x1000, with bytes of it as given. -/
def tImg (flag : Bool) (bytes : List Host.Cell) : State :=
  { tH (fun h => { h with wait := .vrestore 0x1000 flag }) with mem := bytes.map (fun p => (0x1000 + p.1, p.2)) }

/-- The pieces of that image. -/
def tPieces : List Nat := (List.range 1280).map (fun i => 0x1000 + 64 * i)

/-- Every piece of the image is found, plain and in memory; no two places of it are the same. -/
theorem witness_image_pieces :
    (∀ a, a = Acc'.load ∨ a = Acc'.store → (match (tH id).image 0 0x1000 a with
      | .ok xs => decide (xs.map Hit.pa = tPieces) && xs.all (fun x => decide (x.ad = none ∧ x.walked = none ∧ x.stale = none ∧ x.fill = none ∧ isRemote x.pa = false))
      | _ => false) = true) ∧
    (∀ i j, i < j → j < 1280 → tPieces.getD (64 * i / 64) 0 + 64 * i % 64 + 64 ≤ tPieces.getD (64 * j / 64) 0 + 64 * j % 64) ∧
    (tH id).imageBytes 0 false ≠ [] ∧ ((tH id).imageBytes 0 false).all (fun p => !(tH id).held 0 0 (0x1000 + p.1) p.2.length true) = true ∧
    (let t0 := (tH (fun h => { h with wait := .vsave 0x1000 true })).hart 0
     t0.vec.queue = [] ∧ t0.loads = [] ∧ t0.stores = [] ∧ t0.remotes = [] ∧ t0.vec.ncode < 3 ∧ t0.vec.slip < 16 ∧ t0.vec.vl < 2 ^ 14 ∧
       t0.vec.resume.length ≤ 48 ∧ t0.arr.resume.length ≤ 8 ∧ ∀ j, (t0.vec.reg j).ext ≤ regBits t0.vec.ncode / 2048) := by
  refine ⟨?_, ?_, by decide +kernel, by decide +kernel, ?_⟩
  · rintro a (rfl | rfl) <;> decide +kernel
  · intro i j hi hj
    have e : ∀ k, k < 1280 → tPieces.getD (64 * k / 64) 0 = 0x1000 + 64 * k := by
      intro k hk
      rw [show 64 * k / 64 = k by omega, tPieces, List.getD_eq_getElem?_getD, List.getElem?_map, List.getElem?_range hk]
      rfl
    rw [e i (by omega), e j hj]; omega
  · refine ⟨by decide, by decide, by decide, by decide, by decide, by decide, by decide, by decide, by decide, ?_⟩
    intro j
    exact Nat.zero_le _

/-- A byte of that image is the one given for its offset, or 0. -/
theorem image_byte (flag : Bool) (bytes : List Host.Cell) (hb : bytes.all (fun p => decide (p.1 < 81920)) = true) (off : Nat) :
    (tImg flag bytes).imageByte 0 tPieces.toArray off = Tab.get 0 bytes off := by
  have hf : ∀ l : List Host.Cell, ∀ k, Tab.get memDefault (l.map (fun p => (0x1000 + p.1, p.2))) (0x1000 + k) = Tab.get 0 l k := by
    intro l k
    induction l with
    | nil => rfl
    | cons p r ih => simp only [List.map_cons, Tab.get, ih, Nat.add_left_cancel_iff]
  have hn : ∀ l : List Host.Cell, ∀ k, k < 0x1000 → Tab.get memDefault (l.map (fun p => (0x1000 + p.1, p.2))) k = 0 := by
    intro l k hk
    induction l with
    | nil => rfl
    | cons p r ih => simp only [List.map_cons, Tab.get, ih]; rw [if_neg (by omega)]
  have ho : ∀ l : List Host.Cell, l.all (fun p => decide (p.1 < 81920)) = true → ∀ k, 81920 ≤ k → Tab.get 0 l k = 0 := by
    intro l h k hk
    induction l with
    | nil => rfl
    | cons p r ih =>
      simp only [List.all_cons, Bool.and_eq_true, decide_eq_true_eq] at h
      simp only [Tab.get, ih h.2]; rw [if_neg (by omega)]
  have hp : ∀ k, k < 1280 → tPieces.toArray.getD k 0 = 0x1000 + 64 * k := by
    intro k hk
    rw [tPieces, Array.getD_eq_getD_getElem?, List.getElem?_toArray, List.getElem?_map, List.getElem?_range hk]
    rfl
  have hd : ∀ k, k < 0x8000000 → isRemote k = false := by
    intro k hk
    have e : regionOf k = .dram := by unfold regionOf; exact if_pos (by omega)
    unfold isRemote
    rw [e]
  unfold State.imageByte State.byte
  by_cases h : off < 81920
  · dsimp only
    rw [hp _ (by omega), show 0x1000 + 64 * (off / 64) + off % 64 = 0x1000 + off by omega, hd _ (by omega)]
    simp only [Bool.false_eq_true, if_false, tImg, hf]
  · have e : tPieces.toArray.getD (off / 64) 0 = 0 := by
      rw [tPieces, Array.getD_eq_getD_getElem?, List.getElem?_toArray, List.getElem?_map, List.getElem?_eq_none (by rw [List.length_range]; omega)]
      rfl
    dsimp only
    rw [e, Nat.zero_add, hd _ (by omega)]
    simp only [Bool.false_eq_true, if_false, tImg, hn _ _ (show off % 64 < 0x1000 by omega), ho _ hb off (by omega)]

/-- The number that the image holds in n bytes from an offset. -/
def tNum (bytes : List Host.Cell) (o n : Nat) : Nat := ofBytes ((List.range n).map (fun i => Tab.get 0 bytes (o + i)))

theorem image_number (flag : Bool) (bytes : List Host.Cell) (hb : bytes.all (fun p => decide (p.1 < 81920)) = true) :
    (tImg flag bytes).img 0 tPieces.toArray = tNum bytes := by
  funext o n
  simp only [State.img, tNum, image_byte flag bytes hb]

/-- An image whose format word is 1, with T as it says, has no bad field. -/
theorem witness_image_good :
    (∀ o, ¬ImageBadField ((tImg false [(248, 1)]).img 0 tPieces.toArray) 0 false o) ∧
    ∀ o, ¬ImageBadField ((tImg true [(21, 0x10), (248, 1)]).img 0 tPieces.toArray) 0 true o := by
  rw [image_number _ _ (by decide), image_number _ _ (by decide)]
  constructor <;> intro o <;> unfold ImageBadField <;>
    rintro (h | h | h | h | ⟨i, h1, rfl, h2⟩ | h | h | h | h | ⟨j, h1, rfl, h2⟩ | h | h | h | ⟨k, -, h1, rfl, h2⟩)
  all_goals first
    | exact absurd h.2 (by decide +kernel)
    | (revert i; decide +kernel)
    | (revert j; decide +kernel)
    | (revert k; decide +kernel)

/-- An image all of zeros is bad first at its format word; the image of a ring slot of another cluster is lost; one of a channel in motion. -/
theorem witness_image_others :
    (∀ o, ImageBadField ((tImg false []).img 0 tPieces.toArray) 0 false o ↔ o = 248) ∧
    (let img := (tImg true [(21, 0x10), (248, 1), (6208, 1), (6209, 5)]).img 0 tPieces.toArray
     img 6208 8 % 2 = 1 ∧ img 6208 8 / 2 ^ 8 % 256 ≠ clOf 0) ∧
    (tImg true [(21, 0x10), (248, 1), (6532, 2)]).img 0 tPieces.toArray (6464 + 128 * 0 + 64) 8 / 2 ^ 33 % 16 ≠ 0 ∧
    (let img := (tImg true [(21, 0x10), (248, 1)]).img 0 tPieces.toArray
     (∀ i, i < 8 → ¬img (6208 + 32 * i) 8 % 2 = 1) ∧ ∀ i, i < 4 → img (6464 + 128 * i + 64) 8 / 2 ^ 33 % 16 = 0) := by
  rw [image_number _ _ (by decide), image_number _ _ (by decide), image_number _ _ (by decide), image_number _ _ (by decide)]
  refine ⟨fun o => ⟨?_, ?_⟩, by decide, by decide, by decide⟩
  · unfold ImageBadField
    rintro (h | h | h | h | ⟨i, h1, rfl, h2⟩ | h | h | h | h | ⟨j, h1, rfl, h2⟩ | h | h | h | ⟨k, -, h1, rfl, h2⟩)
    all_goals first
      | exact h.1
      | exact absurd h.2 (by decide +kernel)
      | (revert i; decide +kernel)
      | (revert j; decide +kernel)
      | (revert k; decide +kernel)
  · rintro rfl
    unfold ImageBadField
    exact .inr (.inr (.inr (.inr (.inr (.inr (.inr (.inr (.inr (.inr (.inr (.inl ⟨rfl, by decide⟩)))))))))))

/-! ## Worked examples of the spec -/

/-- Example 1-1: strand 3 of core (13, 5) on CD2. -/
theorem test_identifiers :
    coreOf 1399 = 349 ∧ dieOfCore 349 = 2 ∧ clusterOf 349 = 86 ∧ coreAt 86 3 = 349 ∧ scratchBase 349 = 0x010125D00000 ∧
    vaultBase 86 = 0x0100AC000000 ∧ wayBase 349 0 = 0x0100AD800000 := by decide +kernel

/-- A vector register of elements of eb bits from element 0. -/
def tReg' (eb : Nat) (cs : List Nat) : VReg :=
  { VReg.start with bits := BitVec.ofNat 65536 ((cs.zipIdx).foldl (fun a p => a + p.1 * 2 ^ (eb * p.2)) 0) }

/-- Example 4-2: vs2 = (2^24, 1, 1, -2^24, 1) in v2, vs1.e[0] = 0 in v1, with bit 4 of k3 clear and set. -/
def tSum (f : RedOp) (m : Nat) : Nat :=
  let v := { Vec.start 32 with v := [(2, tReg' 32 [0x4B800000, 0x3F800000, 0x3F800000, 0xCB800000, 0x3F800000])], k := [(3, BitVec.ofNat 8192 m)] }
  (((VEntry.run { tEntry (.red f 3 2 1 3) with vl := 5, ty := 6 } v 0).1).reg 3).elem 32 0

theorem test_tree_and_ordered_sum :
    tSum .fsum 15 = 0x3F800000 ∧ tSum .fosum 15 = 0 ∧ tSum .fsum 31 = 0x40000000 ∧ tSum .fosum 31 = 0x3F800000 := by decide +kernel

/-- Example 7-1: the scales of a block with X = 100 in mx8a, fx8 and fx4, and flsc of the fx8 code. -/
theorem test_scales : chooseScale 0 100 0 = 0x7D ∧ scaleF32 true 0x7CD = 0x3E680000 ∧
    chooseScale 3 100 0 = 0x7CD ∧ chooseScale 4 100 0 = 0x831 := by decide +kernel

/-- Section 7.2's index 0x8305 stands for (-2.5, -0.5, 2.5, 0.5, 0.5, 0.5, 0.5, 0.5), in halves. -/
theorem test_lattice_index : l8qHalves 0x8305 = [-5, -1, 5, 1, 1, 1, 1, 1] := by decide +kernel

/-- Example 8-1: one element of vmma.e4q. -/
theorem test_mma_e4q :
    let v := { Vec.start 32 with v := [(2, tReg' 8 (List.replicate 8 0x38)), (3, tReg' 8 [0x05, 0x83]), (6, tReg' 32 [0x3F800000])] }
    ((MmaOp.run .e4q v 6 2 3 [0x3F000000, 0, 0, 0, 0, 0, 0, 0, 0x3E680000]).reg 6).elem 32 0 = 0x3F9D0000 := by decide +kernel

/-- Example 10-2: pixel (2, 3) after each of the two primitives under the over blend. -/
theorem test_blend :
    ([200, 40, 40].map (fun c => blendChan 1 c 255 128 false)) = [227, 147, 147] ∧ blendChan 1 128 255 128 true = 255 ∧
    blendChan 1 40 227 64 false = 180 ∧ blendChan 1 40 147 64 false = 120 ∧ blendChan 1 200 147 64 false = 160 := by decide +kernel

/-- Example 12-1: the ray (0, 0, -1) + t (0, 0, 1) through the shared edge of T1 and T2; -1 is 0xBF800000. -/
def tTri (x2 : Nat) (tri : List Nat) : List (Nat × Nat) :=
  rtri ([0, 0, 0xBF800000, 0, 0, 0, 0x3F800000, 0x42C80000] ++ List.replicate 24 0) (tri ++ List.replicate 23 0) x2

theorem test_shared_edge :
    let t1 := [0, 0xBF800000, 0, 0, 0x3F800000, 0, 0xBF800000, 0, 0]
    let t2 := [0, 0x3F800000, 0, 0, 0xBF800000, 0, 0x3F800000, 0, 0]
    ((tTri 0 t1).lookup 16).map (fun w => w / 2 ^ 16 % 2) = some 0 ∧ ((tTri 0 t2).lookup 16).map (fun w => w / 2 ^ 16 % 4) = some 3 ∧
    (tTri 0 t2).lookup 18 = some 0x3F800000 ∧ (tTri 0 t2).lookup 19 = some 0x3F000000 ∧ (tTri 0 t2).lookup 20 = some 0 ∧
    ((tTri 1 t2).lookup 16).map (fun w => w / 2 ^ 16 % 2) = some 0 := by decide +kernel

/-- Example 12-2: candidates t = 10 (prim 9), 30 (prim 7), 30 (prim 12) of a record with tmax = 50; racc leaves none, and tmax 10. -/
theorem test_racc :
    let r := List.replicate 7 0 ++ [0x42480000, 0x41200000, 9, 0x41F00000, 7, 0x41F00000, 12, 0, 0, 3 * 2 ^ 19] ++ List.replicate 15 0
    (racc r).lookup 7 = some 0x41200000 ∧ (racc r).lookup 17 = some 9 ∧ (racc r).lookup 8 = some 0 ∧
    ((racc r).lookup 16).map (fun w => w / 2 ^ 19 % 8) = some 0 ∧ (rrej r).lookup 9 = some 7 ∧ (rrej r).lookup 11 = some 12 := by decide +kernel

/-- Example 12-3: the bilinear weights of u = 0.3, v = 0.375 in a 4x4 texture, and the filtered R. -/
theorem test_bilinear :
    let d : TexDesc := { base := 0, fmt := 2, w := 4, h := 4, levels := 1, au := 1, av := 1, filter := 1 }
    ((d.sample 0x3E99999A 0x3EC00000 0).1.map Tap.weight) = [19712, 45824, 0, 0] ∧ (d.sample 0x3E99999A 0x3EC00000 0).2 = 16 ∧
    (filterTexel [(19712, ⟨0, 0, 0, 0⟩), (45824, ⟨255, 0, 0, 0⟩)] 16).r = 178 := by decide +kernel

/-- Example 14-1: the masks of the two triangles of Program 1 over tile (9, 2). -/
theorem test_vedge :
    let edge := fun (a b c : Int) => ofInt 32 a + ofInt 32 b * 2 ^ 32 + ofInt 64 c * 2 ^ 64
    let tri := fun (c0 c1 c2 : Int) => edge 0 1 c0 + edge 1 0 c1 * 2 ^ 128 + edge (-1) (-1) c2 * 2 ^ 256
    (vedge (tri (-4096) (-18432) 24576) 0x100048).1 = 0x000103070F1F3F7F ∧ (vedge (tri (-4608) (-18944) 25088) 0x100048).1 = 0x00040C1C3C7C0000 ∧
    (vedge (tri (-4096) (-18432) 24576) 0x100048).2.getD (128 + 23) 0 = -512 := by decide +kernel

/-- Example 15-1: element 0 is 1.75 and elements 1 to 31 are 41/32 times 2^-8, shaped through a leeway register of one chain: the codes of
elements 0 to 4, the scale code 0x770 and the residue -2^-13. -/
theorem test_shaping :
    let xs := FVal.fin false 7 (-2) :: List.replicate 31 (FVal.fin false 41 (-13))
    let o := shapeBlock 3 Leeway.start 0 true xs []
    o.codes.take 5 = [0x7E, 0x3A, 0x3A, 0x3B, 0x3A] ∧ o.scale = 0x770 ∧ o.res.get 0 0 = 0xB9000000 := by decide +kernel

/-! ## Single instructions -/

/-- X[3] and the pc after an instruction. -/
def after3 (o : Out) : Option (Word × Word) :=
  match o with
  | .next t => some (t.x 0 3, (t.hart 0).pc)
  | _ => none

theorem test_arithmetic :
    after3 (exec (.add 3 1 2) (tU (tX 0xFFFFFFFFFFFFFFFF 2))) = some (1, 4) ∧
    after3 (exec (.sltu 3 1 2) (tU (tX 0xFFFFFFFFFFFFFFFF 2))) = some (0, 4) ∧
    after3 (exec (.slt 3 1 2) (tU (tX 0xFFFFFFFFFFFFFFFF 2))) = some (1, 4) ∧
    after3 (exec (.sraw 3 1 2) (tU (tX 0x80000000 4))) = some (0xFFFFFFFFF8000000, 4) ∧
    after3 (exec (.mulh 3 1 2) (tU (tX 0x8000000000000000 2))) = some (0xFFFFFFFFFFFFFFFF, 4) ∧
    after3 (exec (.mulhsu 3 1 2) (tU (tX 0xFFFFFFFFFFFFFFFF 0xFFFFFFFFFFFFFFFF))) = some (0xFFFFFFFFFFFFFFFF, 4) ∧
    after3 (exec (.div 3 1 2) (tU (tX 7 0))) = some (0xFFFFFFFFFFFFFFFF, 4) ∧
    after3 (exec (.div 3 1 2) (tU (tX 0x8000000000000000 0xFFFFFFFFFFFFFFFF))) = some (0x8000000000000000, 4) ∧
    after3 (exec (.rem 3 1 2) (tU (tX 0xFFFFFFFFFFFFFFF9 2))) = some (0xFFFFFFFFFFFFFFFF, 4) ∧
    after3 (exec (.jalr 3 1 5) (tU (tX 0x1000 0))) = some (4, 0x1004) := by decide +kernel

end Sys2Proof.Machine
end

section
/-!
PROOFS. Vector configuration (R68 to R70) and strip-mined loops (R73 to R75): what vcfg, vsetlen, vloopcfg and vloop do.
-/
namespace Sys2Proof.Machine

/-! ## Own instructions on a strand (R35) -/

theorem State.own_of_strand {s : State} (hs : s.cur < 2048) (w : BitVec 32) (ok : Bool) (k : State) :
    s.own w ok k = s.legal w ok k := by
  have hm : isMgmt s.cur = false := by simpa [isMgmt] using hs
  rw [State.own, hm, Bool.not_false, Bool.and_true]

theorem own_true {s : State} {w : BitVec 32} {ok : Bool} {k : State} (hs : s.cur < 2048) (h : ok = true) :
    s.own w ok k = .next k := (State.own_of_strand hs w ok k).trans (legal_true h)

theorem answers_own_illegal {s : State} {i : Instr} {w : BitVec 32} {ok : Bool} {k : State} (hs : s.cur < 2048)
    (e : exec i s = s.own w ok k) (h : ok = false) : Answers i s (RaisesIllegal s w) :=
  answers_illegal (e.trans (State.own_of_strand hs w ok k)) h

/-! ## Words of custom-0 (R29, Table 2-2) -/

/-- The word of a form with fn3 001: each field stands at its place. -/
theorem Fields.toWord_vectorConfig (f7 : BitVec 7) (r2 r1 rd : BitVec 5) :
    Fields.toWord ⟨f7, r2, r1, 1, rd, 0xb⟩ = 0x100B#32 ||| f7.setWidth 32 <<< 25 ||| r2.setWidth 32 <<< 20 |||
      r1.setWidth 32 <<< 15 ||| rd.setWidth 32 <<< 7 := by
  apply BitVec.eq_of_getLsbD_eq
  intro i hi
  simp only [Fields.toWord, BitVec.getLsbD_append, BitVec.getLsbD_or, BitVec.getLsbD_shiftLeft, BitVec.getLsbD_setWidth]
  interval_cases i <;> simp

theorem Fields.toWord_f3 (f : Fields) : f.toWord.extractLsb' 12 3 = f.f3 := by
  apply BitVec.eq_of_getLsbD_eq
  intro i hi
  simp only [Fields.toWord, BitVec.getLsbD_extractLsb', BitVec.getLsbD_append]
  interval_cases i <;> simp

theorem Fields.toWord_op (f : Fields) : f.toWord.extractLsb' 0 7 = f.op := BitVec.extractLsb'_append_eq_right

theorem setWidth_zero_append {n m : Nat} (k : Nat) (x : BitVec m) : (0#n ++ x).setWidth k = x.setWidth k := by
  apply BitVec.eq_of_toNat_eq
  simp [BitVec.toNat_append]

theorem encode_vcfg (rd rs1 : BitVec 5) :
    encode (.vcfg rd rs1) = 0x0200100B#32 ||| rs1.setWidth 32 <<< 15 ||| rd.setWidth 32 <<< 7 :=
  Fields.toWord_vectorConfig 1 0 rs1 rd

theorem encode_vsetlen (rd rs1 : BitVec 5) (ty : BitVec 4) : encode (.vsetlen rd rs1 ty) =
    0x0400100B#32 ||| ty.setWidth 32 <<< 20 ||| rs1.setWidth 32 <<< 15 ||| rd.setWidth 32 <<< 7 := by
  rw [← setWidth_zero_append (n := 1)]
  exact Fields.toWord_vectorConfig 2 (0#1 ++ ty) rs1 rd

theorem encode_vloopcfg (slot : BitVec 2) (rs1 : BitVec 5) :
    encode (.vloopcfg slot rs1) = 0x0000100B#32 ||| rs1.setWidth 32 <<< 15 ||| slot.setWidth 32 <<< 7 := by
  rw [← setWidth_zero_append (n := 3) 32 slot]
  exact Fields.toWord_vectorConfig 0 0 rs1 (0#3 ++ slot)

/-! ## A change of the x registers and the vector side of the current hart -/

/-- From s to t nothing has changed but the x registers and the vector side of the current hart, and this is v now. -/
def OnlyXVec (s : State) (v : Vec) (t : State) : Prop :=
  t.hart s.cur = { s.hart s.cur with x := (t.hart s.cur).x, vec := v } ∧ OnlyHart s t s.cur

theorem OnlyXVec.refl (s : State) : OnlyXVec s s.vec s := ⟨rfl, OnlyHart.refl s s.cur⟩

theorem OnlyXVec.setX {s t : State} {v : Vec} (a : OnlyXVec s v t) (n : Nat) (x : Word) :
    OnlyXVec s v (t.setX s.cur n x) := by
  refine ⟨?_, a.2.trans (onlyHart_setX t s.cur n x)⟩
  rw [State.hart_setX_self, a.1]

theorem OnlyXVec.onVec {s t : State} {v : Vec} (a : OnlyXVec s v t) (f : Vec → Vec) :
    OnlyXVec s (f v) (t.onVec s.cur f) := by
  refine ⟨?_, a.2.trans (onlyHart_onVec t s.cur f)⟩
  rw [State.hart_onVec, if_pos rfl, a.1]

/-- Retiring after such a change. -/
theorem OnlyXVec.retireTo {s t : State} {v : Vec} (a : OnlyXVec s v t) (pc : Word) :
    (t.retireTo s.cur pc).hart s.cur =
        { (s.hart s.cur).retired pc with x := ((t.retireTo s.cur pc).hart s.cur).x, vec := v } ∧
      OnlyHart s (t.retireTo s.cur pc) s.cur := by
  refine ⟨?_, a.2.trans (onlyHart_retireTo t s.cur pc)⟩
  rw [State.hart_retireTo_self, a.1]; rfl

theorem OnlyXVec.retire_eq {s t : State} {v : Vec} (a : OnlyXVec s v t) :
    t.retire s.cur = t.retireTo s.cur s.nextPc := by
  rw [State.retire, a.1]; rfl

@[simp] theorem State.x_onVec (s : State) (h k n : Nat) (f : Vec → Vec) : (s.onVec h f).x k n = s.x k n := by
  refine State.x_congr ?_ n
  rw [State.hart_onVec]
  split
  · subst_vars; rfl
  · rfl

/-! ## vcfg and vsetlen (R68 to R70) -/

/-- The current hart has retired to the next word: X[rd] holds x, its vector side is v, and nothing else has changed. -/
def SetsVec (s : State) (rd : BitVec 5) (x : Word) (v : Vec) (t : State) : Prop :=
  XHolds s rd x t ∧ t.hart s.cur = { (s.hart s.cur).retired s.nextPc with x := (t.hart s.cur).x, vec := v } ∧
    OnlyHart s t s.cur

theorem setsVec_retire {s t : State} {rd : BitVec 5} {x : Word} {v : Vec} (a : OnlyXVec s v t) (hx : XHolds s rd x t) :
    SetsVec s rd x v (t.retire s.cur) := by
  rw [a.retire_eq]
  exact ⟨fun n => (State.x_retireTo ..).trans (hx n), a.retireTo s.nextPc⟩

/-- X[rd] is written before the vector side changes, as vcfg has it. -/
theorem setsVec_setX_onVec (s : State) (rd : BitVec 5) (x : Word) (f : Vec → Vec) :
    SetsVec s rd x (f s.vec) (((s.setX s.cur rd.toNat x).onVec s.cur f).retire s.cur) :=
  setsVec_retire (((OnlyXVec.refl s).setX _ _).onVec f) fun n => (State.x_onVec ..).trans (xHolds_setX s rd x n)

/-- X[rd] is written after the vector side changes, as vsetlen has it. -/
theorem setsVec_onVec_putX (s : State) (rd : BitVec 5) (x : Word) (f : Vec → Vec) :
    SetsVec s rd x (f s.vec) ((s.onVec s.cur f).putX s.cur rd x) :=
  setsVec_retire (((OnlyXVec.refl s).onVec f).setX _ _) fun n => by
    simpa using xHolds_setX (s.onVec s.cur f) rd x n

theorem typeDefined_iff (ty : BitVec 4) : typeDefined ty = true ↔ ty.toNat ≠ 7 ∧ ty.toNat < 12 := by
  simp only [typeDefined, Bool.or_eq_true, Bool.and_eq_true, decide_eq_true_eq]
  omega

/-- A configuration word that vcfg accepts (Table 4-1). -/
def ConfigWordOk (w : Word) : Prop := fld w 0 2 < 3 ∧ fld w 2 2 = 0 ∧ fld w 8 56 = 0

/-- vcfg's test: a good word, and no change of n while a resume state is held (R68, R69). -/
theorem vcfg_test_iff (w : Word) (v : Vec) :
    (decide (fld w 0 2 ≠ 3) && zeroBits w 2 2 && zeroBits w 8 56 && (decide (fld w 0 2 = v.ncode) || v.resume.isEmpty)) =
      true ↔ ConfigWordOk w ∧ (fld w 0 2 = v.ncode ∨ v.resume = []) := by
  have h4 : fld w 0 2 < 4 := Nat.mod_lt _ (by decide)
  simp only [ConfigWordOk, zeroBits, Bool.and_eq_true, Bool.or_eq_true, decide_eq_true_eq, List.isEmpty_iff]
  constructor
  · rintro ⟨⟨⟨h3, hz⟩, hz'⟩, hr⟩
    exact ⟨⟨by omega, hz, hz'⟩, hr⟩
  · rintro ⟨⟨h3, hz, hz'⟩, hr⟩
    exact ⟨⟨⟨by omega, hz⟩, hz'⟩, hr⟩

section
variable {s : State} {rd rs1 : BitVec 5} (hs : s.cur < 2048)
include hs

theorem exec_vcfg_legal (hw : ConfigWordOk (s.rx rs1)) (hr : fld (s.rx rs1) 0 2 = s.vec.ncode ∨ s.vec.resume = []) :
    exec (.vcfg rd rs1) s = .next
      (if fld (s.rx rs1) 0 2 = s.vec.ncode then
        ((s.setX s.cur rd.toNat s.vec.config).onVec s.cur (fun v => { v with slip := fld (s.rx rs1) 4 4 })).retire s.cur
      else if s.vec.idle then s.vcfgDone s.cur rd.toNat (fld (s.rx rs1) 0 2) (fld (s.rx rs1) 4 4)
      else s.hold s.cur (.vcfg rd.toNat (fld (s.rx rs1) 0 2) (fld (s.rx rs1) 4 4))) :=
  own_true hs ((vcfg_test_iff _ _).2 ⟨hw, hr⟩)

/-- A vcfg that leaves n as it is changes S alone (R69). -/
theorem answers_vcfg_same (hw : ConfigWordOk (s.rx rs1)) (hn : fld (s.rx rs1) 0 2 = s.vec.ncode) :
    Answers (.vcfg rd rs1) s (SetsVec s rd s.vec.config { s.vec with slip := fld (s.rx rs1) 4 4 }) := by
  refine ⟨_, exec_vcfg_legal hs hw (.inl hn), ?_⟩
  rw [if_pos hn]
  exact setsVec_setX_onVec s rd _ _

/-- A vcfg that changes n with the queues empty zeroes vl and the v registers (R69). -/
theorem answers_vcfg_changed (hw : ConfigWordOk (s.rx rs1)) (hn : fld (s.rx rs1) 0 2 ≠ s.vec.ncode)
    (hr : s.vec.resume = []) (hq : s.vec.queue = []) :
    Answers (.vcfg rd rs1) s (SetsVec s rd s.vec.config
      { s.vec with ncode := fld (s.rx rs1) 0 2, slip := fld (s.rx rs1) 4 4, vl := 0, v := [] }) := by
  refine ⟨_, exec_vcfg_legal hs hw (.inr hr), ?_⟩
  rw [if_neg hn, Vec.idle, hq]
  exact setsVec_setX_onVec s rd _ _

/-- A vcfg that changes n with something queued waits (R69). -/
theorem answers_vcfg_waits (hw : ConfigWordOk (s.rx rs1)) (hn : fld (s.rx rs1) 0 2 ≠ s.vec.ncode)
    (hr : s.vec.resume = []) (hq : s.vec.queue ≠ []) :
    Answers (.vcfg rd rs1) s (fun t =>
      t.hart s.cur = { s.hart s.cur with wait := .vcfg rd.toNat (fld (s.rx rs1) 0 2) (fld (s.rx rs1) 4 4) } ∧
      OnlyHart s t s.cur) := by
  have hi : ¬s.vec.idle = true := fun h => hq (List.isEmpty_iff.1 h)
  refine ⟨_, exec_vcfg_legal hs hw (.inr hr), ?_⟩
  rw [if_neg hn, if_neg hi]
  exact ⟨by rw [State.hold, State.hart_onHart, if_pos rfl], onlyHart_hold s s.cur _⟩

theorem answers_vcfg_illegal
    (h : ¬ConfigWordOk (s.rx rs1) ∨ (fld (s.rx rs1) 0 2 ≠ s.vec.ncode ∧ s.vec.resume ≠ [])) :
    Answers (.vcfg rd rs1) s (RaisesIllegal s (encode (.vcfg rd rs1))) := by
  refine answers_own_illegal hs rfl (Bool.eq_false_iff.2 fun ht => ?_)
  obtain ⟨hw, hr⟩ := (vcfg_test_iff _ _).1 ht
  tauto

/-- A vsetlen of a defined type sets vl and vetype (R70). -/
theorem answers_vsetlen {ty : BitVec 4} (ht : typeDefined ty = true) :
    Answers (.vsetlen rd rs1 ty) s (SetsVec s rd (word (grant s.vec.vgrant s.vec.ncode ty (s.rx rs1).toNat))
      { s.vec with vl := grant s.vec.vgrant s.vec.ncode ty (s.rx rs1).toNat, vetype := ty }) :=
  ⟨_, own_true hs ht, setsVec_onVec_putX s rd _ _⟩

end

/-- Settles O19: each clause is the lemma above about that case of vsetlen or vcfg. -/
theorem vectorConfigResults : Obligations.VectorConfigResults := by
  intro s rd rs1 ty hs
  have hold : BitVec.ofNat 64 (s.vec.ncode + 16 * s.vec.slip) = s.vec.config := by
    rw [Vec.config, word, Nat.mul_comm]
  refine ⟨fun hd => ?_, fun hd => ?_, fun hw hn => ?_, fun hw hn hr hq => ?_, fun hw hn hr hq => ?_, fun h => ?_,
    encode_vcfg rd rs1, encode_vsetlen rd rs1 ty⟩
  · exact answers_vsetlen hs ((typeDefined_iff ty).2 hd)
  · exact answers_own_illegal hs rfl (Bool.eq_false_iff.2 fun ht => hd ((typeDefined_iff ty).1 ht))
  · exact hold ▸ answers_vcfg_same hs hw hn
  · exact hold ▸ answers_vcfg_changed hs hw hn hr hq
  · exact answers_vcfg_waits hs hw hn hr hq
  · exact answers_vcfg_illegal hs h

end Sys2Proof.Machine
end

section
/-!
PROOFS. Strip-mined loops (R73 to R75): what vloopcfg and vloop do.
-/
namespace Sys2Proof.Machine

/-! ## vloopcfg (R73) -/

/-- The register that entry j of a slot names (R73); 0 marks the entry unused. -/
def LoopSlot.entry (l : LoopSlot) (j : Nat) : Nat := fld l.cfg (16 * j) 5

/-- A slot as vloopcfg loads it from a word: its counts are clear (R73). -/
def LoopSlot.loaded (w : Word) : LoopSlot := { LoopSlot.empty with cfg := w }

theorem regs_nodup_iff (l : LoopSlot) :
    l.regs.Nodup ↔ ¬∃ i j, i < j ∧ j < 4 ∧ l.entry i = l.entry j ∧ l.entry i ≠ 0 := by
  change (((List.range 4).map l.entry).filter (fun r => r != 0)).Pairwise (· ≠ ·) ↔ _
  rw [List.pairwise_filter, List.pairwise_map, List.pairwise_iff_getElem]
  simp only [List.length_range, List.getElem_range, bne_iff_ne]
  constructor
  · rintro h ⟨i, j, hij, hj, he, h0⟩
    exact h i j (by omega) hj hij h0 (he ▸ h0) he
  · intro h i j _ hj hij h0 _ he
    exact h ⟨i, j, hij, hj, he, h0⟩

theorem mem_regs_iff (l : LoopSlot) (r : Nat) : r ∈ l.regs ↔ r ≠ 0 ∧ ∃ j, j < 4 ∧ l.entry j = r := by
  change r ∈ ((List.range 4).map l.entry).filter (fun r => r != 0) ↔ _
  simp only [List.mem_filter, List.mem_map, List.mem_range, bne_iff_ne]
  exact and_comm

/-- In t the loop slots of the current hart of s are those of s, but slot k is l. -/
def SetsSlot (s : State) (k : Nat) (l : LoopSlot) (t : State) : Prop :=
  ∀ j, (t.hart s.cur).vec.loops.get LoopSlot.empty j = if j = k then l else s.vec.loops.get LoopSlot.empty j

/-- The vector side with slot k replaced. -/
def Vec.setLoop (v : Vec) (k : Nat) (l : LoopSlot) : Vec := { v with loops := v.loops.ins k l }

theorem setsSlot_of_vec {s t : State} {k : Nat} {l : LoopSlot} (h : (t.hart s.cur).vec = s.vec.setLoop k l) :
    SetsSlot s k l t := fun j => by rw [h, Vec.setLoop, Tab.get_ins]

theorem State.hart_setSlot (s : State) (h k : Nat) (l : LoopSlot) :
    (s.setSlot h k l).hart h = { s.hart h with vec := (s.hart h).vec.setLoop k l } := by
  rw [State.setSlot, State.hart_onVec, if_pos rfl]; rfl

section
variable {s : State} (hs : s.cur < 2048)
include hs

/-- A legal vloopcfg loads its slot and changes nothing else (R73). -/
theorem answers_vloopcfg {slot : BitVec 2} {rs1 : BitVec 5} (h : (LoopSlot.loaded (s.rx rs1)).regs.Nodup) :
    Answers (.vloopcfg slot rs1) s (fun t =>
      SetsSlot s slot.toNat (.loaded (s.rx rs1)) t ∧
      t.hart s.cur = { (s.hart s.cur).retired s.nextPc with vec := { s.vec with loops := (t.hart s.cur).vec.loops } } ∧
      OnlyHart s t s.cur) := by
  let u := s.setSlot s.cur slot.toNat (.loaded (s.rx rs1))
  have ht : (u.retire s.cur).hart s.cur = _ := State.hart_retire_self u s.cur
  rw [State.hart_setSlot] at ht
  refine ⟨u.retire s.cur, own_true hs (decide_eq_true h), setsSlot_of_vec (congrArg Hart.vec ht), ?_,
    (onlyHart_onVec _ _ _).trans (onlyHart_retire _ _)⟩
  rw [ht]; rfl

end

/-! ## The address registers of a slot (R74) -/

theorem scale_eq_signExtend (l : LoopSlot) (j : Nat) :
    l.scale j = (l.cfg.extractLsb' (16 * j + 5) 11).signExtend 64 := by
  rw [LoopSlot.scale, sx_eq 11 _ (by decide)]
  congr 1
  apply BitVec.eq_of_toNat_eq
  simp [fld]

/-- What entry j adds to register n for each element (R73, R74). -/
def LoopSlot.scaleAt (l : LoopSlot) (n j : Nat) : Word :=
  if l.entry j = n then (l.cfg.extractLsb' (16 * j + 5) 11).signExtend 64 else 0

/-- The register of entry j advances by vl elements. -/
def State.advanceEntry (s : State) (h : Nat) (l : LoopSlot) (vl j : Nat) : State :=
  s.setX h (l.entry j) (s.x h (l.entry j) + word vl * l.scale j)

theorem State.advance_eq (s : State) (h : Nat) (l : LoopSlot) (vl : Nat) :
    s.advance h l vl = (List.range 4).foldl (fun s j => s.advanceEntry h l vl j) s := by
  rw [State.advance]
  congr 1
  funext t j
  rw [State.advanceEntry, LoopSlot.entry]
  dsimp only
  split
  · rename_i h0
    rw [h0, State.setX, if_pos rfl]
  · rfl

theorem State.x_advanceEntry (s : State) (h : Nat) (l : LoopSlot) (vl j n : Nat) (hn : n ≠ 0) :
    (s.advanceEntry h l vl j).x h n = s.x h n + word vl * l.scaleAt n j := by
  rw [State.advanceEntry, State.x_setX, LoopSlot.scaleAt, scale_eq_signExtend]
  by_cases e : l.entry j = n
  · rw [if_pos ⟨rfl, e.symm, e ▸ hn⟩, if_pos e, e]
  · rw [if_neg (fun a => e a.2.1.symm), if_neg e]
    simp

theorem State.x_foldl_advanceEntry (s : State) (h : Nat) (l : LoopSlot) (vl n : Nat) (hn : n ≠ 0) (js : List Nat) :
    (js.foldl (fun s j => s.advanceEntry h l vl j) s).x h n = s.x h n + word vl * (js.map (l.scaleAt n)).sum := by
  induction js generalizing s with
  | nil => simp
  | cons j js ih =>
    rw [List.foldl_cons, ih, State.x_advanceEntry _ _ _ _ _ _ hn, List.map_cons, List.sum_cons, BitVec.mul_add,
      BitVec.add_assoc]

theorem State.x_advance (s : State) (h : Nat) (l : LoopSlot) (vl n : Nat) (hn : n ≠ 0) :
    (s.advance h l vl).x h n =
      s.x h n + word vl * (l.scaleAt n 0 + l.scaleAt n 1 + l.scaleAt n 2 + l.scaleAt n 3) := by
  rw [State.advance_eq, State.x_foldl_advanceEntry _ _ _ _ _ hn]
  simp [List.range_succ, BitVec.add_assoc]

theorem OnlyXVec.advance {s t : State} {v : Vec} (a : OnlyXVec s v t) (l : LoopSlot) (vl : Nat) :
    OnlyXVec s v (t.advance s.cur l vl) := by
  rw [State.advance_eq]
  generalize List.range 4 = js
  induction js generalizing t with
  | nil => exact a
  | cons j js ih => exact ih (a.setX _ _)

/-! ## vloop (R74, R75) -/

/-- The slot that a vloop names. -/
def State.slot (s : State) (k : BitVec 2) : LoopSlot := s.vec.loops.get LoopSlot.empty k.toNat

/-- The count that a vloop leaves: `new` of R74. -/
def State.newCount (s : State) (xc : BitVec 5) : Word := s.rx xc - word s.vec.vl

/-- The misses in a row of a vloop that goes on: M of R74. -/
def State.misses (s : State) (xc : BitVec 5) (k : BitVec 2) : Nat :=
  if ((s.slot k).prev.getD (s.rx xc)).toInt ≤ (s.newCount xc).toInt then (s.slot k).miss + 1 else 0

/-- The state once a vloop has changed the x registers. -/
def State.counted (s : State) (xc : BitVec 5) (k : BitVec 2) : State :=
  (s.advance s.cur (s.slot k) s.vec.vl).setX s.cur xc.toNat (s.newCount xc)

/-- A vloop may name its count register: not x0, and no address register (R74). -/
def LoopSlot.LegalCount (l : LoopSlot) (xc : BitVec 5) : Prop := xc ≠ 0 ∧ ∀ j, j < 4 → l.entry j ≠ xc.toNat

theorem vloop_test_iff (l : LoopSlot) (xc : BitVec 5) :
    (decide (xc ≠ 0) && !l.regs.contains xc.toNat) = true ↔ l.LegalCount xc := by
  have h0 : xc ≠ 0 → xc.toNat ≠ 0 := fun h e => h (BitVec.eq_of_toNat_eq e)
  simp only [Bool.and_eq_true, decide_eq_true_eq, Bool.not_eq_true', ← Bool.not_eq_true, List.contains_iff_mem,
    mem_regs_iff, LoopSlot.LegalCount]
  constructor
  · rintro ⟨hx, hm⟩
    exact ⟨hx, fun j hj e => hm ⟨h0 hx, j, hj, e⟩⟩
  · rintro ⟨hx, hm⟩
    exact ⟨hx, fun ⟨_, j, hj, e⟩ => hm j hj e⟩

/-- The current hart has retired a vloop to pc: the count and the address registers have moved, the slot is l. -/
def Counts (s : State) (xc : BitVec 5) (k : BitVec 2) (pc : Word) (l : LoopSlot) (t : State) : Prop :=
  (∀ n, t.x s.cur n = if n = xc.toNat then s.newCount xc else if n = 0 then 0 else
    s.x s.cur n + word s.vec.vl *
      ((s.slot k).scaleAt n 0 + (s.slot k).scaleAt n 1 + (s.slot k).scaleAt n 2 + (s.slot k).scaleAt n 3)) ∧
  SetsSlot s k.toNat l t ∧
  t.hart s.cur = { (s.hart s.cur).retired pc with
    x := (t.hart s.cur).x, vec := { s.vec with loops := (t.hart s.cur).vec.loops } } ∧
  OnlyHart s t s.cur

theorem State.x_counted (s : State) (xc : BitVec 5) (k : BitVec 2) (h0 : xc ≠ 0) (n : Nat) :
    (s.counted xc k).x s.cur n = if n = xc.toNat then s.newCount xc else if n = 0 then 0 else
      s.x s.cur n + word s.vec.vl *
        ((s.slot k).scaleAt n 0 + (s.slot k).scaleAt n 1 + (s.slot k).scaleAt n 2 + (s.slot k).scaleAt n 3) := by
  have hx : xc.toNat ≠ 0 := fun e => h0 (BitVec.eq_of_toNat_eq e)
  rw [State.counted, State.x_setX]
  by_cases hn : n = xc.toNat
  · rw [if_pos ⟨rfl, hn, hx⟩, if_pos hn]
  · rw [if_neg (fun a => hn a.2.1), if_neg hn]
    by_cases hz : n = 0
    · rw [if_pos hz, hz, State.x_zero]
    · rw [if_neg hz, State.x_advance _ _ _ _ _ hz]

theorem onlyXVec_counted (s : State) (xc : BitVec 5) (k : BitVec 2) (l : LoopSlot) :
    OnlyXVec s (s.vec.setLoop k.toNat l) ((s.counted xc k).setSlot s.cur k.toNat l) :=
  (((OnlyXVec.refl s).advance _ _).setX _ _).onVec _

theorem counts_retireTo (s : State) (xc : BitVec 5) (k : BitVec 2) (pc : Word) (l : LoopSlot) (h0 : xc ≠ 0) :
    Counts s xc k pc l (((s.counted xc k).setSlot s.cur k.toNat l).retireTo s.cur pc) := by
  obtain ⟨hh, ho⟩ := (onlyXVec_counted s xc k l).retireTo pc
  have hv := congrArg Hart.vec hh
  refine ⟨fun n => ?_, setsSlot_of_vec hv, ?_, ho⟩
  · rw [State.x_retireTo, State.setSlot, State.x_onVec, State.x_counted s xc k h0]
  · rw [hv]; exact hh

section
variable {s : State} {xc : BitVec 5} {k : BitVec 2} {off : BitVec 12} (hs : s.cur < 2048)
include hs

/-- What a legal vloop does, case by case, as R74 writes it. -/
theorem exec_vloop_legal (hl : (s.slot k).LegalCount xc) :
    exec (.vloop xc k off) s = .next
      (if 0 < (s.newCount xc).toInt then
        if 2 ≤ s.misses xc k then
          (s.setSlot s.cur k.toNat { s.slot k with miss := 2 }).raise s.cur 24 (word (k.toNat + s.vec.vl * 2 ^ 16))
        else if ((s.hart s.cur).pc + offB off).toNat % 4 = 0 then
          ((s.counted xc k).setSlot s.cur k.toNat
            { s.slot k with prev := some (s.newCount xc), miss := s.misses xc k, creg := some xc.toNat }).retireTo s.cur
              ((s.hart s.cur).pc + offB off)
        else s.raise s.cur 0 ((s.hart s.cur).pc + offB off)
      else
        ((s.counted xc k).setSlot s.cur k.toNat
          { s.slot k with prev := none, miss := 0, creg := some xc.toNat }).retire s.cur) := by
  refine (own_true hs ((vloop_test_iff _ _).2 hl)).trans ?_
  have hg : (0 : Word).slt (s.newCount xc) = decide (0 < (s.newCount xc).toInt) := rfl
  have hm : (if ((s.slot k).prev.getD (s.rx xc)).sle (s.newCount xc) then min 2 ((s.slot k).miss + 1) else 0) =
      min 2 (s.misses xc k) := by
    rw [State.misses, BitVec.sle_eq_decide]
    by_cases hle : ((s.slot k).prev.getD (s.rx xc)).toInt ≤ (s.newCount xc).toInt
    · simp only [hle, decide_true, if_true]
    · simp only [hle, decide_false, Bool.false_eq_true, if_false, Nat.min_zero]
  dsimp only
  rw [← State.newCount, ← State.slot, hg, hm]
  by_cases h0 : 0 < (s.newCount xc).toInt
  · by_cases h2 : 2 ≤ s.misses xc k
    · simp only [h0, h2, decide_true, Nat.min_eq_left, Bool.and_self, if_true]
    · have hmin : min 2 (s.misses xc k) = s.misses xc k := Nat.min_eq_right (by omega)
      have hne : s.misses xc k ≠ 2 := by omega
      simp only [h0, h2, hmin, hne, decide_true, decide_false, Bool.and_false, Bool.false_eq_true, if_true, if_false,
        Bool.true_and, decide_not, Bool.not_eq_true', decide_eq_false_iff_not, ite_not]
      rfl
  · simp only [h0, decide_false, Bool.false_and, Bool.false_eq_true, if_false]
    rfl

theorem answers_vloop_illegal (hl : ¬(s.slot k).LegalCount xc) :
    Answers (.vloop xc k off) s (RaisesIllegal s (encode (.vloop xc k off))) :=
  answers_own_illegal hs rfl (Bool.eq_false_iff.2 fun ht => hl ((vloop_test_iff _ _).1 ht))

/-- The count stays above 0 and the target may be gone to: back to the label. -/
theorem answers_vloop_back (hl : (s.slot k).LegalCount xc) (hg : 0 < (s.newCount xc).toInt) (hm : s.misses xc k < 2)
    (ht : TargetOk ((s.hart s.cur).pc + offB off)) :
    Answers (.vloop xc k off) s (Counts s xc k ((s.hart s.cur).pc + offB off)
      { s.slot k with prev := some (s.newCount xc), miss := s.misses xc k, creg := some xc.toNat }) := by
  refine ⟨_, exec_vloop_legal hs hl, ?_⟩
  rw [TargetOk] at ht
  rw [if_pos hg, if_neg (by omega), if_pos ht]
  exact counts_retireTo s xc k _ _ hl.1

theorem answers_vloop_misaligned (hl : (s.slot k).LegalCount xc) (hg : 0 < (s.newCount xc).toInt)
    (hm : s.misses xc k < 2) (ht : ¬TargetOk ((s.hart s.cur).pc + offB off)) :
    Answers (.vloop xc k off) s (Raises s 0 ((s.hart s.cur).pc + offB off)) := by
  refine ⟨_, exec_vloop_legal hs hl, ?_⟩
  rw [TargetOk] at ht
  rw [if_pos hg, if_neg (by omega), if_neg ht]
  exact raises_raise s 0 _ (by decide)

/-- The second miss in a row: LOOP_STALL from a state where only M has changed (R75). -/
theorem answers_vloop_stall (hl : (s.slot k).LegalCount xc) (hg : 0 < (s.newCount xc).toInt) (hm : 2 ≤ s.misses xc k) :
    Answers (.vloop xc k off) s (fun t => ∃ u, SetsSlot s k.toNat { s.slot k with miss := 2 } u ∧
      u.hart s.cur = { s.hart s.cur with vec := { s.vec with loops := (u.hart s.cur).vec.loops } } ∧
      OnlyHart s u s.cur ∧ Raises u 24 (word (k.toNat + s.vec.vl * 2 ^ 16)) t) := by
  have hh := State.hart_setSlot s s.cur k.toNat { s.slot k with miss := 2 }
  refine ⟨_, exec_vloop_legal hs hl, s.setSlot s.cur k.toNat { s.slot k with miss := 2 }, ?_, ?_, onlyHart_onVec _ _ _, ?_⟩
  · exact setsSlot_of_vec (congrArg Hart.vec hh)
  · rw [hh]; rfl
  · rw [if_pos hg, if_pos hm]
    exact raises_raise (s.setSlot s.cur k.toNat _) 24 _ (by decide)

/-- The count has run out: on to the next word. -/
theorem answers_vloop_end (hl : (s.slot k).LegalCount xc) (hg : ¬0 < (s.newCount xc).toInt) :
    Answers (.vloop xc k off) s
      (Counts s xc k s.nextPc { s.slot k with prev := none, miss := 0, creg := some xc.toNat }) := by
  refine ⟨_, exec_vloop_legal hs hl, ?_⟩
  rw [if_neg hg, (onlyXVec_counted s xc k _).retire_eq]
  exact counts_retireTo s xc k _ _ hl.1

end

/-- Settles O20: each clause is the lemma above about that case of vloopcfg or vloop. -/
theorem loopResults : Obligations.LoopResults := by
  refine ⟨fun s slot rs1 hs => ⟨fun hc => ?_, fun hc => ?_, encode_vloopcfg slot rs1⟩,
    fun s xc slot off hs => ⟨fun hl => ?_, fun hl hg hm ht => ?_, fun hl hg hm ht => ?_, fun hl hg hm => ?_,
      fun hl hg => ?_, Fields.toWord_op _, Fields.toWord_f3 _⟩⟩
  · exact answers_vloopcfg hs ((regs_nodup_iff _).2 hc)
  · exact answers_own_illegal hs rfl (decide_eq_false fun h => (regs_nodup_iff _).1 h hc)
  · exact answers_vloop_illegal hs hl
  · exact answers_vloop_back hs hl hg hm ht
  · exact answers_vloop_misaligned hs hl hg hm ht
  · exact answers_vloop_stall hs hl hg hm
  · exact answers_vloop_end hs hl hg

end Sys2Proof.Machine
end
